-- ==== Sys2Proof/Word.lean ====
section
/-! DEFINITION. The word types of the machine and their plainest arithmetic (spec R5, R7, R8, R35). -/

namespace Sys2Proof

/-- One byte of memory. -/
abbrev Byte := BitVec 8
/-- A 32-bit word: a register, a granule, a local address (R10, R11, R58, R157). -/
abbrev Word := BitVec 32
/-- A 64-bit value: an even/odd pair (R12), a far address (R166), a descriptor (R183). -/
abbrev DWord := BitVec 64

/-- `wrap(x, n)` of R8. -/
def wrap (x : Int) (n : Nat) : BitVec n := BitVec.ofInt n x

/-- `sext(b, n)` of R8 as an exact integer. -/
def sext {w : Nat} (b : BitVec w) : Int := b.toInt

/-- `zext(b, n)` of R8 as an exact integer. -/
def zext {w : Nat} (b : BitVec w) : Int := (b.toNat : Int)

/-- x clamped to lo..hi (R8 `sat`). -/
def clampInt (x lo hi : Int) : Int := max lo (min x hi)

/-- The pair value: low word from the even register (R12). -/
def pair (hi lo : Word) : DWord := hi ++ lo

/-- The low and high words of a pair (R12). -/
def loWord (x : DWord) : Word := x.extractLsb' 0 32
def hiWord (x : DWord) : Word := x.extractLsb' 32 32

/-- Four things, one for each lane of a slice (R1). -/
structure Quad (α : Type) where
  l0 : α
  l1 : α
  l2 : α
  l3 : α
  deriving DecidableEq, Repr

/-- The entry of lane `l`; lanes are numbered 0 to 3 (R1). -/
def Quad.get {α : Type} (q : Quad α) (l : Nat) : α :=
  match l with
  | 0 => q.l0
  | 1 => q.l1
  | 2 => q.l2
  | _ => q.l3

/-- The quad with lane `l` replaced. -/
def Quad.set {α : Type} (q : Quad α) (l : Nat) (x : α) : Quad α :=
  match l with
  | 0 => { q with l0 := x }
  | 1 => { q with l1 := x }
  | 2 => { q with l2 := x }
  | _ => { q with l3 := x }

/-- A quad from a function of the lane number. -/
def Quad.ofFn {α : Type} (f : Nat → α) : Quad α := ⟨f 0, f 1, f 2, f 3⟩

/-- The lanes 0 to 3 of a slice (R1). -/
def lanes : List Nat := [0, 1, 2, 3]

end Sys2Proof
end

