-- ==== Sys2Proof/Syntax.lean ====
section
/-! DEFINITION. The instructions and device events of spec/opcode_table.json as one inductive,
with the types of their fields (spec chapter 03, R58 to R75; the events of chapters 06 to 19). -/

namespace Sys2Proof

/-- The type codes of R66, in code order 0 to 15. -/
inductive Ty where
  | b32 | i32 | n32 | i16x2 | n16x2 | i8x4 | n8x4 | i64
  | f32 | f16x2 | bf16x2 | f64 | e4m3x4 | e5m2x4 | e2m1x8 | i4x8
  deriving DecidableEq, Repr

/-- The operand kinds of R64. -/
inductive Kind where
  | v | s | cb | imm
  deriving DecidableEq, Repr

/-- A 12-bit operand field (R64): kind [11:10], keep [9], last use [8], index [7:0]. -/
structure Opnd where
  kind : Kind
  keep : Bool
  last : Bool
  idx : BitVec 8
  deriving DecidableEq, Repr

/-- Granule 2 of a long instruction (R63): operands C and D with EXT8B, or IMM32 when A or B has
kind 11. -/
inductive Gran2 where
  | cd (c d : Opnd) (ext8b : BitVec 8)
  | imm (w : Word)
  deriving DecidableEq, Repr

/-- The fields of every long instruction but FUSE (R63). -/
structure Long where
  pk : BitVec 3
  pn : Bool
  vd : BitVec 8
  ty : Ty
  rm : BitVec 3
  sat : Bool
  xw : BitVec 2
  a : Opnd
  b : Opnd
  ext8 : BitVec 8
  g2 : Gran2
  deriving DecidableEq, Repr

/-- The slot operators of R69, in code order 0 to 15. -/
inductive FuseOp where
  | fin | add | sub | mul | min | max | fma | neg | abs | rcp | rsq | exp2 | log2 | dup | swap | clamp01
  deriving DecidableEq, Repr

/-- The element kinds FT of FUSE (R68): 00, 01, 10, 11. -/
inductive FuseTy where
  | f32 | f16x2 | bf16x2 | i32
  deriving DecidableEq, Repr

/-- One slot (R68): push bit [4], operator [3:0]. -/
structure Slot where
  push : Bool
  op : FuseOp
  deriving DecidableEq, Repr

/-- An input field of FUSE (R68): last use [8], v index [7:0]. -/
structure FuseIn where
  last : Bool
  idx : BitVec 8
  deriving DecidableEq, Repr

/-- The fields of FUSE (R68). -/
structure FuseWord where
  pk : BitVec 3
  pn : Bool
  vd : BitVec 8
  ft : FuseTy
  a : FuseIn
  b : FuseIn
  c : FuseIn
  d : FuseIn
  s0 : Slot
  s1 : Slot
  s2 : Slot
  s3 : Slot
  s4 : Slot
  s5 : Slot
  s6 : Slot
  deriving DecidableEq, Repr

/-- A structure whose corrections are counted (R290), by its place. -/
inductive EccUnit where
  | coreBank (core bank : Nat)      -- core scratchpad, 8 KiB banks
  | coreSegment (core seg : Nat)    -- vector file, tile file, scale memory, frames, instruction cache
  | clusterBank (cluster bank : Nat)
  | dieBank (die bank : Nat)
  | hbmFrame (die frame : Nat)
  deriving DecidableEq, Repr

/-- A packet of the fabric (R404): header fields and payload bytes. -/
structure Packet where
  dstPeer : BitVec 20
  dstDie : BitVec 3
  srcPeer : BitVec 20
  srcDie : BitVec 3
  cls : BitVec 4
  det : Bool
  so : Bool
  gen : BitVec 12
  job : BitVec 16
  seq : Word
  txid : BitVec 16
  tag : BitVec 20
  stat : BitVec 4
  op : BitVec 8
  addr : BitVec 42
  dline : BitVec 40
  payload : List Byte
  deriving DecidableEq, Repr

/-- The name of a stream (R405): both ends and the class group 0 to 3. -/
structure StreamId where
  srcPeer : BitVec 20
  srcDie : BitVec 3
  dstPeer : BitVec 20
  dstDie : BitVec 3
  group : Nat
  deriving DecidableEq, Repr

/-- A flit as received (R400): its 125 covered bytes and the CRC field. -/
structure Flit where
  payload : List Byte      -- bytes 0x00 to 0x77
  fseq : BitVec 16
  fack : BitVec 16
  ftype : BitVec 8
  crc : BitVec 24
  deriving DecidableEq, Repr

/-- A timetable entry (R353) with how it arrived (R355: through the local window or the fabric). -/
structure TtEntry where
  start : DWord
  job : BitVec 16
  genp : BitVec 16
  clusters : BitVec 16
  mode : BitVec 16
  lead : Word
  resv : Word
  epoch : Word
  seq : Word
  deriving DecidableEq, Repr

/-- The data set that an Announce message carries (R349; IEEE 1588-2019, log entry 16): priority 1, class, accuracy and variance of the
grandmaster's clock, priority 2, its identity, the steps to it, and the identity of the sender. -/
structure PtpSet where
  priority1 : BitVec 8
  grade : BitVec 8
  accuracy : BitVec 8
  variance : BitVec 16
  priority2 : BitVec 8
  identity : DWord
  steps : BitVec 16
  sender : DWord
  deriving DecidableEq, Repr

/-- What comes at a port (R349, R413): an Announce message, a Sync in one step or in two and its follow-up, the messages of the two
delay mechanisms, each with its number, the time that it carries in ns and its correction; or the turn to send a message of a type. -/
inductive PtpKind where
  | announce (set : PtpSet)
  | sync (number : BitVec 16) (twoStep : Bool) (origin : Nat) (correction : Int)
  | followUp (number : BitVec 16) (origin : Nat) (correction : Int)
  | pdelayReq (number : BitVec 16) (asker : List Byte)
  | pdelayResp (number : BitVec 16) (twoStep : Bool) (received : Nat) (correction : Int)
  | pdelayFollowUp (number : BitVec 16) (sent : Nat) (correction : Int)
  | delayReq (number : BitVec 16) (asker : List Byte)
  | delayResp (number : BitVec 16) (received : Nat) (correction : Int)
  | send (type : BitVec 4)
  deriving DecidableEq, Repr

/-- A PTP message at a port, in a domain. -/
structure PtpMsg where
  port : BitVec 8
  domain : BitVec 7
  kind : PtpKind
  deriving DecidableEq, Repr

/-- The AMOs of a host-die core (R305). -/
inductive HostAmo where
  | swap | add | and | or | xor | min | max | minu | maxu
  deriving DecidableEq, Repr

/-- The IPv6 UDP datagram that carries packets over scale-out (R411): its addresses, its UDP ports, the bytes of the IPv6 packets that
carry it, none longer than the MTU, and its UDP checksum. -/
structure Datagram where
  port : Nat
  src : BitVec 128
  dst : BitVec 128
  sport : BitVec 16
  dport : BitVec 16
  parts : List Nat
  checksum : BitVec 16
  deriving DecidableEq, Repr

/-- A packet as it arrives, with the datagram that carried it when it came over scale-out (R411). -/
structure Arrival where
  pkt : Packet
  datagram : Option Datagram
  deriving DecidableEq, Repr

/-- What a scheduler lease says beside its holder (R352): its epoch, and when it was sent. -/
structure LeaseStamp where
  epoch : BitVec 32
  sent : BitVec 64
  deriving DecidableEq, Repr

/-- A memory access of a host-die core or the external host (R305), on a die's HBM by its die
physical address. -/
inductive HostAccess where
  | load (die : Nat) (pa size : Nat)
  | store (die : Nat) (pa : Nat) (bytes : List Byte)
  /-- An AMO on a word or a doubleword, which returns the old value. -/
  | amo (op : HostAmo) (wide : Bool) (die pa : Nat) (value : DWord)
  /-- LR of a hart, and SC of a hart: the SC returns 0 when it stored, else 1. -/
  | loadReserved (hart : Nat) (wide : Bool) (die pa : Nat)
  | storeConditional (hart : Nat) (wide : Bool) (die pa : Nat) (value : DWord)
  | fenceAcq
  | fenceRel
  | fenceAr
  deriving DecidableEq, Repr

/-- The outcome of one boot step (R394). -/
structure StepOutcome where
  passed : Bool
  detail : BitVec 16
  deriving DecidableEq, Repr

/-- A signed image (R395): its bytes, the public key, the ECDSA signature over its SHA-384 digest, and its security version. -/
structure SignedImage where
  image : List Byte
  keyX : BitVec 384
  keyY : BitVec 384
  r : BitVec 384
  s : BitVec 384
  version : DWord
  deriving DecidableEq, Repr

/-- A run of the boot steps (R394): the outcome the work of each step has by its primary and by its
alternate method, the images of steps 2 and 9 by each method, and what firmware and fuses set. -/
structure BootWork where
  primary : List StepOutcome     -- steps 1 to 9
  alternate : List StepOutcome   -- steps 1 to 9, read for the steps that have an alternate
  retry : List StepOutcome       -- steps 1 to 9, read when a step is retried
  firmware : SignedImage
  firmware2 : SignedImage
  osImage : SignedImage
  osImage2 : SignedImage
  clcal : List DWord             -- CLCAL of clusters 0 to 15 (R385)
  deriving DecidableEq, Repr

/-- The management registers that have no row of their own (R6). -/
inductive MgmtReg where
  | foehn
  | progq (part : Nat)
  | swctl (part : Nat)
  | poolcfg (die : Nat)
  | clpwr (cluster : Nat)
  | clwt (cluster : Nat) (half : Bool)
  | clcal (cluster : Nat)
  | jobdir (part : Nat)
  | telem (part : Nat)
  | mlog
  | podcfg
  | socfg (byte : Nat)
  | rxcfg (die part : Nat)
  | slotWindow (part byte : Nat)
  | entryWindow (part byte : Nat)
  | ptpDomain
  /-- Bit 0: end-to-end delay mechanism (an Ethernet port); bit 1: two-step transmission (R349). -/
  | ptpPort (port : Nat)
  | schedulerId
  /-- Bit 0: the host die of this package is a member of the domain (R352). -/
  | leaseMember (peer : BitVec 20)
  | stepRecord (step : Nat)
  | thermSensor (core : Nat)
  | droopSensor (core : Nat)
  | droopEstimate (cluster : Nat)
  | xlcmd (die : Nat)
  | copycmd (cluster : Nat)
  | teamcmd (part : Nat)
  deriving DecidableEq, Repr

/-- The instructions (rows 1 to 195 of spec/opcode_table.json) and the device events (rows 196 to
309). Register fields of the short formats are held as they are encoded; WellFormed checks them. -/
inductive Instr where
  /-- NOP (R74). Does nothing except advance the PC by 4. -/
  | nop
  /-- SADD (R101). Scalar 32-bit wrapping add of two s registers. -/
  | sadd (d a b : BitVec 6)
  /-- SSUB (R101). Scalar 32-bit wrapping subtract. -/
  | ssub (d a b : BitVec 6)
  /-- SMUL (R101). Scalar 32-bit wrapping multiply. -/
  | smul (d a b : BitVec 6)
  /-- SMULH (R101). High word of the signed 64-bit scalar product. -/
  | smulh (d a b : BitVec 6)
  /-- SMULHN (R101). High word of the unsigned 64-bit scalar product. -/
  | smulhn (d a b : BitVec 6)
  /-- SAND (R101). Scalar bitwise and. -/
  | sand (d a b : BitVec 6)
  /-- SOR (R101). Scalar bitwise or. -/
  | sor (d a b : BitVec 6)
  /-- SXOR (R101). Scalar bitwise exclusive or. -/
  | sxor (d a b : BitVec 6)
  /-- SANDN (R101). Scalar and-not. -/
  | sandn (d a b : BitVec 6)
  /-- SSHL (R101). Scalar shift left by a register count. -/
  | sshl (d a b : BitVec 6)
  /-- SSHR (R101). Scalar logical shift right. -/
  | sshr (d a b : BitVec 6)
  /-- SSRA (R101). Scalar arithmetic shift right. -/
  | ssra (d a b : BitVec 6)
  /-- SROT (R101). Scalar rotate left. -/
  | srot (d a b : BitVec 6)
  /-- SMIN (R101). Signed scalar minimum. -/
  | smin (d a b : BitVec 6)
  /-- SMAX (R101). Signed scalar maximum. -/
  | smax (d a b : BitVec 6)
  /-- SMINN (R101). Unsigned scalar minimum. -/
  | sminn (d a b : BitVec 6)
  /-- SMAXN (R101). Unsigned scalar maximum. -/
  | smaxn (d a b : BitVec 6)
  /-- SCLZ (R101). Counts the leading zeros of a scalar register. -/
  | sclz (d a : BitVec 6)
  /-- SPOPC (R101). Counts the ones in a scalar register. -/
  | spopc (d a : BitVec 6)
  /-- SCMP (R102). Scalar compare under an FN6 condition, writing 1 or 0. -/
  | scmp (cond : BitVec 6) (d a b : BitVec 6)
  /-- SMOV (R101). Copies a scalar register. -/
  | smov (d a : BitVec 6)
  /-- SADD64 (R103). 64-bit scalar add on even/odd pairs. -/
  | sadd64 (d a b : BitVec 6)
  /-- SSUB64 (R103). 64-bit scalar subtract on pairs. -/
  | ssub64 (d a b : BitVec 6)
  /-- SSHL64 (R103). 64-bit scalar shift left. -/
  | sshl64 (d a b : BitVec 6)
  /-- SSHR64 (R103). 64-bit scalar logical shift right. -/
  | sshr64 (d a b : BitVec 6)
  /-- SADDI (R104). Scalar add of a sign-extended 12-bit immediate. -/
  | saddi (d a : BitVec 6) (imm : BitVec 12)
  /-- SANDI (R104). Scalar and with an immediate. -/
  | sandi (d a : BitVec 6) (imm : BitVec 12)
  /-- SORI (R104). Scalar or with an immediate. -/
  | sori (d a : BitVec 6) (imm : BitVec 12)
  /-- SXORI (R104). Scalar exclusive or with an immediate. -/
  | sxori (d a : BitVec 6) (imm : BitVec 12)
  /-- SSHLI (R104). Scalar shift left by an unsigned immediate 0 to 31. -/
  | sshli (d a : BitVec 6) (imm : BitVec 5)
  /-- SSHRI (R104). Scalar logical shift right by an immediate. -/
  | sshri (d a : BitVec 6) (imm : BitVec 5)
  /-- SSRAI (R104). Scalar arithmetic shift right by an immediate. -/
  | ssrai (d a : BitVec 6) (imm : BitVec 5)
  /-- SCMPI (R104). Writes 1 when a scalar is signed-less than an immediate. -/
  | scmpi (d a : BitVec 6) (imm : BitVec 12)
  /-- SLIL (R105). Loads a sign-extended 18-bit immediate into a scalar register. -/
  | slil (d : BitVec 6) (imm : BitVec 18)
  /-- SLIH (R105). Replaces the high 14 bits of a scalar register. -/
  | slih (d : BitVec 6) (imm : BitVec 14)
  /-- BR (R137). Unconditional branch for the whole gang. -/
  | br (off : BitVec 22)
  /-- BRC (R140). Lane-wise or gang-wise conditional branch that may diverge lanes and park a side. -/
  | brc (hint : BitVec 2) (k : BitVec 3) (cond : BitVec 2) (off : BitVec 17)
  /-- BRZ (R141). Branches each slice whose scalar register is zero. -/
  | brz (d : BitVec 6) (off : BitVec 18)
  /-- BRNZ (R141). Branches each slice whose scalar register is non-zero. -/
  | brnz (d : BitVec 6) (off : BitVec 18)
  /-- CALL (R141). Writes the link address and branches. -/
  | call (d : BitVec 6) (off : BitVec 18)
  /-- RET (R141). Returns to the address in a scalar register. -/
  | ret (a : BitVec 6)
  /-- JMPI (R141). Indirect jump to the address in a scalar register. -/
  | jmpi (a : BitVec 6)
  /-- PTOKEN (R138). Pushes a reconvergence token, trapping at depth 8. -/
  | ptoken (off : BitVec 22)
  /-- MERGE (R139). Adds the current lanes to the matching token's arrivals and resumes other lanes. -/
  | merge
  /-- REGANG (R147). Waits until the launch gang can be re-formed. -/
  | regang
  /-- YIELD (R144). Switches to the switch target at once when there is one. -/
  | yield
  /-- BRP (R359). Branches when a pre-emption request is pending. -/
  | brp (hint : BitVec 2) (off : BitVec 22)
  /-- SGET (R15). Reads a special register into a scalar register. -/
  | sget (d : BitVec 6) (sel : BitVec 8)
  /-- SSET (R15). Writes the writable fields of a special register. -/
  | sset (sel : BitVec 8) (a : BitVec 6)
  /-- SSET_SET (R15). Ors a scalar into a special register. -/
  | ssetSet (sel : BitVec 8) (a : BitVec 6)
  /-- SSET_CLR (R15). Clears the bits of a scalar from a special register. -/
  | ssetClr (sel : BitVec 8) (a : BitVec 6)
  /-- YIELDP (R360). Yields the slice under a pending pre-emption, recording its live registers and scratchpad. -/
  | yieldp (a : BitVec 6)
  /-- EXIT (R142). Ends the active lanes and resumes other paths or exits the slice. -/
  | exit
  /-- TRAP (R225). Raises a SOFTWARE trap carrying an immediate. -/
  | trap (imm : BitVec 18)
  /-- TRET (R226). Returns from trap mode, re-injecting replay entries and restoring state from the frame. -/
  | tret
  /-- KAND (R106). Ands two masks. -/
  | kand (d a b : BitVec 6)
  /-- KOR (R106). Ors two masks. -/
  | kor (d a b : BitVec 6)
  /-- KXOR (R106). Exclusive-ors two masks. -/
  | kxor (d a b : BitVec 6)
  /-- KANDN (R106). And-not of two masks. -/
  | kandn (d a b : BitVec 6)
  /-- KNOT (R106). Inverts a mask. -/
  | knot (d a : BitVec 6)
  /-- KMOVS_TO_MASK (R107). Moves the low four bits of a scalar register into a mask. -/
  | kmovsToMask (d a : BitVec 6)
  /-- KMOVS_TO_SCALAR (R107). Moves a mask into a scalar register. -/
  | kmovsToScalar (d a : BitVec 6)
  /-- KSET (R106). Sets a mask to a 4-bit immediate. -/
  | kset (d : BitVec 6) (imm : BitVec 4)
  /-- WAITC (R171). Stalls until every class counter is at or below its limit. -/
  | waitc (fl fs cp tl : BitVec 6)
  /-- WAITT (R175). Stalls until the masked tokens are done or in error. -/
  | waitt (mask : BitVec 8)
  /-- YIELDT (R176). Leaves the scheduler until the masked tokens are met, then resumes at a label. -/
  | yieldt (mask : BitVec 8) (off : BitVec 12)
  /-- SLD (R165). Loads one word from the scratchpad, or from the frame in trap mode, into a scalar register. -/
  | sld (d a : BitVec 6) (imm : BitVec 12)
  /-- SST (R165). Stores one scalar word to the scratchpad or the frame. -/
  | sst (d a : BitVec 6) (imm : BitVec 12)
  /-- FENCE (R178). Release, acquire or both at a scope. -/
  | fence (kind : BitVec 2) (scope : BitVec 3)
  /-- PFENCE (R180). Discards fetched code or constants so that later fetches see earlier writes. -/
  | pfence (path : BitVec 6)
  /-- BARINIT (R257). Writes a byte-counting barrier to its initial state. -/
  | barinit (a b : BitVec 6)
  /-- BARARR (R258). Releases and arrives once at a barrier. -/
  | bararr (scope : BitVec 3) (a : BitVec 6)
  /-- BARARR_N (R258). Releases and arrives a counted number of times at a barrier. -/
  | bararrN (scope : BitVec 3) (a b : BitVec 6)
  /-- BARTX (R258). Declares bytes expected at a barrier. -/
  | bartx (a b : BitVec 6)
  /-- BARTX_ARR (R258). Declares bytes and arrives in one update after a release. -/
  | bartxArr (scope : BitVec 3) (a b : BitVec 6)
  /-- BARWAIT (R259). Stalls while the barrier's phase equals the given parity, then acquires. -/
  | barwait (scope : BitVec 3) (a b : BitVec 6)
  /-- BARTRY (R259). Tests a barrier's phase and error bits without waiting. -/
  | bartry (scope : BitVec 3) (d a b : BitVec 6)
  /-- TSYNC (R260). Arrives at the team barrier and waits for every non-exited slice. -/
  | tsync (scope : BitVec 3)
  /-- WHOLD (R311). Adds a hold registration on a key. -/
  | whold (loc : Bool) (d a : BitVec 6)
  /-- WDROP (R312). Drops hold or will registrations on a key. -/
  | wdrop (loc : Bool) (kind : BitVec 2) (d a : BitVec 6)
  /-- WWILL (R311). Adds a will registration on a key. -/
  | wwill (loc : Bool) (d a : BitVec 6)
  /-- WAITV (R313). Waits until a word meets a comparison, registering a wait. -/
  | waitv (loc : Bool) (cond : BitVec 2) (scope : BitVec 3) (d a b : BitVec 6)
  /-- LOCKACQ (R314). Acquires a lock word, waiting or trying once, and records a hold. -/
  | lockacq (loc once : Bool) (scope : BitVec 3) (d a : BitVec 6)
  /-- LOCKREL (R315). Releases a lock word and drops the team's hold. -/
  | lockrel (loc : Bool) (scope : BitVec 3) (d a : BitVec 6)
  /-- LAUNCH (R332). Launches a grid from a header in scratchpad, binding a token. -/
  | launch (d a : BitVec 6)
  /-- LAUNCH_PARAM (R332). Launches a grid with the parameter pointer replaced from a register pair. -/
  | launchParam (d a b : BitVec 6)
  /-- SEND (R417). Sends a message, eager or rendezvous, binding a token. -/
  | send (rdv : Bool) (j : BitVec 3) (a b : BitVec 6)
  /-- RPOST (R420). Posts a receive from a receive block and returns a handle. -/
  | rpost (tok cq bar : Bool) (j : BitVec 3) (d a : BitVec 6)
  /-- RCANCEL (R425). Withdraws an unmatched posted receive. -/
  | rcancel (d a : BitVec 6)
  /-- RPROBE (R426). Reports the oldest matching unexpected message without taking it. -/
  | rprobe (d a : BitVec 6)
  /-- COPY (R241). Issues a linear or multicast byte copy. -/
  | copy (mc bar : Bool) (j : BitVec 3) (d a b : BitVec 6)
  /-- COPYT_LD (R243). Issues a tensor box load, optionally multicast. -/
  | copytLd (mc bar : Bool) (j : BitVec 3) (d a b : BitVec 6)
  /-- COPYT_ST (R243). Issues a tensor box store. -/
  | copytSt (bar : Bool) (j : BitVec 3) (d a b : BitVec 6)
  /-- COPYT_SC (R244). Issues a placement of E8M0 scales into scale memory. -/
  | copytSc (bar : Bool) (j : BitVec 3) (d a b : BitVec 6)
  /-- COPYG (R246). Issues a gather of indexed rows into a dense block. -/
  | copyg (mc bar : Bool) (j : BitVec 3) (d a b : BitVec 6)
  /-- COPYS (R246). Issues a scatter of a dense block into indexed rows. -/
  | copys (bar : Bool) (j : BitVec 3) (d a b : BitVec 6)
  /-- COPYR (R247). Issues a reducing copy that adds source elements into the destination. -/
  | copyr (form : BitVec 2) (bar : Bool) (j : BitVec 3) (d a b : BitVec 6)
  /-- TSET (R185). Writes a whole tile descriptor from two scalar registers. -/
  | tset (j a b : BitVec 6)
  /-- TSET_LO (R185). Writes the low word of a tile descriptor. -/
  | tsetLo (j a : BitVec 6)
  /-- TSET_HI (R185). Writes the high word of a tile descriptor. -/
  | tsetHi (j a : BitVec 6)
  /-- TGET (R185). Reads the low word of a tile descriptor. -/
  | tget (d j : BitVec 6)
  /-- TGET_HI (R185). Reads the high word of a tile descriptor. -/
  | tgetHi (d j : BitVec 6)
  /-- MBATCH (R200). Closes the team's open set of matrix operations into a batch on a token. -/
  | mbatch (j : BitVec 3)
  /-- MBATCH_ARR (R200). Closes a batch that also arrives at a barrier when it finishes. -/
  | mbatchArr (j : BitVec 3) (a b : BitVec 6)
  /-- MMAGOK_OPEN (R266). Opens or replaces the core's ganged-operation window. -/
  | mmagokOpen (d a b : BitVec 6)
  /-- MMAGOK_CLOSE (R267). Waits for delivered parts to finish and closes the window. -/
  | mmagokClose (d : BitVec 6)
  /-- IADD (R83). Lane integer add. -/
  | iadd (f : Long)
  /-- ISUB (R83). Lane integer subtract. -/
  | isub (f : Long)
  /-- IMUL (R83). Lane integer multiply. -/
  | imul (f : Long)
  /-- IMULH (R83). High half of the lane integer product. -/
  | imulh (f : Long)
  /-- IMAD (R83). Lane integer multiply-add. -/
  | imad (f : Long)
  /-- IMADW (R84). Widening multiply-add into a 64-bit pair. -/
  | imadw (f : Long)
  /-- IMIN (R83). Lane integer minimum. -/
  | imin (f : Long)
  /-- IMAX (R83). Lane integer maximum. -/
  | imax (f : Long)
  /-- IABS (R83). Lane integer absolute value. -/
  | iabs (f : Long)
  /-- IAND (R85). Lane bitwise and. -/
  | iand (f : Long)
  /-- IOR (R85). Lane bitwise or. -/
  | ior (f : Long)
  /-- IXOR (R85). Lane bitwise exclusive or. -/
  | ixor (f : Long)
  /-- IANDN (R85). Lane bitwise and-not. -/
  | iandn (f : Long)
  /-- ISHL (R86). Lane shift left. -/
  | ishl (f : Long)
  /-- ISHR (R86). Lane logical shift right. -/
  | ishr (f : Long)
  /-- ISRA (R86). Lane arithmetic shift right. -/
  | isra (f : Long)
  /-- IROT (R86). Lane rotate left. -/
  | irot (f : Long)
  /-- IPOPC (R87). Lane population count. -/
  | ipopc (f : Long)
  /-- ICLZ (R87). Lane count of leading zeros. -/
  | iclz (f : Long)
  /-- IBFX (R88). Extracts a bit field. -/
  | ibfx (f : Long)
  /-- IBFI (R89). Inserts a bit field into the destination. -/
  | ibfi (f : Long)
  /-- IBREV (R87). Reverses the bits of each element. -/
  | ibrev (f : Long)
  /-- IPERM (R90). Permutes bytes of two words under a selector. -/
  | iperm (f : Long)
  /-- ICMP (R91). Integer compare into a mask, setting or combining. -/
  | icmp (f : Long)
  /-- ISAD (R92). Sum of absolute differences. -/
  | isad (f : Long)
  /-- IADD64 (R93). Adds a 32-bit offset to a 64-bit address. -/
  | iadd64 (f : Long)
  /-- MOV (R94). Copies an operand into each active lane. -/
  | mov (f : Long)
  /-- MOVI (R95). Writes an immediate, optionally as a ramp over virtual lanes. -/
  | movi (f : Long)
  /-- SEL (R96). Selects between two operands under a mask. -/
  | sel (f : Long)
  /-- MOVS (R97). Copies a scalar, constant or immediate into an s register. -/
  | movs (f : Long)
  /-- MOVK_TO_MASK (R98). Sets a mask from lane values or a word. -/
  | movkToMask (f : Long)
  /-- MOVK_TO_VECTOR (R98). Expands a mask into all-ones or zero lane words. -/
  | movkToVector (f : Long)
  /-- VTOS (R97). Copies one named lane's value into an s register. -/
  | vtos (f : Long)
  /-- VTOS_FIRST (R97). Copies the lowest active lane's value into an s register. -/
  | vtosFirst (f : Long)
  /-- FADD (R110). Floating add. -/
  | fadd (f : Long)
  /-- FSUB (R110). Floating subtract. -/
  | fsub (f : Long)
  /-- FMUL (R110). Floating multiply. -/
  | fmul (f : Long)
  /-- FFMA (R110). Fused multiply-add with one rounding. -/
  | ffma (f : Long)
  /-- FMIN (R111). Floating minimum. -/
  | fmin (f : Long)
  /-- FMAX (R111). Floating maximum. -/
  | fmax (f : Long)
  /-- FNEG (R112). Inverts the sign bit. -/
  | fneg (f : Long)
  /-- FABS (R112). Clears the sign bit. -/
  | fabs (f : Long)
  /-- FCMP (R113). Floating compare into a mask. -/
  | fcmp (f : Long)
  /-- FCLASS (R114). Classifies each element. -/
  | fclass (f : Long)
  /-- FRND (R115). Rounds to an integral value. -/
  | frnd (f : Long)
  /-- FFRAC (R115). Fractional part. -/
  | ffrac (f : Long)
  /-- FLDEXP (R116). Multiplies by a power of two. -/
  | fldexp (f : Long)
  /-- FGETEXP (R116). Extracts the binary exponent. -/
  | fgetexp (f : Long)
  /-- CVT (R117). Converts between formats of equal element count. -/
  | cvt (f : Long)
  /-- PACK (R119). Converts two words into adjacent packed elements. -/
  | pack (f : Long)
  /-- UNPACK (R120). Converts one packed element to a 32-bit value. -/
  | unpack (f : Long)
  /-- SCALE_FIT (R121). Computes an E8M0 block scale from a block maximum. -/
  | scaleFit (f : Long)
  /-- SCALE_APPLY (R121). Multiplies elements by an E8M0 scale. -/
  | scaleApply (f : Long)
  /-- RCP (R122). Correctly rounded reciprocal. -/
  | rcp (f : Long)
  /-- RSQ (R122). Correctly rounded reciprocal square root. -/
  | rsq (f : Long)
  /-- SQRT (R122). Correctly rounded square root. -/
  | sqrt (f : Long)
  /-- EXP2 (R124). Base-2 exponential by the reference procedure. -/
  | exp2 (f : Long)
  /-- LOG2 (R125). Base-2 logarithm by the reference procedure. -/
  | log2 (f : Long)
  /-- SINPI (R126). sin(pi x) by the reference procedure. -/
  | sinpi (f : Long)
  /-- COSPI (R126). cos(pi x) by the reference procedure. -/
  | cospi (f : Long)
  /-- DOT2 (R128). Two-element dot product with accumulator. -/
  | dot2 (f : Long)
  /-- DOT4 (R128). Four-element dot product with accumulator. -/
  | dot4 (f : Long)
  /-- DOT8 (R128). Eight-element dot product with accumulator. -/
  | dot8 (f : Long)
  /-- FUSE (R129). Evaluates a postfix program over up to four inputs. -/
  | fuse (f : FuseWord)
  /-- LANEID (R150). Writes the virtual lane, gang lane count or participant mask. -/
  | laneid (f : Long)
  /-- PLANE (R150). Writes the lane's fixed number within the team. -/
  | plane (f : Long)
  /-- SHFL (R151). Moves an operand from a routed source lane. -/
  | shfl (f : Long)
  /-- SHFLX (R151). Compacts the lanes selected by a mask. -/
  | shflx (f : Long)
  /-- BCAST (R152). Broadcasts an operand from a named virtual lane. -/
  | bcast (f : Long)
  /-- BCAST_FIRST (R152). Broadcasts an operand from the lowest participant. -/
  | bcastFirst (f : Long)
  /-- VOTE (R153). Ballot, count, rank or test over a mask across the gang. -/
  | vote (f : Long)
  /-- REDUCE (R154). Reduction over all participants. -/
  | reduce (f : Long)
  /-- SCAN (R154). Inclusive or exclusive prefix reduction. -/
  | scan (f : Long)
  /-- LD (R160). Local scratchpad load. -/
  | ld (f : Long)
  /-- ST (R161). Local scratchpad store. -/
  | st (f : Long)
  /-- ATOM (R162). Local atomic read-modify-write. -/
  | atom (f : Long)
  /-- ATOM_CAS (R162). Local compare-and-swap. -/
  | atomCas (f : Long)
  /-- FLD (R167). Issues a far load, leaving destinations pending. -/
  | fld (f : Long)
  /-- FST (R167). Issues a far store. -/
  | fst (f : Long)
  /-- FATOM (R167). Issues a far atomic. -/
  | fatom (f : Long)
  /-- TLD (R188). Loads a tile from scratchpad rows. -/
  | tld (f : Long)
  /-- TST (R188). Stores a tile to scratchpad rows. -/
  | tst (f : Long)
  /-- TTRANS (R188). Loads a tile transposed. -/
  | ttrans (f : Long)
  /-- MMA (R195). Posts a matrix multiply-accumulate to the FIFO. -/
  | mma (f : Long)
  /-- MMAS (R195). Posts a block-scaled matrix multiply-accumulate. -/
  | mmas (f : Long)
  /-- MMAG (R270). Posts a ganged matrix operation across up to four cores. -/
  | mmag (f : Long)
  /-- MMAG_NOLOCAL (R268). Posts a ganged operation with no local part. -/
  | mmagNolocal (f : Long)
  /-- AFILL (R199). Posts a fill of accumulator elements with a word. -/
  | afill (f : Long)
  /-- GANG_COMPACTION (R146). Parted candidates of one team at equal PCs are regrouped into fresh gangs. -/
  | gangCompaction (team : Nat) (pc : Word)
  /-- REGANG_TIMER_EXPIRY (R147). The regang timer expires and the waiting slices form a gang. -/
  | regangTimerExpiry (team gang : Nat)
  /-- FAIRNESS_SWITCH (R143). The fairness count reaches F and the slice switches to its switch target. -/
  | fairnessSwitch (slice : Nat)
  /-- BOUNDARY_TRAP (R33). A condition recorded after issue is taken as a trap at the next instruction boundary. -/
  | boundaryTrap (slice : Nat)
  /-- TRAP_BACKOFF_EXPIRY (R219). A back-off without a free permit expires and the trap is attempted again. -/
  | trapBackoffExpiry (slice : Nat)
  /-- COALESCE_FAR_REQUESTS (R168). The coalescer forms line requests and places them in the far-access queue when room exists. -/
  | coalesceFarRequests (far : Nat)
  /-- FAR_RESPONSE (R169). A far response or acknowledgement returns, landing lanes or releasing counts. -/
  | farResponse (req : Nat)
  /-- FAR_TIMEOUT (R412). A request without an answer at its deadline plus 2 us is declared TIMEOUT. -/
  | farTimeout (req : Nat)
  /-- TRANSLATION_WALK (R282). The owning die walks the page tables for a missed translation. -/
  | translationWalk (part : Nat) (va : BitVec 48)
  /-- DENIAL_RECORD_CLOSE (R289). A combined denial record closes after 1 us or 255 denials and is appended. -/
  | denialRecordClose (record : Nat)
  /-- ECC_CORRECTION (R291). A corrected error rewrites the granule and may retire the unit into a spare. -/
  | eccCorrection (unit : EccUnit)
  /-- SPARE_COPY_DONE (R291). Retirement copy into a spare ends and the spare answers. -/
  | spareCopyDone (unit : EccUnit)
  /-- TILE_MOVE_DONE (R190). A tile move writes its last byte and releases tile counts. -/
  | tileMoveDone (move : Nat)
  /-- MATRIX_ENTRY_START (R198). A FIFO entry starts computing once the previous computation and its tile moves end. -/
  | matrixEntryStart (entry : Nat)
  /-- MATRIX_WRITEBACK_END (R198). An entry's accumulator write-back ends and frees its FIFO entry. -/
  | matrixWritebackEnd (entry : Nat)
  /-- SHADOW_CHECK (R207). The shadow unit recomputes a selected operation and appends a record. -/
  | shadowCheck (core : Nat)
  /-- MMAG_DELIVERY (R272). A partner core settles a ganged delivery against its window. -/
  | mmagDelivery (op pos : Nat)
  /-- MMAG_COMPLETE (R274). A ganged operation completes, updating barriers and finishing its token. -/
  | mmagComplete (op : Nat)
  /-- COPY_DISPATCH (R235). The cluster dispatcher gives the oldest waiting copy of a core to a free engine. -/
  | copyDispatch (cluster copy : Nat)
  /-- COPY_CREDIT (R248). Performed elements are credited to the copy's barrier. -/
  | copyCredit (copy count : Nat)
  /-- COPY_FINISH (R248). A copy finishes its token and releases its counts. -/
  | copyFinish (copy : Nat)
  /-- COPY_PAUSE (R261). A copy meets a fault, pauses at its cursor and appends an event. -/
  | copyPause (copy : Nat) (handle : BitVec 16)
  /-- COPYCMD_RESUME (R262). Resumes a paused copy from its cursor. -/
  | copycmdResume (cluster : Nat) (handle : BitVec 16)
  /-- COPYCMD_ABORT (R262). Aborts a paused copy and finishes its token with COPY_ABORT. -/
  | copycmdAbort (cluster : Nat) (handle : BitVec 16)
  /-- BARWAIT_END (R259). A stalled barrier wait sees the phase change and acquires. -/
  | barwaitEnd (slice : Nat)
  /-- TSYNC_COMPLETE (R260). All non-exited slices have arrived and the team barrier releases. -/
  | tsyncComplete (team : Nat)
  /-- WAITC_END (R171). A WAITC stall ends when counters fall to their limits. -/
  | waitcEnd (slice : Nat)
  /-- WAITT_END (R175). A WAITT stall ends when its tokens are done or in error. -/
  | waittEnd (slice : Nat)
  /-- YIELDT_RESUME (R176). A gang in YIELDT resumes at its label once its tokens are met. -/
  | yieldtResume (slice : Nat)
  /-- FENCE_COMPLETE (R178). A stalled fence completes once earlier accesses are performed. -/
  | fenceComplete (slice : Nat)
  /-- WAITV_REEVALUATE (R313). A registered value wait re-reads its word after a write or 1 us. -/
  | waitvReevaluate (slice : Nat)
  /-- LOCKACQ_RETRY (R314). A waiting lock acquire retries after a write or 1 us. -/
  | lockacqRetry (slice : Nat)
  /-- MMAGOK_CLOSE_END (R267). The window closes once its delivered parts are finished. -/
  | mmagokCloseEnd (slice : Nat)
  /-- UNREGISTERED_WAIT_RECHECK (R317). An unregistered wait re-evaluates after its back-off interval. -/
  | unregisteredWaitRecheck (slice : Nat)
  /-- REMOTE_WAIT_TIMEOUT (R316). A remote wait's timer expires and the wait ends with TIMEOUT. -/
  | remoteWaitTimeout (slice : Nat)
  /-- WFT_WALK (R320). A depth-first walk over wait-for edges searches for a cycle. -/
  | wftWalk (slice : Nat)
  /-- WFT_PROBE (R320). A walk probe message is answered by another die. -/
  | wftProbe (die team : Nat)
  /-- WATCHDOG (R388). The hang watchdog count reaches its threshold and raises WATCHDOG. -/
  | watchdog (team : Nat)
  /-- LAUNCH_SETTLE (R332). The distributor rejects, refuses as cyclic or accepts a launched grid. -/
  | launchSettle (launch : Nat)
  /-- LSCTL_GO (R335). A write of GO launches the header in the partition's launch slot. -/
  | lsctlGo (part : Nat)
  /-- TEAM_PLACE (R340). A released team is placed on an eligible core and starts. -/
  | teamPlace (part : Nat)
  /-- CORE_WAKE (R342). A gated core wakes for a dispatch. -/
  | coreWake (core : Nat)
  /-- TEAM_RETIRE (R338). A team whose slices exited and operations finished releases and retires. -/
  | teamRetire (team : Nat)
  /-- QUANTUM_BOUNDARY (R343). At a quantum boundary waiting teams are placed, swapping out victims. -/
  | quantumBoundary (part : Nat)
  /-- IDLE_GATING (R387). The idle timer expires and a core or cluster begins power gating. -/
  | idleGating (whole : Bool) (unit : Nat)
  /-- PTP_MESSAGE (R349). A PTP message is timestamped and disciplines global time. -/
  | ptpMessage (msg : PtpMsg)
  /-- TIME_STEP (R351). The time unit steps the count with no current job. -/
  | timeStep (time : BitVec 64)
  /-- TIMESTAT_WRITE (R351). A write to TIMESTAT clears STEPPED. -/
  | timestatWrite
  /-- LEASE_MESSAGE (R352). A scheduler lease message is received and accepted or ignored. -/
  | leaseMessage (id : BitVec 32) (stamp : LeaseStamp)
  /-- LEASE_TIMEOUT (R352). No valid lease for 100 ms and the member announces itself. -/
  | leaseTimeout
  /-- ELECTION_DECIDE (R352). After 10 ms the lowest identifier takes the lease with a new epoch. -/
  | electionDecide
  /-- TIMETABLE_ENTRY_ARRIVAL (R354). An arriving timetable entry is checked and stored or rejected. -/
  | timetableEntryArrival (entry : TtEntry)
  /-- LTCTL_GO (R355). A write of GO submits the local entry window to the store. -/
  | ltctlGo (part : Nat)
  /-- PREQ_RISE (R358). At START minus LEAD the partition's pre-emption request rises. -/
  | preqRise (part : Nat)
  /-- TIMETABLE_START (R356). An entry reaches START and a switch halts the current job. -/
  | timetableStart (part : Nat)
  /-- DRAIN_WINDOW_END (R362). The drain window expires and remaining copies stop at an element boundary. -/
  | drainWindowEnd (part : Nat)
  /-- SAVE_COMPLETE (R369). Every record is written and VALID is set in the save image. -/
  | saveComplete (part : Nat)
  /-- RESTORE (R369). A job is restored from its save image and its first instruction issues. -/
  | restore (part : Nat)
  /-- GENERATION_QUIESCE (R373). All packets of the outgoing generation are settled. -/
  | generationQuiesce (part : Nat)
  /-- SWSTAT_WRITE (R363). A write to SWSTAT clears LATE. -/
  | swstatWrite (part : Nat)
  /-- URGCMD_GO (R374). A request for urgent pre-emption is accepted or refused. -/
  | urgcmdGo (part : Nat) (job : BitVec 16) (gen : BitVec 12)
  /-- URGENT_HALT (R375). The urgent cooperative window ends and the partition halts. -/
  | urgentHalt (part : Nat)
  /-- URGENT_RETURN (R375). The urgent root grid completes and the pre-empted job is restored. -/
  | urgentReturn (part : Nat)
  /-- PACKET_ARRIVAL (R370). A packet arrives and is delivered, parked, dropped or NACKed by job and generation. -/
  | packetArrival (come : Arrival)
  /-- NACK_RETRY (R407). A sender resends a NACKed stream from the NACKed packet. -/
  | nackRetry (nack : Packet)
  /-- PARK_RETRY (R371). A packet refused for a full park area is retried after 1 ms or resume. -/
  | parkRetry (stream : StreamId)
  /-- PEER_REQUEST (R410). A target settles a peer request and answers with STAT. -/
  | peerRequest (pkt : Packet)
  /-- ANSWER_ARRIVAL (R410). The source applies a peer answer to its request. -/
  | answerArrival (pkt : Packet)
  /-- FLIT_RECEIVE (R401). A flit is received, checked by CRC and sequence, or discarded with a retry request. -/
  | flitReceive (port : Nat) (flit : Flit)
  /-- LANE_LOCK_LOSS (R402). A lane loses lock or retries exceed 32 in 100 us and the link retrains. -/
  | laneLockLoss (port : Nat)
  /-- LINK_RETRAIN_DONE (R402). A retrain ends at a narrower width or takes the link down. -/
  | linkRetrainDone (port : Nat) (width : Option (BitVec 2))
  /-- LINK_WIDEN_ATTEMPT (R402). After its wait the link tries one step wider. -/
  | linkWidenAttempt (port : Nat) (ok : Bool)
  /-- LINK_DOWN_RETRY (R402). A down link retrains from width 8 every second. -/
  | linkDownRetry (port : Nat)
  /-- LINK_REPORT (R403). Link states are reported to every peer every 10 us. -/
  | linkReport (port : Nat) (usable : BitVec 16)
  /-- LINKST_WRITE (R403). A write to LINKST clears RETRY and CRCERR. -/
  | linkstWrite (port : Nat)
  /-- PATH_CHANGE_RESEND (R406). On a path change the source resends unacknowledged packets in order. -/
  | pathChangeResend (stream : StreamId)
  /-- SCALEOUT_RESEND (R411). Unacknowledged scale-out packets are resent after 20 us. -/
  | scaleoutResend (stream : StreamId)
  /-- MESSAGE_ARRIVAL (R421). A message's first packet arrives and is matched or queued as unexpected. -/
  | messageArrival (pkt : Packet)
  /-- MESSAGE_PACKET_LANDING (R422). A later eager packet lands its bytes into the matched receive. -/
  | messagePacketLanding (pkt : Packet)
  /-- PULL_REQUEST (R422). The sender answers a rendezvous PULL from the payload. -/
  | pullRequest (pkt : Packet)
  /-- PULL_ANSWER (R422). A PULL answer arrives and its chunk lands. -/
  | pullAnswer (pkt : Packet)
  /-- SEND_FINISH (R417). A send's token finishes when all packets are accepted or the END PULL answered. -/
  | sendFinish (send : Nat)
  /-- RECEIVE_COMPLETE (R423). A receive completes, updating barrier, cookie queue and token. -/
  | receiveComplete (recv : Nat)
  /-- XLCMD_PAGE (R285). Invalidates cached translations of one page of a job. -/
  | xlcmdPage (die : Nat) (job : BitVec 16) (vpn : BitVec 33)
  /-- XLCMD_JOB (R285). Invalidates every cached translation of a job, optionally clearance lines. -/
  | xlcmdJob (die : Nat) (job : BitVec 16) (clr : Bool)
  /-- XLCMD_ALL (R285). Invalidates every cached translation, optionally all clearance lines. -/
  | xlcmdAll (die : Nat) (clr : Bool)
  /-- XLCMD_DONE (R285). The invalidation completes and BUSY falls. -/
  | xlcmdDone (die : Nat)
  /-- WFTSPILL_WRITE (R308). Sets a partition's spill area unless its job is resident. -/
  | wftspillWrite (die part : Nat) (value : DWord)
  /-- WFTSTAT_WRITE (R324). A write to WFTSTAT clears OVF, CUT and DLK. -/
  | wftstatWrite (die : Nat)
  /-- PARTCFG_WRITE (R377). Configures a partition, ignoring overlapping or locked changes. -/
  | partcfgWrite (part : Nat) (value : DWord)
  /-- COPYQOS_WRITE (R379). Sets a copy bucket and fills LEVEL to DEPTH. -/
  | copyqosWrite (die part : Nat) (value : DWord)
  /-- COPY_TOKEN_REFILL (R380). Each us the pool and buckets refill and debts are repaid. -/
  | copyTokenRefill (die : Nat)
  /-- CLEND_LEND (R381). Lends an empty cluster to another partition. -/
  | clendLend (cluster : Nat) (borrower : BitVec 4)
  /-- CLEND_RECLAIM (R382). Starts reclaiming a lent cluster by swapping its teams out. -/
  | clendReclaim (cluster : Nat)
  /-- RECLAIM_COMPLETE (R382). The last team is swapped and the cluster returns to its owner. -/
  | reclaimComplete (cluster : Nat)
  /-- PWRCFG_WRITE (R383). Sets idle timer, regulator group and power allotment, ignoring a group in use. -/
  | pwrcfgWrite (part : Nat) (value : DWord)
  /-- REGULATOR_RECONNECT (R384). A cluster is gated, reconnected to its group and woken. -/
  | regulatorReconnect (cluster : Nat)
  /-- RGGROUP_WRITE (R384). Changes a group's voltage and clock with an ordered ramp. -/
  | rggroupWrite (group : Nat) (value : Word)
  /-- POWER_METER_UPDATE (R386). Each us a partition's energy credit and throttle level update. -/
  | powerMeterUpdate (part : Nat)
  /-- TEAMCMD_RESUME (R389). Resumes a stopped team's slices as TRET does. -/
  | teamcmdResume (part : Nat) (value : Word)
  /-- TEAMCMD_END (R389). Ends a stopped team and aborts its copies. -/
  | teamcmdEnd (part : Nat) (value : Word)
  /-- MLOGST_WRITE (R392). A write to MLOGST clears LOST. -/
  | mlogstWrite
  /-- PRESET_GO (R393). Starts a tenant reset: isolate, answer by last resort, clear. -/
  | presetGo (part : Nat)
  /-- PRESET_CLEAR_DONE (R393). The reset's clearing completes and STATE becomes done. -/
  | presetClearDone (part : Nat)
  /-- PRESET_ACKNOWLEDGE (R393). A write of bit 30 returns PRESET STATE from done to idle. -/
  | presetAcknowledge (part : Nat)
  /-- BOOT (R394). The root of trust runs the boot steps and records their outcomes. -/
  | boot (work : BootWork)
  /-- ATTESTATION_REQUEST (R396). Produces a signed attestation report for the requesting partition. `vf` is the virtual function that
  asks, none for the physical one; `numbers` are what the random source gives for the signature's secret number, one after another. -/
  | attestationRequest (part : Nat) (nonce : List (BitVec 8)) (vf : Option Nat) (numbers : List (BitVec 384))
  /-- REGISTER_WRITE (R6). A write to a management register that has no row of its own. -/
  | registerWrite (reg : MgmtReg) (value : DWord)
  /-- HOLDOVER (R350). The time unit loses its parent clock and enters holdover, STATE 3, drifting at most 50 ns per second. -/
  | holdover (drift : Int)
  /-- LEASE_SEND (R352). The elected scheduler sends its lease message to every member at least every 25 ms. -/
  | leaseSend
  /-- ETHERNET_PORT_LINK_CHANGE (R411). An Ethernet port goes up or down, changing the scale-out port used by each stream. -/
  | ethernetPortLinkChange (port : Nat) (up : Bool)
  /-- HOST_DIE_CORE_ACCESS (R305). A host-die core performs a load, store, AMO or fence on package memory under RVWMO. -/
  | hostDieCoreAccess (acc : HostAccess)
  /-- EXTERNAL_HOST_ACCESS (R305). The external host's PCIe posted write or read completion reaches package memory. -/
  | externalHostAccess (acc : HostAccess)
  /-- RGGROUP_RAMP_DONE (R384). A regulator group's voltage and clock ramp ends within 20 us at the new setting. -/
  | rggroupRampDone (group : Nat)
  deriving DecidableEq, Repr

end Sys2Proof
end

