-- ==== Sys2Proof/Config.lean ====
section
/-! DEFINITION. What an implementation fixes, and the free values of the model. -/

namespace Sys2Proof

/-- One turn of the machine: a slice tries to issue its next instruction, a device event is attempted, the
core clock advances by one cycle, or an error arises in a memory cell. The order in which the agents of the package take their turns is what the
specification leaves to timing (R212 to R215, R249, R299; log entry 1). -/
inductive Turn where
  | issue (slice : Nat)
  | event (i : Instr)
  | tick
  /-- What the hardware does at an instant of global time, before any other turn of that cycle: a die's refill of its token buckets
  (R380), a partition's meter update (R386), the rise of its request (R358), and the start of its first timetable entry (R356), the end of its urgent cooperative window (R375), a quantum boundary (R343). -/
  | refill (die : Nat)
  | meter (part : Nat)
  | preq (part : Nat)
  | start (part : Nat)
  | urgent (part : Nat)
  | quantum (part : Nat)
  /-- An uncorrectable error arises in the granule of a memory (R292), by physical key. -/
  | upsetMem (key : Nat)
  /-- An uncorrectable error arises in a v or s register (R29). -/
  | upsetReg (slice : Nat) (scalar : Bool) (reg lane : Nat)
  /-- An uncorrectable error arises in a granule of the captured bytes of a receive on its engine (R292). -/
  | upsetRecv (recv granule : Nat)
  /-- An uncorrectable error arises in a granule of an entry of a wait-for table (R292). -/
  | upsetWft (entry granule : Nat)
  /-- A message that waits for earlier ones of its team to the same die begins (R415). -/
  | release (send : Nat)
  /-- A team of another package, by its peer and holder word, comes to have so many registrations of a kind on a word of this
  package's windows (R306), a wait under a slice; the partition is that of its job. -/
  | peerEntry (part : Nat) (woff : BitVec 42) (kind : BitVec 2) (src : BitVec 3) (peer : BitVec 20) (word : Word) (slice : BitVec 6)
      (count : Nat)
  deriving DecidableEq, Repr, Inhabited

/-- FREE VALUE (log entry 1): the turn taken when the agenda of the state is empty, as a function of the number
of turns taken so far. It has no body, so a claim proved of the model holds for every order of the agents. -/
opaque Config.nextTurn : Nat → Turn

/-- FREE VALUE (log entry 13): does a request made while a page-table entry, or a clearance-bitmap line, differs in
memory from the copy a die holds use the one in memory (R284, R286)? It depends on a counter and on the address. -/
opaque Config.usesMemory : Nat → Nat → Bool

/-- FREE VALUE (log entry 48): which of the values that a fetch may return it returns, as a number that counts them round, by a
counter and by the address (R60, R302). -/
opaque Config.fetchChoice : Nat → Nat → Nat

/-- FREE VALUE (log entry 63): the issue cycles that an access of a core's scratchpad loses to accumulator updates and engine landings at
the ports of its banks (R158), by a counter and by the core. -/
opaque Config.portCycles : Nat → Nat → Nat

/-- FREE VALUE (log entry 49): does a read of a pending register find the landed word (R169)? By a counter and the place. -/
opaque Config.showsLanded : Nat → Nat → Bool

/-- FREE VALUE (log entry 13): which of the tags under which a page's lines have been filled stands beside the line of a request,
as a number that counts them round, by a counter and by the address (R288). -/
opaque Config.storedTag : Nat → Nat → Nat

/-- FREE VALUE (log entry 17): which team record the TEAMW of a wait entry names, in a save image of which nothing is remembered, as a
number that counts them round, by a counter and by the word (R366, R368). -/
opaque Config.entryTeam : Nat → Word → Nat

/-- What another package answers to an access or a registration (R306, R410): the outcome and the data. -/
structure PeerReply where
  stat : BitVec 4
  data : DWord
  deriving DecidableEq, Repr, Inhabited

/-- FREE VALUE (log entry 14): the answer of another package to a registration, a value wait's read or a lock access
that names a word of its own, by a counter and by the key. -/
opaque Config.peerReply : Nat → Nat → PeerReply

/-- FREE VALUE (log entry 15): which enabled port and which UDP source port a stream uses over scale-out, by the stream's numbers and
the enabled ports that are up (R411). -/
opaque Config.flow : Nat → Nat → Nat

/-- FREE VALUE (log entry 16): the correction of the time unit's increment that its servo chooses after a measured offset, in
units of 2^-16 ns a cycle, before R351 bounds it. -/
opaque Config.discipline : Nat → Int → Int

/-- Cores of a cluster, clusters of a die, dies of the package, clusters and cores in all (R1 to R4). -/
def Config.coresPerCluster : Nat := 256
def Config.clusters : Nat := 16
def Config.cores : Nat := 4096
def Config.dies : Nat := 8

/-- Sizes in bytes of the memories (R157, R182, R191, R234, R277, R279). -/
def Config.coreSpBytes : Nat := 0x60000
def Config.clusterSpBytes : Nat := 0x1800000
def Config.dieSpBytes : Nat := 0x2000000
def Config.hbmBytes : Nat := 2 ^ 37

end Sys2Proof
end

