-- ==== Sys2Proof/Machine/State.lean ====
section
/-! DEFINITION. The state of one package (spec R1 to R4 and the state each chapter names), as plain data. Sparse
data are association lists in one canonical form: keys strictly rising, and no entry equal to the default. -/

namespace Sys2Proof.Machine

open Sys2Proof

/-- A sparse map from numbers: keys rising, absent keys reading as a default that the reader names. -/
abbrev Assoc (α : Type) := List (Nat × α)

/-- Reasons for which the machine stops. No rule of the specification stops it: a condition that an instruction
meets is a trap, a sticky bit, a pause or an event record, all of them next states. -/
inductive Fault where
  /-- An access outside every memory of the package that no rule of the specification turns into a failure.
  Raised by no meaning; kept so that the type has a value. Safe. -/
  | noSuchAddress (key : Nat)
  deriving DecidableEq, Repr

/-- Reasons for which an instruction has no meaning. -/
inductive Refusal where
  /-- The instruction has no meaning yet. Raised by the arms of Dispatch that name a mnemonic. Safe. -/
  | notModelled (mnemonic : String)
  deriving DecidableEq, Repr

/-! ## The slice (chapters 01, 06, 07, 09) -/

/-- A token-stack entry in the layout of R133: KIND, MASK, ADDR [31:2]. -/
structure StackEntry where
  kind : BitVec 2
  mask : BitVec 4
  addr : BitVec 30
  deriving DecidableEq, Repr

/-- What a trap records (R221, R227): cause, detail, lanes, INFO0, INFO1 and the frame's PC. -/
structure TrapInfo where
  cause : BitVec 8
  detail : BitVec 8
  lanes : BitVec 4
  info0 : Word
  info1 : Word
  pc : Word
  deriving DecidableEq, Repr

/-- A place written by an instruction, with what it held before (R217). -/
inductive Undo where
  | v (reg lane : Nat) (old : Option Word)
  | s (reg : Nat) (old : Option Word)
  | k (reg : Nat) (old : BitVec 4)
  | lfsr (old : Quad Word)
  deriving DecidableEq, Repr

/-- A replayable instruction that has issued (R218, R222): its granules, the entry word's fields, the operand
words of each lane, the cycle in which its result is written, and what it overwrote. -/
structure Replay where
  g0 : Word
  g1 : Word
  g2 : Word
  pos : BitVec 3
  fpm : BitVec 10
  rm : BitVec 3
  lanes : BitVec 4
  ops : Quad (List Word)
  due : Nat
  undo : List Undo
  deriving DecidableEq, Repr

/-- A trap frame of 1,024 bytes as 256 words (R220), absent words zero. -/
abbrev Frame := Assoc Word

/-- What a value wait or lock wait names (R313, R314). -/
structure KeyWait where
  loc : Bool
  key : DWord           -- the key as a far address (R306)
  cond : BitVec 2
  comparand : Word
  scope : BitVec 3
  sd : BitVec 6
  lock : Bool           -- LOCKACQ
  entry : Option Nat    -- the registered wait entry, when registered
  next : Nat            -- unregistered: cycle of the next evaluation (R317)
  backoff : Nat
  till : Nat            -- global time in ns at which its far timeout ends (R316, R317)
  last : Word           -- WAITV: the word as last read
  deriving DecidableEq, Repr

/-- What a slice stands in when it is not a candidate (R211). -/
inductive Wait where
  | regang
  | waitc (fl fs cp tl : Nat)
  | waitt (mask : BitVec 8)
  | yieldt (mask : BitVec 8) (target : Word)
  | fence (kind : BitVec 2)
  | barwait (addr : Word) (parity : Bool) (scope : BitVec 3) (entry : Option Nat) (next backoff : Nat)
  | tsync (scope : BitVec 3) (entry : Option Nat) (next backoff : Nat)
  | key (w : KeyWait) (lead : Nat)
  | mmagokClose (sd : BitVec 6) (lead : Nat)
  /-- Back-off (R219): when it ends, the boundary condition to take again, and the remaining count of the REGANG wait at which
  that condition found the slice. -/
  | backoff (till : Nat) (trap : Option TrapInfo) (regang : Option Nat)
  | yieldp
  | stopped
  deriving DecidableEq, Repr

/-- What the hardware set in FARSTAT and POISON apart from the slice's own instructions in one cycle (R24): the bits and the count of
FARSTAT, the POISON record that it made or would have made, the two registers as SSETs alone leave them, whether POISON held a record
when the cycle began, and the cycle after that of the last SSET to POISON. The sticky bits of STATUS are set by instructions alone. -/
structure HwSet where
  cycle : Nat
  far : Word
  count : Nat
  farBase : Word
  poison : Option Word
  poisonBase : Word
  held : Bool
  wrote : Nat
  deriving DecidableEq, Repr

def HwSet.none : HwSet := ⟨0, 0, 0, 0, .none, 0, false, 0⟩

/-- A lane's word of a far load that has landed while other lanes of its instruction have not (R169): where, what the register held
before, the landed word, which of the two a read finds now, and whether a write has come after the landing. -/
structure Landing where
  parent : Nat
  reg : Nat
  lane : Nat
  old : Option Word
  new : Word
  shown : Bool
  written : Bool
  deriving DecidableEq, Repr

/-- One slice (R10 to R34, R133, R171, R219, R220). -/
structure Slice where
  team : Nat                      -- key of the team: 16 x core + slot
  idx : Nat                       -- slice index in the team
  v : Assoc Word                  -- 4 x register + lane; absent: dead (R27)
  s : Assoc (Option Word)         -- absent: live zero; none: dead
  k : Assoc (BitVec 4)            -- k1 to k7; absent: 0000
  active : BitVec 4               -- k0 (R13)
  exited : BitVec 4
  pc : Word
  stack : List StackEntry         -- bottom first, at most 8
  fair : BitVec 16
  fairCount : BitVec 16
  fpmode : Word
  sticky : Word                   -- STATUS bits 5, 2, 1, 0 (R19)
  farstat : Word
  poison : Word
  trapen : Word
  timehi : Option Word
  lfsr : Quad Word
  fl : Nat
  fs : Nat
  cp : Nat
  tl : Nat
  acqHold : Bool                  -- an acquire fence holds later memory instructions (R178)
  wait : Option Wait
  gang : Nat                      -- key of the current gang: the slice key of its first member
  ahead : Bool                    -- has executed the gang's per-slice short instruction (R212)
  frame : Option Frame            -- trap mode (R220)
  bad : List (Bool × Nat × Nat)   -- registers with an uncorrectable error not yet found (R29): s?, register, lane
  inflight : List Replay          -- oldest first
  boundary : List TrapInfo        -- conditions of R33 and UNIFORM_MISS, oldest first
  backoffLen : Nat                -- R219
  slive : Option Word             -- R360
  done : Bool                     -- the slice has exited (R142)
  lastIssue : Nat                 -- cycle of the last issue plus 1, 0 before the first (R388)
  hw : HwSet                      -- R24
  codeFence : Nat                 -- State.writeNo at its last PFENCE of the instruction path (R60, R180, R302)
  constFence : Nat                -- and of the constant path
  granule : Option Word           -- the short instruction that its gang has begun and this slice has still to execute (R60, R212)
  landings : List Landing         -- landed words of far loads whose count is not yet released, oldest first (R169)
  deriving DecidableEq, Repr

/-! ## The launch header (R327) -/

/-- A launch header with its fields as numbers (R327). `deps` holds NDEPS vectors, entries of fields 1 to 5. -/
structure Header where
  entry : Word
  shape : Word
  widths : DWord
  ext : List DWord
  depw : List DWord
  ctl : Word
  fair : Word
  regang : Word
  trapvec : Word
  param : DWord
  mcast : DWord
  clear : DWord
  deriving DecidableEq, Repr

/-! ## The team (R31, R157, R173, R182 to R192, R200, R260) -/

/-- A completion token (R173). -/
structure Token where
  count : Nat
  code : BitVec 8
  err : Bool
  deriving DecidableEq, Repr

/-- A record of denials still open (R289). -/
structure Denial where
  id : Nat
  team : Nat
  agent : BitVec 4
  page : DWord
  addr : DWord
  tag : BitVec 20
  die : Nat
  count : Nat
  time : DWord
  deriving DecidableEq, Repr

/-- One resident team. -/
structure Team where
  part : Nat
  job : BitVec 16
  gen : BitVec 12
  grid : Nat                      -- grid number
  index : Nat                     -- linear index (R326)
  header : Header
  slices : List Nat               -- keys of its slices by slice index
  spbase : Nat
  splimit : Nat
  tiles : List Nat                -- physical tiles, mj at place j
  tokens : Assoc Token            -- absent: reset
  md : Assoc DWord
  scaleValid : BitVec 64
  trapvec : Word
  prio : BitVec 3
  pend : List (Nat × Bool × Word) -- writes to TRAPVEC (true) and PRIO still to be seen, with their cycles, oldest first (R16)
  launchPrio : BitVec 3
  arrived : List Nat              -- TSYNC: slice keys (R260)
  openSet : List Nat              -- entries posted since the last MBATCH (R200)
  rgDue : Assoc Nat               -- regang timers: launch gang to cycle of expiry (R147)
  wdCount : Nat                   -- hang watchdog (R388)
  since : DWord                   -- start of the present residence (R343)
  halting : Bool                  -- being swapped out: it issues nothing more (R345)
  landed : List Word              -- handles of its receives that were matched and have completed (R425)
  deriving DecidableEq, Repr

/-! ## Far accesses (R166 to R172) -/

/-- What a far request does in one lane: a load, a store or an atomic. -/
structure LaneOp where
  lane : Nat
  addr : DWord
  data : DWord                    -- low 64 bits of the data
  data2 : DWord                   -- high 64 bits, .b128
  cmp : DWord
  done : Bool
  deriving DecidableEq, Repr

/-- Kinds of far request, with what they need to act and to land. -/
inductive FarKind where
  | load (size : BitVec 3) (vd : BitVec 8)
  | store (size : BitVec 3)
  | atomic (op : BitVec 4) (ty : Ty) (vd : BitVec 8)
  deriving DecidableEq, Repr

/-- A far instruction of one slice whose requests the coalescer has still to form (`lines` empty and `formed`
false), or a line request in the far-access queue (R168). -/
structure Far where
  id : Nat
  slice : Nat
  kind : FarKind
  ops : List LaneOp
  formed : Bool
  seq : Nat                       -- issue order of the far instruction
  parent : Nat                    -- the instruction's number
  gangNo : Nat                    -- the number of the gang's instruction (R163)
  due : Nat                       -- global time, in ns, at which its far timeout is over: that of its issue and FARTO then (R170, R377)
  sent : Bool                     -- a peer request has been sent for it
  txid : BitVec 16
  answer : Option Packet          -- an answer that waits for an earlier load to land (R169)
  known : List (Nat × Byte)       -- bytes of peers that another load of its gang's instruction has found (R163)
  deriving DecidableEq, Repr

/-! ## Copies (R235 to R263) -/

/-- The five copies and their forms, with the captured operands (R237, R240). -/
inductive CopyKind where
  | copy (mc : Bool) (dst src : DWord) (n : Nat)
  | tensor (mc store : Bool) (dense : DWord) (coords : List Int) (desc : List Byte)
  | scale (off : Word) (coords : List Int) (desc : List Byte)
  | gather (mc : Bool) (dense : DWord) (desc : List Byte) (list : Word) (count : Nat)
  | scatter (dense : DWord) (desc : List Byte) (list : Word) (count : Nat)
  | reduce (form : BitVec 2) (dst src : DWord) (n : Nat)
  deriving DecidableEq, Repr

/-- Where a copy stands. -/
inductive CopyState where
  | queued
  | running
  | paused (handle : BitVec 16) (kind : BitVec 8) (addr : DWord)
  deriving DecidableEq, Repr

/-- A request of a copy to a peer: a write or a read, whether it reads source bytes that the element at the cursor will overwrite
(R241), and its number. -/
structure CopyAsk where
  write : Bool
  ahead : Bool
  txid : BitVec 16
  upTo : Nat                      -- a write: bytes from the cursor's element on that are written when it is done
  deriving DecidableEq, Repr

/-- One copy in its core's copy queue. -/
structure Copy where
  id : Nat
  team : Nat
  lead : Nat
  members : List Nat              -- slices whose copy counters it holds
  token : Nat
  granule : Word                  -- the copy's granule
  opers : List Word               -- SA words (4), SD words (2), q0 to q2 as read (R367)
  bar : Option Word               -- local address of the barrier
  kind : CopyKind
  group : Option (List Nat)       -- multicast: member cores of the cluster; none with a bad entry
  mcKey : Option (DWord × Nat)    -- key of the multicast group table entry
  cursor : Nat                    -- elements performed
  denied : Bool
  state : CopyState
  saved : Assoc Byte              -- source bytes read before their elements (R241, R300), by their place in the copy
  piece : Nat                     -- elements being performed together at the cursor, 0: none yet (R300)
  part : Nat                      -- bytes of the element at the cursor that are written already (R300)
  rows : Assoc Word               -- index words read, by row (R240, R246)
  asked : Option CopyAsk          -- request to a peer that is not answered and applied
  ans : Option Packet             -- its answer
  got : List Byte                 -- source bytes of the piece read so far
  deriving DecidableEq, Repr

/-! ## The matrix engine (R182 to R208, R264 to R276) -/

/-- A tile move in progress (R188). -/
inductive MoveKind where
  | tld | tst | ttrans
  deriving DecidableEq, Repr

structure TileMove where
  id : Nat
  team : Nat
  kind : MoveKind
  base : Word
  stride : Word
  desc : DWord
  tile : Nat                      -- physical tile
  members : List Nat              -- slices whose tile counters it holds
  seq : Nat                       -- issue order on the core
  deriving DecidableEq, Repr

/-- A FIFO entry's operation (R195, R199, R270). -/
inductive MatOp where
  | mma (scaled : Bool) (descA descB : DWord) (tileA tileB : Nat) (unitsA unitsB : List Nat)
  | fill (value : Word) (ncols : Nat)
  /-- A part of a ganged operation: position and operation; B's bytes are those the issuer sent. -/
  | gangPart (op pos : Nat) (scaled : Bool) (descA descB : DWord) (tileA : Nat) (unitsA : List Nat)
  deriving DecidableEq, Repr

/-- A selected matrix operation awaiting the shadow unit (R207). -/
structure ShadowJob where
  seq : DWord
  team : Nat
  part : Nat
  job : BitVec 16
  gen : BitVec 12
  kind : BitVec 2
  scaled : Bool
  descA : DWord
  descB : DWord
  rows : List Nat
  aBytes : List Byte
  bBytes : List Byte
  aScales : List Byte
  bScales : List Byte
  result : Assoc Word
  deriving DecidableEq, Repr

/-- One FIFO entry: posted, then computed (its results held), then written back. -/
structure MatEntry where
  id : Nat
  team : Nat
  op : MatOp
  acc : Word
  rows : List Nat
  seq : Nat
  started : Bool
  result : Assoc Word             -- 32 x row + column: product sums s, or fill values
  dead : List Nat                 -- elements of `result` that an uncorrectable error met (R204)
  shadow : Option ShadowJob       -- selected for the shadow check (R207)
  shadowExp : Nat                 -- SHADOW of the partition when its instruction issued (R207, R377)
  deriving DecidableEq, Repr

/-- A ganged operation (R264 to R274). -/
structure GangOp where
  id : Nat
  team : Nat
  token : Nat
  bar : Word
  scaled : Bool
  partners : List (Nat × Nat)     -- enabled positions and their core keys
  descB : DWord
  bBytes : List Byte              -- tile B as read by the issuer's entry, once it started
  bScales : List Byte
  bDead : List Nat
  sent : Bool
  status : Assoc (BitVec 2)       -- settled positions
  arriving : List Nat             -- positions that failed after step 0
  nolocal : Bool
  tileB : Nat
  unitsB : List Nat
  entry : Nat
  shadowExp : Nat                 -- SHADOW of the partition when the instruction issued (R377)
  deriving DecidableEq, Repr

/-- The window of a core (R265). -/
structure MmagWindow where
  team : Nat
  job : BitVec 16
  acc : Word
  tile : Nat
  rows : List Nat
  deriving DecidableEq, Repr

/-- A closed batch that has not finished (R200, R201). -/
structure Batch where
  id : Nat
  team : Nat
  token : Nat
  members : List Nat
  arr : Option (Word × Word)
  deriving DecidableEq, Repr

/-- One core: what belongs to no team. -/
structure Core where
  matSeq : DWord                  -- shadow sequence number (R207)
  skip : Nat
  shadow : Option ShadowJob
  win : Option MmagWindow
  tileJob : Assoc (BitVec 16 × Nat)   -- job and partition a physical tile last belonged to (R182)
  gated : Bool
  idleSince : DWord
  therm : BitVec 8
  droop : BitVec 8
  deriving DecidableEq, Repr

/-! ## The cluster (R235, R252, R261, R262, R381, R384, R385) -/

/-- A LEND or RECLAIM written: in which cycle, whether it took effect, and the reconnection that was under way before it (R382). -/
structure ClendMark where
  cycle : Nat
  took : Bool
  reconnect : Option Nat
  deriving DecidableEq, Repr

/-- One cluster. Registers are held with their read-only fields computed by the reader. -/
structure Cluster where
  groups : List (DWord × Nat × List Nat × Nat)  -- multicast groups: table address, g, members, copies in flight
  turn : Nat                      -- the core that the copy dispatcher looks at next (R235)
  copycmd : Word                  -- COPYCMD as written: ACTION and HANDLE (R262)
  lent : BitVec 2                 -- CLEND STATE: 0 own, 1 lent, 2 reclaiming
  borrower : BitVec 4
  clpwr : DWord
  clwt : BitVec 128               -- byte k: weight of class k (R214)
  clcal : DWord
  enacc : DWord
  enaccSeen : DWord               -- ENACC at the last meter update (R386)
  gated : Bool
  idleSince : DWord
  lendAt : Option ClendMark       -- the last LEND (R382)
  reclaimAt : Option ClendMark    -- the last RECLAIM
  reconnect : Option Nat          -- being reconnected to this regulator group (R384)
  group : Nat                     -- regulator group it is connected to
  droopEst : BitVec 8             -- droop estimate (R214)
  deriving DecidableEq, Repr

/-! ## The die (R280 to R292, R306 to R325, R377 to R380, R414 to R432) -/

/-- A cached translation (R284): job, virtual page and the leaf. -/
structure Leaf where
  part : Nat
  job : BitVec 16
  vpn : BitVec 36                 -- VA [47:12]
  pa : BitVec 37                  -- physical page base
  tag : BitVec 20
  r : Bool
  w : Bool
  a : Bool
  size : Nat                      -- bytes of its page
  deriving DecidableEq, Repr

/-- A tag under which a die's memory-side cache has filled lines of a page (R288). -/
structure PageTag where
  part : Nat
  job : BitVec 16
  vpn : BitVec 36
  line : BitVec 6                 -- VA [11:6]
  tag : BitVec 20
  size : Nat
  deriving DecidableEq, Repr

/-- A clearance-bitmap line in a die's clearance cache (R286). -/
structure ClearLine where
  part : Nat
  job : BitVec 16
  va : DWord                      -- virtual address of the 64-byte line
  bytes : List Byte
  deriving DecidableEq, Repr

/-- A wait-for entry (R307). `key` holds OBJ, `team` the registering team's key. -/
structure WftEntry where
  id : Nat
  part : Nat
  job : BitVec 16
  obj : DWord
  team : Nat
  kind : BitVec 2                 -- 0 wait, 1 hold, 2 will, 3 posted wait
  src : BitVec 3
  slice : Nat                     -- slice key of the waiting or lead slice
  count : Nat
  time : DWord
  torem : Word
  spilled : Option Nat            -- its place in the partition's spill area (R308)
  touched : Nat                   -- order of the last touch
  unfound : Bool                  -- a word of it is poisoned and no read has found it yet (R292)
  deriving DecidableEq, Repr

/-- A team on the path of a walk: its objects that the walk has still to look at, and the edges read and not yet followed. -/
structure WalkStop where
  team : Nat
  objs : List DWord
  edges : List (DWord × Nat)
  deriving DecidableEq, Repr

/-- A walk (R320 to R322): the slice in which it would raise DEADLOCK, the die that counts it, its team, the path with the last team
first (empty: the walk is over), the edges along it, the teams entered, the waits and holders of that die as they stood when the walk
began, and what it found: a cycle of objects and holder words, the limit, or nothing. -/
structure Walk where
  slice : Nat
  die : Nat
  team : Nat
  path : List WalkStop
  via : List (DWord × Nat)
  entered : Nat
  waits : List (Nat × Nat × DWord)    -- team, slice, object
  holds : List (DWord × Nat)          -- object, holder, earliest first
  cycle : List (DWord × Word)
  cut : Bool
  deriving DecidableEq, Repr

/-- A captured receive block (R419) with its descriptor, and how far its life has come (R420 to R425). -/
structure Recv where
  id : Nat
  part : Nat
  job : BitVec 16
  die : Nat
  handle : Word
  team : Nat
  teamIndex : Nat
  tok : Option Nat                -- token index
  cq : Bool
  bar : Bool
  block : List Byte
  desc : List Byte
  posted : Bool                   -- still in the posted list
  code : BitVec 8                 -- first error (R422)
  len : Nat                       -- L of the matched message
  mtag : Word
  msrc : DWord
  rdv : Bool
  sender : BitVec 20              -- peer and die of the sender
  senderDie : BitVec 3
  rdvHandle : BitVec 16
  landed : Nat                    -- payload bytes received: the first byte not landed (R432)
  early : List Nat                -- chunks landed beyond it
  pulls : List Nat                -- chunks asked for and not yet answered
  nextPull : Nat
  endSeen : Bool
  writes : Nat                    -- landing writes that peers have still to answer
  held : List (Nat × Nat × List Byte) -- payload bytes that wait until the team is resident: in which order, offset, bytes (R431)
  heldEnd : Option Nat            -- when its completion came to wait for the team, in the same order (R431)
  unfound : Bool                  -- a word of its captured bytes is poisoned and no read has found it yet (R292)
  spill : Option Nat              -- its place in the spill room of the receive area (R427)
  wft : Option Nat                -- its posted wait's entry (R430)
  deriving DecidableEq, Repr

/-- An unexpected message (R421, R427). -/
structure Unexpected where
  id : Nat
  part : Nat
  job : BitVec 16
  die : Nat
  srcKey : DWord
  tag : Word
  len : Nat
  rdv : Bool
  rdvHandle : BitVec 16
  slot : Nat                      -- its unexpected record
  pool : Nat                      -- pool offset of the payload
  room : Nat                      -- bytes it takes in the pool
  landed : Nat                    -- payload bytes present
  gone : Bool                     -- matched, its pool space not yet reclaimed
  deriving DecidableEq, Repr

/-- A send whose token is still bound (R417). -/
structure SendOp where
  id : Nat
  team : Nat
  teamIndex : Nat
  part : Nat
  job : BitVec 16
  gen : BitVec 12
  die : Nat
  token : Nat
  addr : DWord
  len : Nat
  tag : Word
  dstPeer : BitVec 20
  dstDie : BitVec 3
  rdv : Bool
  rdvHandle : BitVec 16
  packets : List Nat              -- SEQ of packets neither accepted nor refused
  waits : Bool                    -- it has sent nothing: an earlier message of its team to that die is under way from another die (R415)
  endAnswered : Bool
  code : BitVec 8
  deriving DecidableEq, Repr

/-- A correction history of a counting unit (R290, R291). -/
structure EccHist where
  unit : EccUnit
  times : List DWord              -- time stamps of the last 10 s, newest first
  spares : Nat                    -- spares that it has taken
  copying : Bool
  deriving DecidableEq, Repr

/-- One die. -/
structure Die where
  xlats : List Leaf
  tags : List PageTag
  clears : List ClearLine
  xlcmd : DWord
  wftstat : DWord                 -- OVF, CUT, DLK in place; USED computed
  wftspill : Assoc DWord          -- by partition
  copyqos : Assoc DWord
  copyqst : Assoc DWord
  poolcfg : DWord
  pool : Nat
  rxcfg : Assoc DWord
  rxSeq : Assoc (BitVec 29)       -- handle sequence, by partition x 65536 + job
  rxHead : Assoc Nat              -- head of the payload pool, by partition x 65536 + job (R427)
  rdvNext : BitVec 16
  refillUs : Nat                  -- us of global time whose copy-token refill has been made (R380)
  deriving DecidableEq, Repr

/-! ## The distributor (R332 to R347) and the switch (R356 to R376) -/

/-- Where a grid's completion goes. -/
inductive GridOwner where
  | token (team token : Nat)
  | slot
  | root
  deriving DecidableEq, Repr

/-- A grid of a partition (R332 to R337). -/
structure Grid where
  id : Nat
  part : Nat
  number : Nat
  owner : GridOwner
  header : Header
  base : Nat                      -- B (R336)
  retired : List Nat              -- retired linear indices at or above B, rising
  started : List Nat              -- indices started and not retired, rising
  seen : Option (Nat × Nat × List Nat)  -- a cycle in which teams retired, with base and retired before it (R339)
  deriving DecidableEq, Repr

/-- A launch that the distributor has not settled (R332, R335). -/
structure Launch where
  id : Nat
  part : Nat
  number : Nat
  owner : GridOwner
  header : Option Header          -- none: the header could not be formed
  deriving DecidableEq, Repr

/-- A team swapped out or halted with everything its save record holds (R345, R367). -/
structure SavedTeam where
  id : Nat
  part : Nat
  team : Team
  core : Nat
  slot : Nat
  slices : List Slice
  copies : List Copy
  fars : List Far
  scratch : Assoc Byte            -- by offset from SPBASE
  tiles : Assoc Byte              -- 4096 x tile name + offset
  scales : Assoc Byte             -- by scale offset
  halts : List Frame              -- halt frames of its slices (R229)
  drained : Bool                  -- its drain was chosen (R362)
  reclaimed : Bool                -- swapped out by a reclaim (R382)
  swapped : DWord                 -- time of the swap-out
  waited : Nat                    -- quantum boundaries that it has waited through since (R344)
  words : List (BitVec 256)        -- its wait entries as the save image of the job holds them (R325)
  deriving DecidableEq, Repr

/-- A job as the partition holds it (R356, R357, R408). -/
structure Job where
  job : BitVec 16
  gen : BitVec 12
  codeva : DWord
  root : DWord
  rootw : List DWord
  peertab : DWord
  evq : DWord
  save : DWord
  gridCtr : Nat
  win : Option DWord              -- WIN of the peer table (R408)
  prins : List (BitVec 16 × DWord)
  urgent : Bool
  deriving DecidableEq, Repr

/-- The phases of a switch (R356 to R373). -/
inductive SwitchPhase where
  | draining | saving | quiesce | restoring
  deriving DecidableEq, Repr

structure Switch where
  phase : SwitchPhase
  urgent : Bool
  target : Option (BitVec 16 × BitVec 12 × Bool)  -- incoming job, generation, restore
  haltTime : DWord
  haltCycle : Nat                 -- cycle of the halt: what freezes then is recorded as it stood (R361)
  swctl : Word                    -- SWCTL as this halt took it (R363)
  drain : List Nat                -- teams that drain (R362)
  discard : List Nat
  out : Option Job
  returning : Bool
  heavy : Bool                    -- the estimate of some cluster exceeds its budget (R362)
  opened : Assoc Nat              -- times in ns at which the save windows of clusters opened (R362)
  failure : BitVec 8              -- first failure met, for SWSTAT.LAST
  deriving DecidableEq, Repr

/-- One partition (R377, R383, R386, R343, R334, R355, R363, R374, R389, R392, R393). -/
structure Part where
  partcfg : DWord
  pwrcfg : DWord
  group : Option Nat              -- regulator group that its GROUP has taken (R384)
  credit : Int                    -- in units of 2^-8 pJ (R386)
  throttle : Nat
  meterUs : Nat                   -- us of global time whose meter update has been made (R386)
  swctl : Word
  swstat : Word
  urgcmd : Word
  preq : Bool
  progq : Word
  nextQuantum : DWord
  jobdir : DWord
  jobdirUsed : DWord              -- JOBDIR as the last switch took it (R392)
  telem : DWord
  slot : Assoc Byte               -- launch slot window, 128 bytes
  lsstat : Word
  window : Assoc Byte             -- local entry window, 32 bytes
  ltstat : Word
  preset : BitVec 2
  teamcmd : Word                  -- TEAMCMD as written (R389)
  ptr : Nat                       -- placement pointer P: core key
  job : Option Job
  grant : BitVec 16               -- CLUSTERS of its current entry (R356)
  switch : Option Switch
  preempted : Option (BitVec 16 × BitVec 12)   -- job to restore after an urgent one (R375)
  urgHalt : Option DWord          -- end of the urgent cooperative window
  urgJob : Option (BitVec 16 × BitVec 12)
  deriving DecidableEq, Repr

/-- The lease state of the election (R352). -/
structure Lease where
  ident : Word
  epoch : Word                    -- highest epoch seen
  holder : Option (Word × Word)   -- identifier and epoch of the lease held valid
  last : Nat                      -- time of the last valid lease or of its own sending
  announced : Option Nat          -- time of the announcement
  heard : List Word               -- identifiers heard since
  members : List (BitVec 20)      -- packages whose host dies are the other members of the domain
  deriving DecidableEq, Repr

/-! ## The fabric (R397 to R413) -/

/-- A flit that waits for room in the retry buffer: is it one of an answer, does it go on with the packet of the flit before it, its
type and its payload (R401, R412). -/
structure WaitFlit where
  ans : Bool
  more : Bool
  ftype : BitVec 8
  payload : List Byte
  deriving DecidableEq, Repr

/-- One end of a scale-up link (R400 to R403). -/
structure Port where
  state : BitVec 3
  width : BitVec 2
  retry : BitVec 16
  crcerr : BitVec 16
  sendSeq : BitVec 12
  recvSeq : BitVec 12             -- last flit received correctly
  buffer : List Flit              -- sent and not covered by FACK, oldest first, at most 512
  waiting : List WaitFlit         -- flits that wait while the buffer is full, in the order in which they leave
  wire : List Flit                -- flits put on the link, newest first
  recent : List Nat               -- times of flit retries in the last 100 us
  rxBytes : List Byte             -- packet bytes received and not yet a whole packet
  report : BitVec 16              -- usable links of the peer as it last reported them
  lastRetry : Nat                 -- time of the last retry or of the last attempt to widen
  widenWait : Nat                 -- ns to wait before the next attempt
  downSince : Nat
  full : Bool                     -- the retrain in progress starts from width 8
  deriving DecidableEq, Repr

/-- The sending end of a stream (R405 to R407). -/
structure TxStream where
  id : StreamId
  nextSeq : Word
  unacked : List Packet           -- in SEQ order
  nacked : Option (Word × Nat)    -- first NACKed SEQ and when to resend
  sent : Assoc Nat                -- when each kept packet was last sent, by its SEQ
  deriving DecidableEq, Repr

/-- The receiving end of a stream. -/
structure RxStream where
  id : StreamId
  expect : Word
  held : List Packet
  nackFrom : Option Word
  deriving DecidableEq, Repr

/-- An outstanding peer request (R410, R412). -/
structure PeerReq where
  txid : BitVec 16
  src : Nat                       -- what it serves: far line, copy element, receive
  kind : BitVec 2                 -- 0 far request, 1 copy, 2 pull, 3 landing write
  dline : BitVec 40
  stream : StreamId
  seq : Word
  off : Nat                       -- pull: chunk offset
  lost : Bool                     -- its stream was left with no path while it was unanswered (R412)
  deriving DecidableEq, Repr

/-- A port of the time unit (R349, R413): its delay mechanism, its way of transmitting and its transport, whether the peer delay has
still to be measured again, the data set last announced there and when, the number of the next message, the delay request last sent
with its time, a Sync in two steps that waits for its follow-up (number, ingress time, correction), a Pdelay_Resp in two steps that
does (number, ingress time, time received, correction), the measured delay, and the last difference between Sync's times. -/
structure PtpPort where
  e2e : Bool
  twoStep : Bool
  udp : Bool
  pending : Bool
  heard : Option (PtpSet × Nat)
  sequence : BitVec 16
  asked : Option (BitVec 16 × Nat)
  sync : Option (BitVec 16 × Nat × Int)
  answer : Option (BitVec 16 × Nat × Nat × Int)
  delay : Option Int
  behind : Int
  deriving DecidableEq, Repr

/-- What the fuses of the part hold (R395, R396, R398). -/
structure Fuses where
  keySlots : List (BitVec 384)    -- four
  revoked : BitVec 4
  version : DWord                 -- the monotonic security version
  secret : BitVec 384             -- from which the identity key is derived
  peer : BitVec 20
  deriving DecidableEq, Repr

/-- What the root of trust records (R394, R396). -/
structure Rot where
  record : Assoc DWord            -- step record, by step 1 to 9
  bootCount : Word
  measured : List (BitVec 384)
  recovery : Bool
  freeRun : Bool                  -- step 8 passed by its alternate: the time unit is free-running
  report : List Byte              -- last attestation report
  deriving DecidableEq, Repr

/-- A regulator group (R384): the register, the setting in force and the end of a ramp. -/
structure RgGroup where
  reg : Word
  applied : Word
  ramping : Bool
  deriving DecidableEq, Repr

/-! ## The package -/

structure State where
  agenda : List Turn              -- MODEL (log entry 1): turns to take before the free ones
  turnNo : Nat                    -- MODEL: turns taken from Config.nextTurn
  freeNo : Nat                    -- MODEL (log entry 13): argument of the free values, one more each step
  cur : Nat                       -- MODEL: key of the slice whose instruction is executed
  nextId : Nat                    -- MODEL: next identifier of a record
  nextSeq : Nat                   -- MODEL: issue order of engine work
  mem : List Host.Cell            -- every memory, by physical key (Machine/Ops.lean)
  poisoned : Assoc Bool           -- poisoned words (R292); true: its event has still to be appended
  overwritten : List (Nat × Nat × Word)  -- HBM words that writes replaced: number of the write, word, old value (R60, R302)
  writeNo : Nat                   -- writes to HBM so far
  cycle : Nat
  time : Nat                      -- global time in 2^-16 ns (R348)
  increment : Nat                 -- added each cycle
  timestat : DWord
  ptpDomain : BitVec 7
  ptpPorts : Assoc PtpPort        -- by port: links 0 to 15, Ethernet ports from 16
  ptpFrames : List (Nat × List Byte)  -- Ethernet frames of PTP messages sent, newest first (R349)
  slices : Assoc Slice            -- by slice key: 64 x core + core slice index
  teams : Assoc Team              -- by team key: 16 x core + slot
  cores : Assoc Core
  clusters : Assoc Cluster
  dies : Assoc Die
  parts : Assoc Part
  fars : List Far
  copies : List Copy
  moves : List TileMove
  entries : List MatEntry
  gangOps : List GangOp
  batches : List Batch
  denials : List Denial
  wft : List WftEntry
  walks : List Walk
  grids : List Grid
  launches : List Launch
  saved : List SavedTeam
  kept : List SavedTeam           -- MODEL (log entry 17): teams of saved jobs, beside their save images
  recvs : List Recv
  unexpected : List Unexpected
  sends : List SendOp
  acked : List Packet              -- packets of `inbox` that were acknowledged when they were parked (R371)
  ecc : List EccHist
  timetable : List TtEntry
  ttepoch : Word
  lease : Lease
  foehn : Word
  mlog : DWord
  mlogst : Word
  podcfg : DWord
  socfg : Assoc Byte
  ethUp : BitVec 8
  ports : Assoc Port
  txStreams : List TxStream
  rxStreams : List RxStream
  peerReqs : List PeerReq
  nextTxid : BitVec 16
  outbox : List Packet            -- packets handed to the fabric, newest first
  inbox : List Packet             -- packets delivered and not yet taken by their engine, oldest first
  dropped : Nat                   -- packets dropped and counted (R405, R411)
  rgGroups : Assoc RgGroup
  rot : Rot
  fuses : Fuses
  hostRead : DWord                -- what the last host-die or external read returned
  hostRes : Assoc (Nat × Nat × Nat)   -- reservations of host-die harts: key, bytes, writeNo when taken (R305)
  datagrams : List Datagram       -- datagrams sent over scale-out, newest first, one for each packet sent so (R411)
  deriving DecidableEq, Repr

/-! ## Reset -/

/-- A header of zeros. -/
def Header.zero : Header := ⟨0, 0, 0, [0, 0, 0, 0, 0], [0, 0, 0, 0], 0, 0, 0, 0, 0, 0, 0⟩

/-- A token after reset: DONE, no error (R173). -/
def Token.reset : Token := ⟨0, 0, false⟩

/-- A core after reset (R207); sensor readings and the gated flag are named by log entry 4. -/
def Core.reset : Core :=
  { matSeq := 0, skip := 0, shadow := none, win := none, tileJob := [], gated := false, idleSince := 0
    therm := 0, droop := 0 }

/-- A cluster after reset (R381, R385). CLWT holds the default weights of R214, class 0
in byte 0. -/
def Cluster.reset : Cluster :=
  { groups := [], turn := 0, copycmd := 0, lent := 0, borrower := 0
    clpwr := 64#8 ++ 16#8 ++ 160#8 ++ 2048#13 ++ 768#13 ++ 0#14
    clwt := 0#8 ++ 12#8 ++ 44#8 ++ 36#8 ++ 40#8 ++ 28#8 ++ 72#8 ++ 48#8 ++ 80#8 ++ 64#8 ++ 16#8 ++ 96#8 ++ 32#8 ++
      24#8 ++ 20#8 ++ 8#8
    clcal := 0, enacc := 0, enaccSeen := 0, gated := false, idleSince := 0, lendAt := none, reclaimAt := none, reconnect := none
    group := 0
    droopEst := 0 }

/-- A die after reset (R285, R308, R324, R379, R427). -/
def Die.reset : Die :=
  { xlats := [], tags := [], clears := [], xlcmd := 0, wftstat := 0, wftspill := [], copyqos := [], copyqst := [], poolcfg := 0
    pool := 0, rxcfg := [], rxSeq := [], rxHead := [], rdvNext := 0, refillUs := 0 }

/-- A partition after reset: FARTO 50, WDEXP 32 (R377); IDLET 100, ALLOT 4500 (R383); URGLEAD 20, DRAINW 10,
SAVEW 70 (R363); QUANTUM 2000 (R343). -/
def Part.reset : Part :=
  { partcfg := 0#12 ++ 50#14 ++ 32#6 ++ 0#32
    pwrcfg := 100#16 ++ 0#3 ++ 4500#13 ++ 0#32, group := none, credit := 0, throttle := 0, meterUs := 0
    swctl := 0x140A46, swstat := 0, urgcmd := 0, preq := false, progq := 2000
    nextQuantum := 0, jobdir := 0, jobdirUsed := 0, telem := 0, slot := [], lsstat := 0, window := [], ltstat := 0
    preset := 0, teamcmd := 0, ptr := 0, job := none, grant := 0, switch := none, preempted := none, urgHalt := none, urgJob := none }

/-- A port after reset: every LINKST field 0 (R403). -/
def Port.reset : Port :=
  { state := 0, width := 0, retry := 0, crcerr := 0, sendSeq := 0, recvSeq := 0xFFF, buffer := [], waiting := [], wire := []
    recent := [], rxBytes := [], report := 0, lastRetry := 0, widenWait := 1000000000, downSince := 0, full := false }

/-- A regulator group after reset: VID 30, FREQ 16 (R384). -/
def RgGroup.reset : RgGroup := ⟨0x1E10, 0x1E10, false⟩

def Lease.reset : Lease := ⟨0, 0, none, 0, none, [], []⟩

def PtpPort.reset : PtpPort := ⟨false, false, false, false, none, 0, none, none, none, none, 0⟩

/-- The fuses of the model's part (log entry 5). -/
def Fuses.reset : Fuses := ⟨[0, 0, 0, 0], 0, 0, 0, 0⟩

def Rot.reset : Rot := ⟨[], 0, [], false, false, []⟩

/-- The package right after reset. Values that no rule states are named in log entries 3, 4 and 5. -/
def State.reset : State :=
  { agenda := [], turnNo := 0, freeNo := 0, cur := 0, nextId := 1, nextSeq := 1, mem := [], poisoned := []
    overwritten := [], writeNo := 0, cycle := 0, time := 0, increment := 81920, timestat := 0xFF0000, ptpDomain := 0, ptpPorts := []
    ptpFrames := []
    slices := [], teams := [], cores := [], clusters := [], dies := [], parts := []
    fars := [], copies := [], moves := [], entries := [], gangOps := [], batches := [], denials := [], wft := [], walks := []
    grids := [], launches := [], saved := [], kept := [], recvs := [], unexpected := [], sends := [], acked := [], ecc := []
    timetable := [], ttepoch := 0, lease := Lease.reset, foehn := 0x1108, mlog := 0, mlogst := 0
    podcfg := Fuses.reset.peer.setWidth 64
    socfg := [(0x0C, 0x56), (0x0D, 0x4C), (0x0E, 0xDC), (0x0F, 0x05)], ethUp := 0, ports := []
    txStreams := [], rxStreams := [], peerReqs := [], nextTxid := 0, outbox := [], inbox := [], dropped := 0, rgGroups := []
    rot := Rot.reset, fuses := Fuses.reset, hostRead := 0, hostRes := [], datagrams := [] }

end Sys2Proof.Machine
end

