-- ==== Sys2Proof/Machine/Store.lean ====
section
/-! DEFINITION. Sparse maps, the records of State by key, and the bytes of every memory (spec R5, R157, R182, R191,
R234, R277, R279, R292). -/

namespace Sys2Proof.Machine

open Sys2Proof

/-! ## Sparse maps -/

/-- A list sorted by an order; equals keep their places. -/
def insertBy {α : Type} (before : α → α → Bool) (x : α) : List α → List α
  | [] => [x]
  | y :: r => if before x y then x :: y :: r else y :: insertBy before x r

def sortBy {α : Type} (before : α → α → Bool) (xs : List α) : List α := xs.foldl (fun m x => insertBy before x m) []

/-- The entry at key k. -/
def afind {α : Type} : Assoc α → Nat → Option α
  | [], _ => none
  | (j, x) :: r, k => if j = k then some x else afind r k

/-- The map with the entry at k set to x. -/
def aput {α : Type} : Assoc α → Nat → α → Assoc α
  | [], key, new => [(key, new)]
  | e :: rest, key, new => if e.1 < key then e :: aput rest key new else (key, new) :: if e.1 = key then rest else e :: rest

/-- The map without an entry at k. -/
def adel {α : Type} (m : Assoc α) (k : Nat) : Assoc α := m.filter (fun e => decide (e.1 ≠ k))

/-- The map with the entry at k changed by f, if there is one. -/
def amod {α : Type} (m : Assoc α) (k : Nat) (f : α → α) : Assoc α := m.map (fun e => if e.1 = k then (e.1, f e.2) else e)

/-- The map with the entries at the keys of a list changed by f. -/
def amods {α : Type} (m : Assoc α) (ks : List Nat) (f : α → α) : Assoc α :=
  m.map (fun e => if ks.contains e.1 then (e.1, f e.2) else e)

/-- Reading with a default. -/
def aget {α : Type} (d : α) (m : Assoc α) (k : Nat) : α := (afind m k).getD d

/-- Writing in the canonical form of a map with default d: the default itself is not listed. -/
def aset {α : Type} [DecidableEq α] (d : α) (m : Assoc α) (k : Nat) (x : α) : Assoc α :=
  if x = d then adel m k else aput m k x

/-- Keys of m all lie above k. -/
def aabove {α : Type} (k : Nat) : Assoc α → Bool
  | [] => true
  | (j, _) :: r => decide (k < j) && aabove k r

/-- The canonical form: keys strictly rising, no entry equal to the default. -/
def acanon {α : Type} [DecidableEq α] (d : α) : Assoc α → Bool
  | [] => true
  | (j, x) :: r => decide (x ≠ d) && aabove j r && acanon d r

/-- The members of a list, each once, in the order in which they first stand. -/
def firsts {α : Type} [DecidableEq α] (l : List α) : List α := l.foldl (fun m a => if m.contains a then m else m ++ [a]) []

/-! ## Records of State -/

/-- The slice of key k, if it exists. -/
def State.slice? (s : State) (k : Nat) : Option Slice := afind s.slices k

/-- A slice that is not there: all its registers are dead or zero and it has exited. -/
def Slice.absent : Slice :=
  { team := 0, idx := 0, v := [], s := [], k := [], active := 0, exited := 0, pc := 0, stack := [], fair := 0
    fairCount := 0, fpmode := 1, sticky := 0, farstat := 0, poison := 0, trapen := 0, timehi := none
    lfsr := ⟨1, 1, 1, 1⟩, fl := 0, fs := 0, cp := 0, tl := 0, acqHold := false, wait := none, gang := 0
    ahead := false, frame := none, bad := [], inflight := [], boundary := [], backoffLen := 64
    slive := none, done := true, lastIssue := 0, hw := HwSet.none, codeFence := 0, constFence := 0, granule := none, landings := [] }

/-- The slice of key k. -/
def State.sl (s : State) (k : Nat) : Slice := aget Slice.absent s.slices k

/-- The state with slice k changed by f; without such a slice nothing changes. -/
def State.modSl (s : State) (k : Nat) (f : Slice → Slice) : State := { s with slices := amod s.slices k f }

/-- The same change in each slice of a list. -/
def State.modSls (s : State) (ks : List Nat) (f : Slice → Slice) : State := { s with slices := amods s.slices ks f }

/-- A team that is not there. -/
def Team.absent : Team :=
  { part := 0, job := 0, gen := 0, grid := 0, index := 0, header := Header.zero, slices := [], spbase := 0
    splimit := 0, tiles := [], tokens := [], md := [], scaleValid := 0, trapvec := 0, prio := 0, pend := [], launchPrio := 0
    arrived := [], openSet := [], rgDue := [], wdCount := 0, since := 0, halting := false, landed := [] }

def State.tm (s : State) (t : Nat) : Team := aget Team.absent s.teams t

def State.modTm (s : State) (t : Nat) (f : Team → Team) : State := { s with teams := amod s.teams t f }

def State.co (s : State) (c : Nat) : Core := aget Core.reset s.cores c
def State.modCo (s : State) (c : Nat) (f : Core → Core) : State := { s with cores := aset Core.reset s.cores c (f (s.co c)) }
def State.cl (s : State) (c : Nat) : Cluster := aget Cluster.reset s.clusters c
def State.modCl (s : State) (c : Nat) (f : Cluster → Cluster) : State :=
  { s with clusters := aset Cluster.reset s.clusters c (f (s.cl c)) }
def State.di (s : State) (d : Nat) : Die := aget Die.reset s.dies d
def State.modDi (s : State) (d : Nat) (f : Die → Die) : State := { s with dies := aset Die.reset s.dies d (f (s.di d)) }
def State.pt (s : State) (p : Nat) : Part := aget Part.reset s.parts p
def State.modPt (s : State) (p : Nat) (f : Part → Part) : State := { s with parts := aset Part.reset s.parts p (f (s.pt p)) }
def State.po (s : State) (n : Nat) : Port := aget Port.reset s.ports n
def State.modPo (s : State) (n : Nat) (f : Port → Port) : State := { s with ports := aset Port.reset s.ports n (f (s.po n)) }
def State.ptp (s : State) (n : Nat) : PtpPort := aget PtpPort.reset s.ptpPorts n
def State.modPtp (s : State) (n : Nat) (f : PtpPort → PtpPort) : State :=
  { s with ptpPorts := aset PtpPort.reset s.ptpPorts n (f (s.ptp n)) }
def State.rg (s : State) (g : Nat) : RgGroup := aget RgGroup.reset s.rgGroups g
def State.modRg (s : State) (g : Nat) (f : RgGroup → RgGroup) : State :=
  { s with rgGroups := aset RgGroup.reset s.rgGroups g (f (s.rg g)) }

/-! ## Numbering -/

def coreOfSlice (k : Nat) : Nat := k / 64
def coreOfTeam (t : Nat) : Nat := t / 16
def slotOfTeam (t : Nat) : Nat := t % 16
def clusterOfCore (c : Nat) : Nat := c / 256
def dieOfCluster (c : Nat) : Nat := c / 2
def dieOfCore (c : Nat) : Nat := c / 512

/-- Global time in ns (R348). -/
def State.ns (s : State) : Nat := s.time / 65536
def State.nsWord (s : State) : DWord := BitVec.ofNat 64 s.ns

/-! ## Memory: one map from physical keys to bytes -/

def hbmKey (die pa : Nat) : Nat := die * 2 ^ 37 + pa
def coreKey (core off : Nat) : Nat := 2 ^ 40 + core * 2 ^ 19 + off
def clusterKey (cluster byte : Nat) : Nat := 2 ^ 41 + cluster * 2 ^ 25 + byte
def dieKey (die byte : Nat) : Nat := 2 ^ 41 + 2 ^ 30 + die * 2 ^ 25 + byte
def tileKey (core tile off : Nat) : Nat := 2 ^ 42 + core * 2 ^ 16 + tile * 4096 + off
def scaleKey (core unit off : Nat) : Nat := 2 ^ 42 + 2 ^ 29 + core * 2 ^ 13 + unit * 128 + off

/-- What an unlisted byte of any memory reads as: zero (DESIGN CHOICE, log entry 3). -/
def unlisted : Byte := 0

/-- The word that a poisoned word or a dead register reads as (R28, R43). -/
def poisonWord : Word := 0x7FC00001

/-- One stored byte, poison aside. -/
def State.rawByte (s : State) (key : Nat) : Byte := aget unlisted s.mem key

/-- Is the word that holds this byte poisoned (R292)? -/
def State.isPoisoned (s : State) (key : Nat) : Bool := (afind s.poisoned (key / 4)).isSome

/-- One byte as a reader finds it: a poisoned word reads as POISON_WORD (R292). -/
def State.byte (s : State) (key : Nat) : Byte :=
  if s.isPoisoned key then poisonWord.extractLsb' (8 * (key % 4)) 8 else s.rawByte key

/-- n bytes from a key on. -/
def State.bytes (s : State) (key n : Nat) : List Byte := (List.range n).map (fun i => s.byte (key + i))

/-- Little-endian value of bytes (R5). -/
def leNat : List Byte → Nat
  | [] => 0
  | b :: r => b.toNat + 256 * leNat r

/-- The n low bytes of a number, low byte first (R5). -/
def natLe (n x : Nat) : List Byte := (List.range n).map (fun i => BitVec.ofNat 8 (x / 256 ^ i))

/-- A number as n bytes, most significant first. -/
def natBe (n x : Nat) : List Byte := (List.range n).map (fun i => BitVec.ofNat 8 (x / 256 ^ (n - 1 - i)))

/-- The value of n bytes as a number. -/
def State.num (s : State) (key n : Nat) : Nat := leNat (s.bytes key n)

def State.word (s : State) (key : Nat) : Word := BitVec.ofNat 32 (s.num key 4)

/-- Bytes written from a key on, poison aside. -/
def putBytes (m : List Host.Cell) (key : Nat) : List Byte → List Host.Cell
  | [] => m
  | b :: r => putBytes (aset unlisted m key b) (key + 1) r

/-- Words 4w to 4w+3 wholly inside [key, key + n). -/
def wholeWords (key n : Nat) : List Nat :=
  ((List.range (n / 4 + 1)).map (fun i => (key + 3) / 4 + i)).filter (fun w => decide (4 * w + 4 ≤ key + n))

/-- The words of HBM that a write of n bytes at a key replaces, as a fetch would find them (R60, R302). -/
def State.oldWords (s : State) (key n : Nat) : List (Nat × Nat × Word) :=
  if 2 ^ 40 ≤ key then []
  else (List.range ((key + n + 3) / 4 - key / 4)).map (fun i => (s.writeNo, key / 4 + i, s.word (4 * (key / 4 + i))))

/-- One access writes bytes: a word written whole is no longer poisoned, a word written in part stays so (R292). -/
def State.putMem (s : State) (key : Nat) (bs : List Byte) : State :=
  { s with
    mem := putBytes s.mem key bs
    overwritten := s.oldWords key bs.length ++ s.overwritten
    writeNo := if key < 2 ^ 40 then s.writeNo + 1 else s.writeNo
    poisoned := if s.poisoned = [] then [] else (wholeWords key bs.length).foldl adel s.poisoned }

def State.dword (s : State) (key : Nat) : DWord := BitVec.ofNat 64 (s.num key 8)
def State.putWord (s : State) (key : Nat) (w : Word) : State := s.putMem key (natLe 4 w.toNat)
def State.putDword (s : State) (key : Nat) (w : DWord) : State := s.putMem key (natLe 8 w.toNat)

/-- The words of [key, key + n) whose poison has not yet been reported. -/
def State.unreported (s : State) (key n : Nat) : List Nat :=
  if s.poisoned = [] then [] else
    ((List.range ((n + 6) / 4)).map (fun i => key / 4 + i)).filter (fun w => decide (4 * w < key + n) && afind s.poisoned w == some true)

/-- The canonical form of the memory (log entry 3). -/
def Memory.wf (m : List Host.Cell) : Bool := acanon unlisted m

/-- A number at a byte offset of a captured structure, n bytes little-endian. -/
def field (bs : List Byte) (off n : Nat) : Nat := leNat ((bs.drop off).take n)

def fieldW (bs : List Byte) (off : Nat) : Word := BitVec.ofNat 32 (field bs off 4)
def fieldD (bs : List Byte) (off : Nat) : DWord := BitVec.ofNat 64 (field bs off 8)

end Sys2Proof.Machine
end

