-- ==== Sys2Proof/Machine/Crypto.lean ====
section
/-! DEFINITION. The digest and the signatures of images and attestation reports (spec R395, R396): SHA-384, and ECDSA on the curve
brainpoolP384r1. The specification names both standards; their constants are PRESUMED (log entry 18). -/

namespace Sys2Proof.Machine

open Sys2Proof

/-! ## SHA-384 -/

/-- A 64-bit word rotated right. -/
def rotWord (x n : Nat) : Nat := Nat.lor (x / 2 ^ n) (x * 2 ^ (64 - n) % 2 ^ 64)

def shaRounds0 : List Nat :=
  [ 0x428A2F98D728AE22, 0x7137449123EF65CD, 0xB5C0FBCFEC4D3B2F, 0xE9B5DBA58189DBBC,
    0x3956C25BF348B538, 0x59F111F1B605D019, 0x923F82A4AF194F9B, 0xAB1C5ED5DA6D8118,
    0xD807AA98A3030242, 0x12835B0145706FBE, 0x243185BE4EE4B28C, 0x550C7DC3D5FFB4E2,
    0x72BE5D74F27B896F, 0x80DEB1FE3B1696B1, 0x9BDC06A725C71235, 0xC19BF174CF692694 ]

def shaRounds1 : List Nat :=
  [ 0xE49B69C19EF14AD2, 0xEFBE4786384F25E3, 0x0FC19DC68B8CD5B5, 0x240CA1CC77AC9C65,
    0x2DE92C6F592B0275, 0x4A7484AA6EA6E483, 0x5CB0A9DCBD41FBD4, 0x76F988DA831153B5,
    0x983E5152EE66DFAB, 0xA831C66D2DB43210, 0xB00327C898FB213F, 0xBF597FC7BEEF0EE4,
    0xC6E00BF33DA88FC2, 0xD5A79147930AA725, 0x06CA6351E003826F, 0x142929670A0E6E70 ]

def shaRounds2 : List Nat :=
  [ 0x27B70A8546D22FFC, 0x2E1B21385C26C926, 0x4D2C6DFC5AC42AED, 0x53380D139D95B3DF,
    0x650A73548BAF63DE, 0x766A0ABB3C77B2A8, 0x81C2C92E47EDAEE6, 0x92722C851482353B,
    0xA2BFE8A14CF10364, 0xA81A664BBC423001, 0xC24B8B70D0F89791, 0xC76C51A30654BE30,
    0xD192E819D6EF5218, 0xD69906245565A910, 0xF40E35855771202A, 0x106AA07032BBD1B8 ]

def shaRounds3 : List Nat :=
  [ 0x19A4C116B8D2D0C8, 0x1E376C085141AB53, 0x2748774CDF8EEB99, 0x34B0BCB5E19B48A8,
    0x391C0CB3C5C95A63, 0x4ED8AA4AE3418ACB, 0x5B9CCA4F7763E373, 0x682E6FF3D6B2B8A3,
    0x748F82EE5DEFB2FC, 0x78A5636F43172F60, 0x84C87814A1F0AB72, 0x8CC702081A6439EC,
    0x90BEFFFA23631E28, 0xA4506CEBDE82BDE9, 0xBEF9A3F7B2C67915, 0xC67178F2E372532B ]

def shaRounds4 : List Nat :=
  [ 0xCA273ECEEA26619C, 0xD186B8C721C0C207, 0xEADA7DD6CDE0EB1E, 0xF57D4F7FEE6ED178,
    0x06F067AA72176FBA, 0x0A637DC5A2C898A6, 0x113F9804BEF90DAE, 0x1B710B35131C471B,
    0x28DB77F523047D84, 0x32CAAB7B40C72493, 0x3C9EBE0A15C9BEBC, 0x431D67C49C100D4C,
    0x4CC5D4BECB3E42B6, 0x597F299CFC657E2A, 0x5FCB6FAB3AD6FAEC, 0x6C44198C4A475817 ]

/-- The round constants. -/
def shaRounds : List Nat := shaRounds0 ++ shaRounds1 ++ shaRounds2 ++ shaRounds3 ++ shaRounds4

/-- The initial hash value. -/
def shaStart : List Nat :=
  [ 0xCBBB9D5DC1059ED8, 0x629A292A367CD507, 0x9159015A3070DD17, 0x152FECD8F70E5939,
    0x67332667FFC00B31, 0x8EB44A8768581511, 0xDB0C2E0D64F98FA7, 0x47B5481DBEFA4FA4 ]

/-- The message schedule continued by so many words, the newest first. -/
def shaSchedule : Nat → List Nat → List Nat
  | 0, w => w
  | n + 1, w =>
    let x := w.getD 14 0
    let y := w.getD 1 0
    shaSchedule n (((w.getD 15 0 + Nat.xor (Nat.xor (rotWord x 1) (rotWord x 8)) (x / 2 ^ 7) + w.getD 6 0 +
      Nat.xor (Nat.xor (rotWord y 19) (rotWord y 61)) (y / 2 ^ 6)) % 2 ^ 64) :: w)

/-- One round on the working words a to h, with its constant and its word of the schedule. -/
def shaRound (v : List Nat) (k : Nat × Nat) : List Nat :=
  match v with
  | [a, b, c, d, e, f, g, h] =>
    let t1 := h + Nat.xor (Nat.xor (rotWord e 14) (rotWord e 18)) (rotWord e 41) +
      Nat.xor (Nat.land e f) (Nat.land (2 ^ 64 - 1 - e) g) + k.1 + k.2
    let t2 := Nat.xor (Nat.xor (rotWord a 28) (rotWord a 34)) (rotWord a 39) +
      Nat.xor (Nat.xor (Nat.land a b) (Nat.land a c)) (Nat.land b c)
    [(t1 + t2) % 2 ^ 64, a, b, c, (d + t1) % 2 ^ 64, e, f, g]
  | _ => v

/-- One block of 128 bytes, as its 16 words. -/
def shaBlock (h ws : List Nat) : List Nat :=
  (h.zip ((shaRounds.zip (shaSchedule 64 ws.reverse).reverse).foldl shaRound h)).map (fun e => (e.1 + e.2) % 2 ^ 64)

/-- The number that bytes are, the first one highest. -/
def beNat (bs : List Byte) : Nat := bs.foldl (fun n b => 256 * n + b.toNat) 0

/-- The message with its padding: a one bit, zeros, and its length in bits in 16 bytes. -/
def shaPadded (m : List Byte) : List Byte :=
  m ++ [0x80] ++ List.replicate ((239 - m.length % 128) % 128) 0 ++ natBe 16 (8 * m.length)

/-- The hash value after all blocks; fuel is their number. -/
def shaBlocks : Nat → List Nat → List Byte → List Nat
  | 0, h, _ => h
  | n + 1, h, m =>
    if m = [] then h
    else shaBlocks n (shaBlock h ((List.range 16).map (fun i => beNat ((m.drop (8 * i)).take 8)))) (m.drop 128)

/-- The SHA-384 digest of bytes as a number, its first byte highest. -/
def sha384 (m : List Byte) : Nat :=
  ((shaBlocks (m.length / 128 + 2) shaStart (shaPadded m)).take 6).foldl (fun n w => 2 ^ 64 * n + w) 0

/-! ## The curve -/

/-- The field's prime, the coefficients, the base point and its order. -/
def curveP : Nat :=
  0x8CB91E82A3386D280F5D6F7E50E641DF152F7109ED5456B412B1DA197FB71123ACD3A729901D1A71874700133107EC53
def curveA : Nat :=
  0x7BC382C63D8C150C3C72080ACE05AFA0C2BEA28E4FB22787139165EFBA91F90F8AA5814A503AD4EB04A8C7DD22CE2826
def curveB : Nat :=
  0x04A8C7DD22CE28268B39B55416F0447C2FB77DE107DCD2A62E880EA53EEB62D57CB4390295DBC9943AB78696FA504C11
def curveX : Nat :=
  0x1D1C64F068CF45FFA2A63A81B7C13F6B8847A3E77EF14FE3DB7FCAFE0CBD10E8E826E03436D646AAEF87B2E247D4AF1E
def curveY : Nat :=
  0x8ABE1D7520F9C2A45CB1EB8E95CFD55262B70B29FEEC5864E19C054FF99129280E4646217791811142820341263C5315
def curveQ : Nat :=
  0x8CB91E82A3386D280F5D6F7E50E641DF152F7109ED5456B31F166E6CAC0425A7CF3AB6AF6B7FC3103B883202E9046565

/-- A power modulo m, over so many bits of the exponent. -/
def powMod (m : Nat) : Nat → Nat → Nat → Nat → Nat
  | 0, _, _, acc => acc
  | n + 1, b, e, acc => powMod m n (b * b % m) (e / 2) (if e % 2 = 1 then acc * b % m else acc)

/-- The inverse modulo a prime of 384 bits. -/
def invMod (m x : Nat) : Nat := powMod m 384 (x % m) (m - 2) 1

/-- A point in projective coordinates; Z is 0 at the neutral point. -/
structure CurvePoint where
  x : Nat
  y : Nat
  z : Nat
  deriving DecidableEq, Repr

def CurvePoint.zero : CurvePoint := ⟨0, 1, 0⟩
def CurvePoint.base : CurvePoint := ⟨curveX, curveY, 1⟩

/-- Does the point lie on the curve, given in affine form? -/
def CurvePoint.on (p : CurvePoint) : Bool :=
  decide (p.x < curveP ∧ p.y < curveP ∧ p.y * p.y % curveP = (p.x * p.x * p.x + curveA * p.x + curveB) % curveP)

/-- The sum of two points; the same formula doubles a point, the order being odd. -/
def CurvePoint.add (p q : CurvePoint) : CurvePoint :=
  let m (x : Nat) : Nat := x % curveP
  let sub (x y : Nat) : Nat := x + curveP - y
  let xx := m (p.x * q.x)
  let yy := m (p.y * q.y)
  let zz := m (p.z * q.z)
  let xy := m (p.x * q.y + q.x * p.y)
  let xz := m (p.x * q.z + q.x * p.z)
  let yz := m (p.y * q.z + q.y * p.z)
  let u := m (curveA * xz + 3 * curveB * zz)
  let v := m (sub (curveA * xx + 3 * curveB * xz) (m (curveA * m (curveA * zz))))
  let w := m (3 * xx + curveA * zz)
  let lo := m (sub yy u)
  let hi := m (yy + u)
  ⟨m (sub (xy * lo) (m (yz * v))), m (hi * lo + w * v), m (yz * hi + xy * w)⟩

/-- A multiple of a point, over so many bits of the factor. -/
def CurvePoint.times : Nat → Nat → CurvePoint → CurvePoint → CurvePoint
  | 0, _, _, acc => acc
  | n + 1, k, p, acc => CurvePoint.times n (k / 2) (p.add p) (if k % 2 = 1 then acc.add p else acc)

def CurvePoint.mul (p : CurvePoint) (k : Nat) : CurvePoint := CurvePoint.times 384 k p CurvePoint.zero

/-- Its affine form. -/
def CurvePoint.affine (p : CurvePoint) : CurvePoint :=
  let i := invMod curveP p.z
  ⟨p.x * i % curveP, p.y * i % curveP, 1⟩

/-! ## ECDSA -/

/-- A signature of 48 bytes each. -/
structure Signature where
  r : BitVec 384
  s : BitVec 384
  deriving DecidableEq, Repr

/-- Does a signature of a digest hold for a public key? -/
def ecdsaHolds (key : CurvePoint) (digest : Nat) (g : Signature) : Bool :=
  let r := g.r.toNat
  let s := g.s.toNat
  let i := invMod curveQ s
  let p := (CurvePoint.base.mul (digest * i % curveQ)).add (key.mul (r * i % curveQ))
  decide (0 < r ∧ r < curveQ ∧ 0 < s ∧ s < curveQ) && key.on && decide (p.z % curveP ≠ 0) && decide (p.affine.x % curveQ = r)

/-- The signature of a digest with a private key and a secret number. -/
def ecdsaSign (secret digest k : Nat) : Signature :=
  let r := (CurvePoint.base.mul (k % curveQ)).affine.x % curveQ
  ⟨BitVec.ofNat 384 r, BitVec.ofNat 384 (invMod curveQ (k % curveQ) * (digest + r * secret) % curveQ)⟩

/-- A public key as the 96 bytes of its coordinates. -/
def CurvePoint.bytes (p : CurvePoint) : List Byte := natBe 48 p.x ++ natBe 48 p.y

end Sys2Proof.Machine
end

