-- ==== Sys2Proof/WellFormed.lean ====
section
/-! DEFINITION. Legality of an encoding (spec R62 to R72): for each long instruction the rule that its
chapter gives its fields, the checks 2 to 6 of R72 in order, and WellFormed. -/

namespace Sys2Proof

/-- Registers or words of an operand of this element type: pairs under I64 and F64 (R12, R66). -/
def Ty.regs : Ty → Nat
  | .i64 | .f64 => 2
  | _ => 1

/-- What VD names (R67). -/
inductive VdRule where
  | none
  | v (regs : Nat)
  | s (regs : Nat)
  | k
  deriving DecidableEq, Repr

/-- What an operand position accepts: its kinds (empty when the instruction does not use it) and how
many words it holds (R64). -/
structure OpRule where
  kinds : List Kind := []
  regs : Nat := 1
  deriving DecidableEq, Repr

/-- The field rule of a long instruction. `ext8Resv` and `ext8bResv` mark reserved bits; a selector value
outside `xws`, or a false `selOk`, fails check 3. A field whose use hangs on a selector that itself fails is
not counted as reserved; a field reserved under every value of the selector is (DEDUCED, log entry 12). -/
structure LongRule where
  tys : Option (List Ty) := none
  rm : Bool := false
  sat : Bool := false
  xwSel : Bool := false
  xws : List (BitVec 2) := [0]
  ext8Resv : BitVec 8 := 0xFF#8
  ext8bResv : BitVec 8 := 0xFF#8
  selOk : Bool := true
  vd : VdRule := .v 1
  vdSrc : Bool := false
  a : OpRule := {}
  b : OpRule := {}
  c : OpRule := {}
  d : OpRule := {}
  flags : Bool := true
  deriving DecidableEq, Repr

def anyK : List Kind := [.v, .s, .cb, .imm]
def regK : List Kind := [.v, .s, .cb]
def scalK : List Kind := [.s, .cb, .imm]
def scK : List Kind := [.s, .cb]

def tysArith : List Ty := [.i32, .n32, .i16x2, .n16x2, .i8x4, .n8x4, .i64]
def tysMul : List Ty := [.i32, .n32, .i16x2, .n16x2, .i8x4, .n8x4]
def tysBits : List Ty := [.b32, .i32, .n32, .i64]
def tysShift : List Ty := [.b32, .i32, .n32, .i16x2, .n16x2, .i8x4, .n8x4, .i64]
def tysFloat : List Ty := [.f32, .f16x2, .bf16x2, .f64]

/-- Two element-wise sources (R83, R85, R110, R111). -/
def rule2 (tys : List Ty) (f : Long) : LongRule :=
  { tys := some tys, vd := .v f.ty.regs, a := ⟨anyK, f.ty.regs⟩, b := ⟨anyK, f.ty.regs⟩ }

/-- One element-wise source (R83, R112). -/
def rule1 (tys : List Ty) (f : Long) : LongRule :=
  { tys := some tys, vd := .v f.ty.regs, a := ⟨anyK, f.ty.regs⟩ }

/-- Three element-wise sources; C is never an immediate (R65). -/
def rule3 (tys : List Ty) (f : Long) : LongRule :=
  { rule2 tys f with c := ⟨regK, f.ty.regs⟩ }

/-- The shifts of R86: B is always one word. -/
def ruleShift (f : Long) : LongRule :=
  { rule2 tysShift f with b := ⟨anyK, 1⟩ }

/-- The type code in the low four bits of EXT8 (R117, R119, R120, R121). -/
def tyOfCode (c : BitVec 4) : Ty :=
  match c.toNat with
  | 0 => .b32 | 1 => .i32 | 2 => .n32 | 3 => .i16x2 | 4 => .n16x2 | 5 => .i8x4 | 6 => .n8x4 | 7 => .i64
  | 8 => .f32 | 9 => .f16x2 | 10 => .bf16x2 | 11 => .f64 | 12 => .e4m3x4 | 13 => .e5m2x4 | 14 => .e2m1x8
  | _ => .i4x8

/-- The code of a type (R66). -/
def Ty.code : Ty → BitVec 4
  | .b32 => 0 | .i32 => 1 | .n32 => 2 | .i16x2 => 3 | .n16x2 => 4 | .i8x4 => 5 | .n8x4 => 6 | .i64 => 7
  | .f32 => 8 | .f16x2 => 9 | .bf16x2 => 10 | .f64 => 11 | .e4m3x4 => 12 | .e5m2x4 => 13 | .e2m1x8 => 14
  | .i4x8 => 15

/-- Is the type a floating one (R36, R66)? -/
def Ty.isFloat : Ty → Bool
  | .f32 | .f16x2 | .bf16x2 | .f64 | .e4m3x4 | .e5m2x4 | .e2m1x8 => true
  | _ => false

/-- Elements in a word, or in a pair for the 64-bit types (R36). -/
def Ty.count : Ty → Nat
  | .i16x2 | .n16x2 | .f16x2 | .bf16x2 => 2
  | .i8x4 | .n8x4 | .e4m3x4 | .e5m2x4 => 4
  | .e2m1x8 | .i4x8 => 8
  | _ => 1

/-- The source type of a conversion, in EXT8 [3:0]. -/
def Long.sty (f : Long) : Ty := tyOfCode (f.ext8.extractLsb' 0 4)

/-- The rows of R118 that decide RM and SAT. -/
inductive CvtRow where
  | same | exact | toFloat | toInt | intInt
  deriving DecidableEq, Repr

/-- The row of R118 for a source and destination element type. -/
def cvtRow (sty dty : Ty) : CvtRow :=
  if sty = dty then .same
  else if dty = .f64 ∧ (sty = .f32 ∨ sty = .i32 ∨ sty = .n32) then .exact
  else if dty = .f32 ∧ sty.count > 1 then .exact
  else if dty.isFloat then .toFloat
  else if sty.isFloat then .toInt
  else .intInt

/-- The four conversion groups of R117; B32 is in none. -/
def cvtGroup : Ty → Nat
  | .i32 | .n32 | .f32 | .i64 | .f64 => 1
  | .i16x2 | .n16x2 | .f16x2 | .bf16x2 => 2
  | .i8x4 | .n8x4 | .e4m3x4 | .e5m2x4 => 3
  | .i4x8 | .e2m1x8 => 4
  | .b32 => 0

def rowRm (r : CvtRow) : Bool := decide (r = .toFloat ∨ r = .toInt)
def rowSat (r : CvtRow) : Bool := decide (r = .intInt)

/-- CVT (R117, R118). Outside the groups RM and SAT are left to check 3. -/
def ruleCvt (f : Long) : LongRule :=
  let ok := decide (cvtGroup f.sty = cvtGroup f.ty ∧ cvtGroup f.ty ≠ 0)
  let r := cvtRow f.sty f.ty
  { tys := some [.i32, .n32, .f32, .i64, .f64, .i16x2, .n16x2, .f16x2, .bf16x2, .i8x4, .n8x4, .e4m3x4,
      .e5m2x4, .i4x8, .e2m1x8],
    rm := !ok || rowRm r, sat := !ok || rowSat r, ext8Resv := 0xF0#8, selOk := ok,
    vd := .v f.ty.regs, a := ⟨anyK, f.sty.regs⟩ }

def packTys : List Ty :=
  [.i16x2, .n16x2, .f16x2, .bf16x2, .i8x4, .n8x4, .e4m3x4, .e5m2x4, .i4x8, .e2m1x8]

/-- The packed type and the 32-bit type of PACK and UNPACK fix the row of R118. -/
def wordTys : List Ty := [.f32, .i32, .n32]

/-- PACK (R119). -/
def rulePack (f : Long) : LongRule :=
  let types := decide (f.sty ∈ wordTys ∧ f.ty ∈ packTys)
  let r := cvtRow f.sty f.ty
  { tys := some packTys, rm := !types || rowRm r, sat := !types || rowSat r, ext8Resv := 0xC0#8,
    selOk := types && decide (2 * (f.ext8.extractLsb' 4 2).toNat + 1 < f.ty.count),
    vdSrc := decide (f.ty.count > 2), a := ⟨anyK, 1⟩, b := ⟨anyK, 1⟩ }

/-- UNPACK (R120). -/
def ruleUnpack (f : Long) : LongRule :=
  let types := decide (f.sty ∈ packTys ∧ f.ty ∈ wordTys)
  let r := cvtRow f.sty f.ty
  { tys := some wordTys, rm := !types || rowRm r, sat := !types || rowSat r, ext8Resv := 0x80#8,
    selOk := types && decide ((f.ext8.extractLsb' 4 3).toNat < f.sty.count),
    a := ⟨anyK, 1⟩ }

/-- DOT2, DOT4, DOT8 (R128). -/
def ruleDot (tys : List Ty) (xws : List (BitVec 2)) (f : Long) : LongRule :=
  { tys := some tys, rm := f.ty.isFloat || decide (f.ty ∉ tys), sat := !f.ty.isFloat || decide (f.ty ∉ tys), xwSel := true, xws := xws,
    a := ⟨anyK, 1⟩, b := ⟨anyK, 1⟩, c := ⟨regK, 1⟩ }

/-- The width in bytes that SIZE names (R159). -/
def sizeBytes (s : BitVec 3) : Nat :=
  match s.toNat with
  | 0 | 1 => 1
  | 2 | 3 => 2
  | 4 => 4
  | 5 => 8
  | _ => 16

/-- The registers that SIZE names (R159). -/
def sizeRegs (s : BitVec 3) : Nat :=
  match s.toNat with
  | 5 => 2
  | 6 => 4
  | _ => 1

def Long.size (f : Long) : BitVec 3 := f.ext8.extractLsb' 0 3
def Long.ldScope (f : Long) : BitVec 3 := f.ext8.extractLsb' 3 3
def Long.atomOp (f : Long) : BitVec 4 := f.ext8.extractLsb' 0 4
def Long.atomScope (f : Long) : BitVec 3 := f.ext8.extractLsb' 4 3

/-- SCOPE is zero when ORD is plain and never 7 (R159). -/
def scopeOk (xw : BitVec 2) (scope : BitVec 3) : Bool :=
  decide (scope ≠ 7) && (decide (xw ≠ 0) || decide (scope = 0))

/-- LD and FLD (R159, R160, R167). -/
def ruleLoad (base : OpRule) (f : Long) : LongRule :=
  { xwSel := true, xws := [0, 1], ext8Resv := 0xC0#8, ext8bResv := 0,
    selOk := decide (f.size ≠ 7) && scopeOk f.xw f.ldScope, vd := .v (sizeRegs f.size), a := base }

/-- ST and FST (R159, R161, R167). -/
def ruleStore (base : OpRule) (f : Long) : LongRule :=
  { xwSel := true, xws := [0, 2], ext8Resv := 0xC0#8, ext8bResv := 0,
    selOk := decide (f.size ≠ 7 ∧ f.size ≠ 1 ∧ f.size ≠ 3) && scopeOk f.xw f.ldScope, vd := .none, a := base,
    b := ⟨if f.size = 5 ∨ f.size = 6 then regK else anyK, sizeRegs f.size⟩ }

/-- The types that OP of an atomic accepts (R162). -/
def atomTys (op : BitVec 4) : List Ty :=
  match op.toNat with
  | 0 => [.i32, .n32, .i64, .f32]
  | 1 | 2 => [.i32, .n32, .i64]
  | 3 | 4 | 5 | 6 | 7 => [.b32, .i64]
  | 8 => [.n32]
  | _ => []

/-- ATOM, ATOM.cas and FATOM (R162, R167). -/
def ruleAtom (base : OpRule) (cas : Bool) (opOk : Bool) (f : Long) : LongRule :=
  { tys := some (atomTys f.atomOp), xwSel := true, xws := [0, 1, 2, 3], ext8Resv := 0x80#8, ext8bResv := 0,
    selOk := opOk && scopeOk f.xw f.atomScope, vd := .v f.ty.regs, a := base, b := ⟨anyK, f.ty.regs⟩,
    c := if cas || decide (8 < f.atomOp.toNat) then ⟨regK, f.ty.regs⟩ else {} }

/-- REDUCE and SCAN (R154). -/
def ruleReduce (scan : Bool) (f : Long) : LongRule :=
  let op := (f.ext8.extractLsb' 0 3).toNat
  let combo : Bool := match f.ty with
    | .b32 => decide (op = 0 ∨ op = 3 ∨ op = 4 ∨ op = 5)
    | .i32 | .n32 | .f32 => decide (op ≤ 2)
    | _ => false
  let addF := decide (f.ty = .f32 ∧ op = 0)
  { tys := some [.b32, .i32, .n32, .f32], rm := addF || !combo,
    sat := !combo || decide (op = 0 ∧ f.ty ≠ .f32), xwSel := scan, xws := if scan then [0, 1] else [0], ext8Resv := 0xF8#8,
    selOk := combo && !(decide (f.ty = .b32) && f.sat) && !(addF && decide (f.rm = 5)), a := ⟨anyK, 1⟩ }

/-- The rule of a long instruction with its fields; `none` for every other instruction. -/
def longRule : Instr → Option (Long × LongRule)
  | .iadd f | .isub f => some (f, { rule2 tysArith f with sat := true })
  | .imul f => some (f, { rule2 tysMul f with sat := true })
  | .imulh f => some (f, rule2 tysMul f)
  | .imad f => some (f, { rule3 tysMul f with sat := true })
  | .imadw f => some (f, { tys := some [.i32, .n32], vd := .v 2, a := ⟨anyK, 1⟩, b := ⟨anyK, 1⟩, c := ⟨regK, 2⟩ })
  | .imin f | .imax f => some (f, rule2 tysArith f)
  | .iabs f => some (f, { rule1 [.i32, .i16x2, .i8x4] f with sat := true })
  | .iand f | .ior f | .ixor f | .iandn f => some (f, rule2 tysBits f)
  | .ishl f | .ishr f | .isra f | .irot f => some (f, ruleShift f)
  | .ipopc f | .iclz f => some (f, { rule1 tysShift f with vd := .v 1 })
  | .ibrev f => some (f, rule1 tysShift f)
  | .ibfx f => some (f, rule2 [.n32, .i32] f)
  | .ibfi f => some (f, { rule2 [.b32] f with vdSrc := true })
  | .iperm f => some (f, rule3 [.b32] f)
  | .icmp f => some (f, { rule2 [.i32, .n32, .i64] f with
      vd := .k, ext8Resv := 0xE0#8,
      selOk := decide ((f.ext8.extractLsb' 0 3).toNat < 6 ∧ (f.ext8.extractLsb' 3 2).toNat < 3) })
  | .isad f => some (f, { rule3 [.i8x4, .n8x4, .i16x2, .n16x2, .i32, .n32] f with sat := true })
  | .iadd64 f => some (f, { tys := some [.i32, .n32], vd := .v 2, a := ⟨regK, 2⟩, b := ⟨anyK, 1⟩ })
  | .mov f => some (f, rule1 [.b32, .i64] f)
  | .movi f => some (f, { rule1 [.b32, .f32, .f16x2, .bf16x2, .i64, .f64] f with
      a := ⟨[.imm], f.ty.regs⟩, ext8Resv := 0,
      selOk := decide (f.ext8 = 0 ∨ f.ty = .b32 ∨ f.ty = .i64) })
  | .sel f => some (f, { rule2 [.b32, .i64] f with ext8Resv := 0xF8#8 })
  | .movs f => some (f, { rule1 [.b32, .i64] f with vd := .s f.ty.regs, a := ⟨scalK, f.ty.regs⟩ })
  | .movkToMask f => some (f, {
      xwSel := true, xws := [0], vd := .k, a := ⟨anyK, 1⟩, ext8Resv := (if f.xw = 0 then 0xFF#8 else 0xF8#8) })
  | .movkToVector f => some (f, { xwSel := true, xws := [1], ext8Resv := 0xF8#8 })
  | .vtos f => some (f, { rule1 [.b32, .i64] f with
      xwSel := true, xws := [0], vd := .s f.ty.regs, a := ⟨[.v], f.ty.regs⟩, ext8Resv := 0xFC#8 })
  | .vtosFirst f => some (f, { rule1 [.b32, .i64] f with
      xwSel := true, xws := [1], vd := .s f.ty.regs, a := ⟨[.v], f.ty.regs⟩ })
  | .fadd f | .fsub f | .fmul f => some (f, { rule2 tysFloat f with rm := true, sat := true })
  | .ffma f => some (f, { rule3 tysFloat f with rm := true, sat := true })
  | .fmin f | .fmax f => some (f, rule2 tysFloat f)
  | .fneg f | .fabs f | .ffrac f => some (f, rule1 tysFloat f)
  | .fcmp f => some (f, { rule2 tysFloat f with
      vd := .k, ext8Resv := 0xE0#8, xwSel := decide (f.ty.count = 2 ∨ f.ty ∉ tysFloat),
      xws := if f.ty.count = 2 then [0, 1, 2, 3] else [0], selOk := decide ((f.ext8.extractLsb' 3 2).toNat < 3) })
  | .fclass f | .fgetexp f => some (f, { rule1 tysFloat f with vd := .v 1 })
  | .frnd f => some (f, { rule1 tysFloat f with rm := true })
  | .fldexp f => some (f, { rule2 tysFloat f with rm := true, b := ⟨anyK, 1⟩ })
  | .cvt f => some (f, ruleCvt f)
  | .pack f => some (f, rulePack f)
  | .unpack f => some (f, ruleUnpack f)
  | .scaleFit f => some (f, { rule1 [.f32] f with
      xwSel := true, xws := [0], ext8Resv := 0xC0#8, vdSrc := true,
      rm := decide (f.xw ≠ 0), b := if f.xw = 0 then {} else ⟨anyK, 1⟩,
      selOk := decide (f.sty ∈ [Ty.e4m3x4, Ty.e5m2x4, Ty.e2m1x8]) })
  | .scaleApply f => some (f, { rule2 [.f32, .f16x2, .bf16x2] f with
      xwSel := true, xws := [1], rm := true, ext8Resv := 0xFC#8 })
  | .rcp f | .rsq f | .sqrt f => some (f, { rule1 tysFloat f with rm := true })
  | .exp2 f | .log2 f | .sinpi f | .cospi f => some (f, rule1 [.f32] f)
  | .dot2 f => some (f, ruleDot [.f16x2, .bf16x2, .i16x2, .n16x2] [0] f)
  | .dot4 f => some (f, ruleDot [.e4m3x4, .e5m2x4, .i8x4, .n8x4] [0, 1] f)
  | .dot8 f => some (f, ruleDot [.e2m1x8, .i4x8] [0] f)
  | .laneid f => some (f, { xwSel := true, xws := [0, 1, 2] })
  | .plane f => some (f, {})
  | .shfl f => some (f, {
      tys := some [.b32, .i64], vd := .v f.ty.regs, xwSel := true, xws := [0, 1, 2],
      ext8Resv := 0xF8#8, a := ⟨[.v], f.ty.regs⟩, b := ⟨anyK, 1⟩ })
  | .shflx f => some (f, { tys := some [.b32, .i64], vd := .v f.ty.regs, ext8Resv := 0xC0#8, a := ⟨[.v], f.ty.regs⟩ })
  | .bcast f => some (f, {
      tys := some [.b32, .i64], vd := .v f.ty.regs, xwSel := true, xws := [0],
      ext8Resv := 0xE0#8, a := ⟨anyK, f.ty.regs⟩ })
  | .bcastFirst f => some (f, {
      tys := some [.b32, .i64], vd := .v f.ty.regs, xwSel := true, xws := [1],
      a := ⟨anyK, f.ty.regs⟩ })
  | .vote f => some (f, {
      xwSel := true, xws := [0, 1, 2, 3], vd := (if f.xw = 3 then .k else .v 1),
      ext8Resv := (if f.xw = 3 then 0xC0#8 else 0xF8#8),
      selOk := decide (f.xw ≠ 3 ∨ (f.ext8.extractLsb' 3 3).toNat < 5) })
  | .reduce f => some (f, ruleReduce false f)
  | .scan f => some (f, ruleReduce true f)
  | .ld f => some (f, ruleLoad ⟨anyK, 1⟩ f)
  | .st f => some (f, ruleStore ⟨anyK, 1⟩ f)
  | .atom f => some (f, ruleAtom ⟨anyK, 1⟩ false (decide (f.atomOp ≠ 7)) f)
  | .atomCas f => some (f, ruleAtom ⟨anyK, 1⟩ true (decide (f.atomOp = 7)) f)
  | .fld f => some (f, ruleLoad ⟨regK, 2⟩ f)
  | .fst f => some (f, ruleStore ⟨regK, 2⟩ f)
  | .fatom f => some (f, ruleAtom ⟨regK, 2⟩ (decide (f.atomOp = 7)) true f)
  | .tld f | .tst f | .ttrans f => some (f, {
      vd := .none, a := ⟨scalK, 1⟩, b := ⟨scalK, 1⟩, ext8Resv := 0xF0#8,
      flags := false })
  | .mma f | .mmas f => some (f, { vd := .none, a := ⟨scalK, 1⟩, ext8Resv := 0, flags := false })
  | .afill f => some (f, { vd := .none, a := ⟨scalK, 1⟩, b := ⟨scalK, 1⟩, ext8Resv := 0xE0#8, flags := false })
  | .mmag f => some (f, {
      vd := .none, xwSel := true, xws := [0], a := ⟨scK, 1⟩, b := ⟨scK, 1⟩, c := ⟨scK, 1⟩,
      ext8Resv := 0, ext8bResv := 0xF0#8, flags := false })
  | .mmagNolocal f => some (f, {
      vd := .none, xwSel := true, xws := [1], b := ⟨scK, 1⟩, c := ⟨scK, 1⟩,
      ext8Resv := 0x0F#8, ext8bResv := 0xF0#8, flags := false })
  | _ => none

/-- The zero operand field (R64). -/
def Opnd.zero : Opnd := ⟨.v, false, false, 0⟩

/-- Operands C and D; zero fields when granule 2 is IMM32 (R65: they do not exist). -/
def Long.c (f : Long) : Opnd := match f.g2 with | .cd c _ _ => c | .imm _ => Opnd.zero
def Long.d (f : Long) : Opnd := match f.g2 with | .cd _ d _ => d | .imm _ => Opnd.zero
def Long.ext8b (f : Long) : BitVec 8 := match f.g2 with | .cd _ _ e => e | .imm _ => 0
def Long.imm32 (f : Long) : Word := match f.g2 with | .cd _ _ _ => 0 | .imm w => w
def Long.hasImm (f : Long) : Bool := match f.g2 with | .cd _ _ _ => false | .imm _ => true

/-- Granule 2 is IMM32 exactly when A or B has kind 11 (R63, R65): the shape every decoded long
instruction has. -/
def Long.shapeOk (f : Long) : Bool := f.hasImm == (decide (f.a.kind = .imm) || decide (f.b.kind = .imm))

/-- An operand field breaks check 2: used positions only reserve the index under kind 11. -/
def opReserved (r : OpRule) (o : Opnd) : Bool :=
  if r.kinds = [] then decide (o ≠ Opnd.zero) else decide (o.kind = .imm ∧ o.idx ≠ 0)

/-- An operand field breaks check 4: kind or flags (R25, R64, R186). -/
def opKindBad (flags : Bool) (r : OpRule) (o : Opnd) : Bool :=
  decide (r.kinds ≠ []) &&
    (decide (o.kind ∉ r.kinds) || (o.last && o.keep) ||
      ((o.last || o.keep) && (!flags || decide (o.kind = .cb ∨ o.kind = .imm))))

/-- An operand field breaks check 5: s index, even pairs, quads (R11, R12, R65, R159). -/
def opIndexBad (r : OpRule) (o : Opnd) : Bool :=
  decide (r.kinds ≠ [] ∧ o.kind ≠ .imm) &&
    ((decide (o.kind = .s) && decide (64 ≤ o.idx.toNat)) || decide (o.idx.toNat % r.regs ≠ 0))

/-- VD breaks check 5. -/
def vdIndexBad (r : VdRule) (vd : BitVec 8) : Bool :=
  match r with
  | .none => false
  | .v n => decide (vd.toNat % n ≠ 0)
  | .s n => decide (64 ≤ vd.toNat ∨ vd.toNat % n ≠ 0)
  | .k => decide (vd.toNat = 0 ∨ 8 ≤ vd.toNat)

/-- Checks 2 to 5 of R72 on a long instruction, in order: the code of the first that fails. -/
def longCheck (f : Long) (r : LongRule) : Option Nat :=
  if (decide (r.tys = none ∧ f.ty ≠ .b32)) || (!r.rm && decide (f.rm ≠ 0)) || (!r.sat && f.sat) ||
      (!r.xwSel && decide (f.xw ≠ 0)) || decide (f.ext8 &&& r.ext8Resv ≠ 0) ||
      decide (f.ext8b &&& r.ext8bResv ≠ 0) || opReserved r.a f.a || opReserved r.b f.b ||
      opReserved r.c (if f.hasImm then Opnd.zero else f.c) || opReserved r.d (if f.hasImm then Opnd.zero else f.d) ||
      (decide (r.vd = .none ∧ f.vd ≠ 0)) then some 2
  else if (match r.tys with | none => false | some l => decide (f.ty ∉ l)) || decide (f.rm = 7) ||
      (r.xwSel && decide (f.xw ∉ r.xws)) || !r.selOk || (decide (f.pk = 0) && f.pn) then some 3
  else if opKindBad r.flags r.a f.a || opKindBad r.flags r.b f.b || opKindBad r.flags r.c f.c ||
      opKindBad r.flags r.d f.d || (decide (f.a.kind = .imm) && decide (f.b.kind = .imm)) ||
      (f.hasImm && decide (r.c.kinds ≠ [] ∨ r.d.kinds ≠ [])) then some 4
  else if opIndexBad r.a f.a || opIndexBad r.b f.b || opIndexBad r.c f.c || opIndexBad r.d f.d ||
      vdIndexBad r.vd f.vd then some 5
  else none

/-- Least stack depth of a slot operator (R69). -/
def FuseOp.needs : FuseOp → Nat
  | .fin => 0
  | .add | .sub | .mul | .min | .max | .swap => 2
  | .fma => 3
  | _ => 1

/-- Change of the stack depth by a slot operator (R69). -/
def FuseOp.change : FuseOp → Int
  | .add | .sub | .mul | .min | .max => -1
  | .fma => -2
  | .dup => 1
  | _ => 0

/-- Operators that FT = I32 accepts (R69). -/
def FuseOp.i32Ok : FuseOp → Bool
  | .rcp | .rsq | .exp2 | .log2 | .clamp01 => false
  | _ => true

def FuseWord.slots (f : FuseWord) : List Slot := [f.s0, f.s1, f.s2, f.s3, f.s4, f.s5, f.s6]

/-- The loop of R70 over the slots: depth d, pushes p, ended; the final d and p when well formed. -/
def fuseRun (ft : FuseTy) : List Slot → Int → Nat → Bool → Option (Int × Nat)
  | [], d, p, _ => some (d, p)
  | s :: rest, d, p, ended =>
    if ended then (if s = ⟨false, .fin⟩ then fuseRun ft rest d p true else none)
    else if s.op = .fin then (if s.push then none else fuseRun ft rest d p true)
    else
      let p1 := if s.push then p + 1 else p
      let d1 := if s.push then d + 1 else d
      if p1 > 3 ∨ d1 > 4 ∨ d1 < s.op.needs then none
      else if d1 + s.op.change > 4 then none
      else if ft = .i32 ∧ s.op.i32Ok = false then none
      else fuseRun ft rest (d1 + s.op.change) p1 false

def FuseIn.zero : FuseIn := ⟨false, 0⟩

/-- The number of inputs pushed by a program (R70), when it is well formed. -/
def FuseWord.pushes (f : FuseWord) : Option Nat :=
  match fuseRun f.ft f.slots 1 0 false with
  | some (d, p) => if d = 1 then some p else none
  | none => none

/-- Checks 3 and 6 of R72 on FUSE (R68 to R70). An input or a slot that the program does not use and that is not zero fits the
words of check 2 as well; R70 refuses it by its own procedure, so code 6 is recorded (DEDUCED, log entry 12). -/
def fuseCheck (f : FuseWord) : Option Nat :=
  if f.pk = 0 ∧ f.pn then some 3
  else match f.pushes with
    | none => some 6
    | some p =>
      if (p < 1 ∧ f.b ≠ FuseIn.zero) ∨ (p < 2 ∧ f.c ≠ FuseIn.zero) ∨ (p < 3 ∧ f.d ≠ FuseIn.zero) then some 6
      else none

/-- Selectors that SGET reads (R16). -/
def selReadable (s : BitVec 8) : Bool := decide (s.toNat ≤ 0x1B)
/-- Selectors that SSET writes (R16, R17). -/
def selWritable (s : BitVec 8) : Bool :=
  decide (s.toNat ∈ [0x0E, 0x0F, 0x10, 0x11, 0x12, 0x13, 0x14, 0x15, 0x1B])

def maskSrc (x : BitVec 6) : Bool := decide (x.toNat < 8)
def maskDst (x : BitVec 6) : Bool := decide (0 < x.toNat ∧ x.toNat < 8)
def evenReg (x : BitVec 6) : Bool := decide (x.toNat % 2 = 0)
def quadReg (x : BitVec 6) : Bool := decide (x.toNat % 4 = 0)

/-- Check 3 first, then check 5 (R72). -/
def sel5 (sel idx : Bool) : Option Nat := if sel then (if idx then none else some 5) else some 3

/-- Checks 3 and 5 of R72 on the short instructions; reserved fields (check 2) are seen by the decoder. -/
def shortCheck : Instr → Option Nat
  | .scmp c _ _ _ => sel5 (decide (c.toNat < 10)) true
  | .sadd64 d a b | .ssub64 d a b => sel5 true (evenReg d && evenReg a && evenReg b)
  | .sshl64 d a _ | .sshr64 d a _ => sel5 true (evenReg d && evenReg a)
  | .kand d a b | .kor d a b | .kxor d a b | .kandn d a b => sel5 true (maskDst d && maskSrc a && maskSrc b)
  | .knot d a => sel5 true (maskDst d && maskSrc a)
  | .kset d _ => sel5 true (maskDst d)
  | .kmovsToMask d _ => sel5 true (maskDst d)
  | .kmovsToScalar _ a => sel5 true (maskSrc a)
  | .sget _ s => sel5 (selReadable s) true
  | .sset s _ | .ssetSet s _ | .ssetClr s _ => sel5 (selWritable s) true
  | .fence k s => sel5 (decide (k ≠ 0 ∧ s ≠ 7)) true
  | .pfence p => sel5 (decide (p = 1 ∨ p = 2 ∨ p = 3)) true
  | .bararr s _ | .tsync s => sel5 (decide (s ≠ 7)) true
  | .bararrN s _ _ | .bartxArr s _ _ | .barwait s _ _ => sel5 (decide (s ≠ 7)) true
  | .bartry s _ _ _ => sel5 (decide (s ≠ 7)) true
  | .whold loc _ a | .wwill loc _ a => sel5 true (loc || evenReg a)
  | .wdrop loc k _ a => sel5 (decide (k ≠ 3)) (loc || evenReg a)
  | .waitv loc _ s _ a _ => sel5 (decide (s ≠ 7)) (loc || evenReg a)
  | .lockacq loc _ s _ a => sel5 (decide (s ≠ 7)) (loc || evenReg a)
  | .lockrel loc s _ a => sel5 (decide (s ≠ 7)) (loc || evenReg a)
  | .launchParam _ _ b => sel5 true (evenReg b)
  | .send _ _ a b => sel5 true (evenReg a && quadReg b)
  | .rpost tok cq bar j _ _ => sel5 ((tok || cq || bar) && (tok || decide (j = 0))) true
  | .rprobe d _ => sel5 true (quadReg d)
  | .copy _ _ _ d a b | .copyg _ _ _ d a b => sel5 true (evenReg d && evenReg a && quadReg b)
  | .copys _ _ d a b => sel5 true (evenReg d && evenReg a && quadReg b)
  | .copytLd _ _ _ d a b => sel5 true (evenReg d && quadReg a && quadReg b)
  | .copytSt _ _ d a b => sel5 true (evenReg d && quadReg a && quadReg b)
  | .copytSc _ _ _ a b => sel5 true (quadReg a && quadReg b)
  | .copyr f _ _ d a b => sel5 (decide (f ≠ 3)) (evenReg d && evenReg a && quadReg b)
  | .tset j _ _ => sel5 true (decide (j.toNat < 16))
  | .tsetLo j _ | .tsetHi j _ => sel5 true (decide (j.toNat < 16))
  | .tget _ j | .tgetHi _ j => sel5 true (decide (j.toNat < 16))
  | _ => none

/-- The first of checks 2 to 6 of R72 that the fields of an instruction fail. -/
def Instr.check (i : Instr) : Option Nat :=
  match i with
  | .fuse f => fuseCheck f
  | _ => match longRule i with
    | some (f, r) => longCheck f r
    | none => shortCheck i

/-- Every field is as the instruction's chapter allows (checks 2 to 6 of R72), and granule 2 has the form
that operands A and B give it (R65). -/
def Instr.WellFormed (i : Instr) : Prop :=
  i.check = none ∧ (match longRule i with | some (f, _) => f.shapeOk = true | none => True)

/-- Check 7 of R72 for an operand: a v index, or a further member of a pair or quad, at N or more (R10). -/
def opBeyond (n : Nat) (r : OpRule) (o : Opnd) : Bool :=
  decide (r.kinds ≠ [] ∧ o.kind = .v) && decide (n < o.idx.toNat + r.regs)

/-- Check 7 of R72: does the instruction name a v register that a team of N registers per lane lacks? -/
def Instr.beyond (i : Instr) (n : Nat) : Bool :=
  match i with
  | .fuse f =>
    let p := f.pushes.getD 0
    decide (n ≤ f.vd.toNat) || decide (n ≤ f.a.idx.toNat) || (decide (1 ≤ p) && decide (n ≤ f.b.idx.toNat)) ||
      (decide (2 ≤ p) && decide (n ≤ f.c.idx.toNat)) || (decide (3 ≤ p) && decide (n ≤ f.d.idx.toNat))
  | _ => match longRule i with
    | none => false
    | some (f, r) =>
      opBeyond n r.a f.a || opBeyond n r.b f.b || opBeyond n r.c f.c || opBeyond n r.d f.d ||
        (match r.vd with | .v m => decide (n < f.vd.toNat + m) | _ => false)

end Sys2Proof
end

