-- ==== Sys2Proof/Decode.lean ====
section
/-! DEFINITION. Decoding of granules (spec R58, R61 to R75, checks 1 to 6 of R72) and the encoder written from
the same tables. -/

namespace Sys2Proof

/-- LEN of R58: bit 0 of the first granule. -/
def isLong (w : Word) : Bool := w.getLsbD 0

/-- OP7 and the register fields SD, SA, SB and FN6 of the short formats (R61); scopes stand in FN6 [2:0]. -/
def fOp7 (w : Word) : BitVec 7 := w.extractLsb' 1 7
def fSD (w : Word) : BitVec 6 := w.extractLsb' 8 6
def fSA (w : Word) : BitVec 6 := w.extractLsb' 14 6
def fSB (w : Word) : BitVec 6 := w.extractLsb' 20 6
def fFN6 (w : Word) : BitVec 6 := w.extractLsb' 26 6
def fScope (w : Word) : BitVec 3 := w.extractLsb' 26 3

/-- The short opcode map (R73): for an assigned OP7, the bits that are reserved (check 2) and the
instruction the selectors name (none: check 3). PTOKEN has OP7 0x37 (R73, R138); the row of
spec/opcode_table.json that gives it the word of MERGE is not followed. -/
def shortForm (w : Word) : Option (Word × Option Instr) :=
  match (fOp7 w).toNat with
  | 1 => some (0xFFFFFF00#32, some (.nop))
  | 2 => some (0xFC000000#32, some (.sadd (fSD w) (fSA w) (fSB w)))
  | 3 => some (0xFC000000#32, some (.ssub (fSD w) (fSA w) (fSB w)))
  | 4 => some (0xFC000000#32, some (.smul (fSD w) (fSA w) (fSB w)))
  | 5 => some (0xFC000000#32, some (.smulh (fSD w) (fSA w) (fSB w)))
  | 6 => some (0xFC000000#32, some (.smulhn (fSD w) (fSA w) (fSB w)))
  | 7 => some (0xFC000000#32, some (.sand (fSD w) (fSA w) (fSB w)))
  | 8 => some (0xFC000000#32, some (.sor (fSD w) (fSA w) (fSB w)))
  | 9 => some (0xFC000000#32, some (.sxor (fSD w) (fSA w) (fSB w)))
  | 10 => some (0xFC000000#32, some (.sandn (fSD w) (fSA w) (fSB w)))
  | 11 => some (0xFC000000#32, some (.sshl (fSD w) (fSA w) (fSB w)))
  | 12 => some (0xFC000000#32, some (.sshr (fSD w) (fSA w) (fSB w)))
  | 13 => some (0xFC000000#32, some (.ssra (fSD w) (fSA w) (fSB w)))
  | 14 => some (0xFC000000#32, some (.srot (fSD w) (fSA w) (fSB w)))
  | 15 => some (0xFC000000#32, some (.smin (fSD w) (fSA w) (fSB w)))
  | 16 => some (0xFC000000#32, some (.smax (fSD w) (fSA w) (fSB w)))
  | 17 => some (0xFC000000#32, some (.sminn (fSD w) (fSA w) (fSB w)))
  | 18 => some (0xFC000000#32, some (.smaxn (fSD w) (fSA w) (fSB w)))
  | 19 => some (0xFFF00000#32, some (.sclz (fSD w) (fSA w)))
  | 20 => some (0xFFF00000#32, some (.spopc (fSD w) (fSA w)))
  | 21 => some (0, some (.scmp (w.extractLsb' 26 6) (fSD w) (fSA w) (fSB w)))
  | 22 => some (0xFFF00000#32, some (.smov (fSD w) (fSA w)))
  | 23 => some (0xFC000000#32, some (.sadd64 (fSD w) (fSA w) (fSB w)))
  | 24 => some (0xFC000000#32, some (.ssub64 (fSD w) (fSA w) (fSB w)))
  | 25 => some (0xFC000000#32, some (.sshl64 (fSD w) (fSA w) (fSB w)))
  | 26 => some (0xFC000000#32, some (.sshr64 (fSD w) (fSA w) (fSB w)))
  | 32 => some (0, some (.saddi (fSD w) (fSA w) (w.extractLsb' 20 12)))
  | 33 => some (0, some (.sandi (fSD w) (fSA w) (w.extractLsb' 20 12)))
  | 34 => some (0, some (.sori (fSD w) (fSA w) (w.extractLsb' 20 12)))
  | 35 => some (0, some (.sxori (fSD w) (fSA w) (w.extractLsb' 20 12)))
  | 36 => some (0, if w.extractLsb' 25 7 = 0 then some (.sshli (fSD w) (fSA w) (w.extractLsb' 20 5)) else none)
  | 37 => some (0, if w.extractLsb' 25 7 = 0 then some (.sshri (fSD w) (fSA w) (w.extractLsb' 20 5)) else none)
  | 38 => some (0, if w.extractLsb' 25 7 = 0 then some (.ssrai (fSD w) (fSA w) (w.extractLsb' 20 5)) else none)
  | 39 => some (0, some (.scmpi (fSD w) (fSA w) (w.extractLsb' 20 12)))
  | 40 => some (0, some (.slil (fSD w) (w.extractLsb' 14 18)))
  | 41 => some (0, if w.extractLsb' 28 4 = 0 then some (.slih (fSD w) (w.extractLsb' 14 14)) else none)
  | 48 => some (0x00000300#32, some (.br (w.extractLsb' 10 22)))
  | 49 => some (0, some (.brc (w.extractLsb' 8 2) (w.extractLsb' 10 3) (w.extractLsb' 13 2) (w.extractLsb' 15 17)))
  | 50 => some (0, some (.brz (fSD w) (w.extractLsb' 14 18)))
  | 51 => some (0, some (.brnz (fSD w) (w.extractLsb' 14 18)))
  | 52 => some (0, some (.call (fSD w) (w.extractLsb' 14 18)))
  | 53 => some (0xFFF03F00#32, some (.ret (fSA w)))
  | 54 => some (0xFFF03F00#32, some (.jmpi (fSA w)))
  | 55 => some (0x00000300#32, some (.ptoken (w.extractLsb' 10 22)))
  | 56 => some (0xFFFFFF00#32, some (.merge))
  | 57 => some (0xFFFFFF00#32, some (.regang))
  | 58 => some (0xFFFFFF00#32, some (.yield))
  | 59 => some (0, some (.brp (w.extractLsb' 8 2) (w.extractLsb' 10 22)))
  | 60 => some (0x000FC000#32, if w.extractLsb' 28 4 = 0 then some (.sget (fSD w) (w.extractLsb' 20 8)) else none)
  | 61 => some (0x00003F00#32, match (w.extractLsb' 28 4).toNat with
      | 0 => some (.sset (w.extractLsb' 20 8) (fSA w))
      | 1 => some (.ssetSet (w.extractLsb' 20 8) (fSA w))
      | 2 => some (.ssetClr (w.extractLsb' 20 8) (fSA w))
      | _ => none)
  | 62 => some (0xFFF03F00#32, some (.yieldp (fSA w)))
  | 63 => some (0xFFFFFF00#32, some (.exit))
  | 64 => some (0x00003F00#32, some (.trap (w.extractLsb' 14 18)))
  | 65 => some (0xFFFFFF00#32, some (.tret))
  | 66 => some (0xFC000000#32, some (.kand (fSD w) (fSA w) (fSB w)))
  | 67 => some (0xFC000000#32, some (.kor (fSD w) (fSA w) (fSB w)))
  | 68 => some (0xFC000000#32, some (.kxor (fSD w) (fSA w) (fSB w)))
  | 69 => some (0xFC000000#32, some (.kandn (fSD w) (fSA w) (fSB w)))
  | 70 => some (0xFFF00000#32, some (.knot (fSD w) (fSA w)))
  | 71 => some (0x03F00000#32, match (fFN6 w).toNat with
      | 0 => some (.kmovsToMask (fSD w) (fSA w))
      | 1 => some (.kmovsToScalar (fSD w) (fSA w))
      | _ => none)
  | 72 => some (0x000FC000#32, if w.extractLsb' 24 8 = 0 then some (.kset (fSD w) (w.extractLsb' 20 4)) else none)
  | 80 => some (0, some (.waitc (fSD w) (fSA w) (fSB w) (w.extractLsb' 26 6)))
  | 81 => some (0xF00FFF00#32, some (.waitt (w.extractLsb' 20 8)))
  | 82 => some (0x000F0000#32, some (.yieldt (w.extractLsb' 8 8) (w.extractLsb' 20 12)))
  | 83 => some (0, some (.sld (fSD w) (fSA w) (w.extractLsb' 20 12)))
  | 84 => some (0, some (.sst (fSD w) (fSA w) (w.extractLsb' 20 12)))
  | 85 => some (0x03FFFF00#32, if w.getLsbD 31 then none else some (.fence (w.extractLsb' 29 2) (fScope w)))
  | 86 => some (0x03FFFF00#32, some (.pfence (w.extractLsb' 26 6)))
  | 96 => some (0xFC003F00#32, some (.barinit (fSA w) (fSB w)))
  | 97 => some (if w.getLsbD 29 then 0xC0003F00#32 else 0xC3F03F00#32, some (if w.getLsbD 29 then .bararrN (fScope w) (fSA w) (fSB w) else .bararr (fScope w) (fSA w)))
  | 98 => some (if w.getLsbD 29 then 0xC0003F00#32 else 0xDC003F00#32, some (if w.getLsbD 29 then .bartxArr (fScope w) (fSA w) (fSB w) else .bartx (fSA w) (fSB w)))
  | 99 => some (0xE0003F00#32, some (.barwait (fScope w) (fSA w) (fSB w)))
  | 100 => some (0xE0000000#32, some (.bartry (fScope w) (fSD w) (fSA w) (fSB w)))
  | 101 => some (0xE3FFFF00#32, some (.tsync (fScope w)))
  | 102 => some (0x7FF00000#32, some (.whold (w.getLsbD 31) (fSD w) (fSA w)))
  | 103 => some (0x73F00000#32, some (.wdrop (w.getLsbD 31) (w.extractLsb' 26 2) (fSD w) (fSA w)))
  | 104 => some (0x7FF00000#32, some (.wwill (w.getLsbD 31) (fSD w) (fSA w)))
  | 105 => some (0, some (.waitv (w.getLsbD 31) (w.extractLsb' 29 2) (fScope w) (fSD w) (fSA w) (fSB w)))
  | 106 => some (0x23F00000#32, some (.lockacq (w.getLsbD 31) (w.getLsbD 30) (fScope w) (fSD w) (fSA w)))
  | 107 => some (0x63F00000#32, some (.lockrel (w.getLsbD 31) (fScope w) (fSD w) (fSA w)))
  | 108 => some (if fFN6 w = 0 then 0x03F00000#32 else 0, match (fFN6 w).toNat with
      | 0 => some (.launch (fSD w) (fSA w))
      | 1 => some (.launchParam (fSD w) (fSA w) (fSB w))
      | _ => none)
  | 112 => some (0xC0003F00#32, some (.send (w.getLsbD 29) (fScope w) (fSA w) (fSB w)))
  | 113 => some (0x03F00000#32, some (.rpost (w.getLsbD 31) (w.getLsbD 30) (w.getLsbD 29) (fScope w) (fSD w) (fSA w)))
  | 114 => some (0xFFF00000#32, some (.rcancel (fSD w) (fSA w)))
  | 115 => some (0xFFF00000#32, some (.rprobe (fSD w) (fSA w)))
  | 116 => some (0, if w.getLsbD 31 then none else some (.copy (w.getLsbD 30) (w.getLsbD 29) (fScope w) (fSD w) (fSA w) (fSB w)))
  | 117 => some (0, some (if w.getLsbD 31 then (if w.getLsbD 30 then .copytSc (w.getLsbD 29) (fScope w) (fSD w) (fSA w) (fSB w) else .copytSt (w.getLsbD 29) (fScope w) (fSD w) (fSA w) (fSB w)) else .copytLd (w.getLsbD 30) (w.getLsbD 29) (fScope w) (fSD w) (fSA w) (fSB w)))
  | 118 => some (0, if w.getLsbD 31 then none else some (.copyg (w.getLsbD 30) (w.getLsbD 29) (fScope w) (fSD w) (fSA w) (fSB w)))
  | 119 => some (0, if w.extractLsb' 30 2 = 0 then some (.copys (w.getLsbD 29) (fScope w) (fSD w) (fSA w) (fSB w)) else none)
  | 120 => some (0, some (.copyr (w.extractLsb' 30 2) (w.getLsbD 29) (fScope w) (fSD w) (fSA w) (fSB w)))
  | 121 => some (if fFN6 w = 1 ∨ fFN6 w = 2 then 0x03F00000#32 else 0, match (fFN6 w).toNat with
      | 0 => some (.tset (fSD w) (fSA w) (fSB w))
      | 1 => some (.tsetLo (fSD w) (fSA w))
      | 2 => some (.tsetHi (fSD w) (fSA w))
      | _ => none)
  | 122 => some (0x03F00000#32, match (fFN6 w).toNat with
      | 0 => some (.tget (fSD w) (fSA w))
      | 1 => some (.tgetHi (fSD w) (fSA w))
      | _ => none)
  | 123 => some (if w.getLsbD 29 then 0xC0003F00#32 else 0xC3FFFF00#32, some (if w.getLsbD 29 then .mbatchArr (fScope w) (fSA w) (fSB w) else .mbatch (fScope w)))
  | 124 => some (if w.extractLsb' 26 2 = 1 then 0xF3FFC000#32 else 0xF0000000#32, match (w.extractLsb' 26 2).toNat with
      | 0 => some (.mmagokOpen (fSD w) (fSA w) (fSB w))
      | 1 => some (.mmagokClose (fSD w))
      | _ => none)
  | _ => none

/-- Decoding of a short instruction: the code of the first failing check of R72, or the instruction. -/
def decodeShort (w : Word) : Except Nat Instr :=
  match shortForm w with
  | none => .error 1
  | some (resv, form) =>
    if w &&& resv ≠ 0 then .error 2
    else match form with
      | none => .error 3
      | some i => match i.check with
        | some c => .error c
        | none => .ok i

/-- The kind of an operand field (R64). -/
def kindOfCode (c : BitVec 2) : Kind :=
  match c.toNat with
  | 0 => .v
  | 1 => .s
  | 2 => .cb
  | _ => .imm

def Kind.code : Kind → BitVec 2
  | .v => 0
  | .s => 1
  | .cb => 2
  | .imm => 3

/-- An operand field (R64). -/
def opndOfBits (x : BitVec 12) : Opnd :=
  ⟨kindOfCode (x.extractLsb' 10 2), x.getLsbD 9, x.getLsbD 8, x.extractLsb' 0 8⟩

def Opnd.bits (o : Opnd) : BitVec 12 := o.kind.code ++ (BitVec.ofBool o.keep ++ (BitVec.ofBool o.last ++ o.idx))

/-- The long layout (R63); granule 2 is IMM32 when A or B has kind 11 (R65). -/
def longOfGranules (g0 g1 g2 : Word) : Long :=
  let a := opndOfBits (g1.extractLsb' 0 12)
  let b := opndOfBits (g1.extractLsb' 12 12)
  { xw := g0.extractLsb' 30 2, sat := g0.getLsbD 29, rm := g0.extractLsb' 26 3, ty := tyOfCode (g0.extractLsb' 22 4)
    vd := g0.extractLsb' 14 8, pn := g0.getLsbD 13, pk := g0.extractLsb' 10 3, a := a, b := b
    ext8 := g1.extractLsb' 24 8
    g2 := if a.kind = .imm ∨ b.kind = .imm then .imm g2
      else .cd (opndOfBits (g2.extractLsb' 0 12)) (opndOfBits (g2.extractLsb' 12 12)) (g2.extractLsb' 24 8) }

def Gran2.bits : Gran2 → Word
  | .cd c d e => e ++ (d.bits ++ c.bits)
  | .imm w => w

def fuseTyOfCode (c : BitVec 2) : FuseTy :=
  match c.toNat with
  | 0 => .f32
  | 1 => .f16x2
  | 2 => .bf16x2
  | _ => .i32

def FuseTy.code : FuseTy → BitVec 2
  | .f32 => 0
  | .f16x2 => 1
  | .bf16x2 => 2
  | .i32 => 3

/-- The slot operators in code order (R69). -/
def fuseOpOfCode (c : BitVec 4) : FuseOp :=
  match c.toNat with
  | 0 => .fin | 1 => .add | 2 => .sub | 3 => .mul | 4 => .min | 5 => .max | 6 => .fma | 7 => .neg
  | 8 => .abs | 9 => .rcp | 10 => .rsq | 11 => .exp2 | 12 => .log2 | 13 => .dup | 14 => .swap | _ => .clamp01

def FuseOp.code : FuseOp → BitVec 4
  | .fin => 0 | .add => 1 | .sub => 2 | .mul => 3 | .min => 4 | .max => 5 | .fma => 6 | .neg => 7
  | .abs => 8 | .rcp => 9 | .rsq => 10 | .exp2 => 11 | .log2 => 12 | .dup => 13 | .swap => 14 | .clamp01 => 15

def slotOfBits (x : BitVec 5) : Slot := ⟨x.getLsbD 4, fuseOpOfCode (x.extractLsb' 0 4)⟩
def Slot.bits (s : Slot) : BitVec 5 := BitVec.ofBool s.push ++ s.op.code
def fuseInOfBits (x : BitVec 9) : FuseIn := ⟨x.getLsbD 8, x.extractLsb' 0 8⟩
def FuseIn.bits (x : FuseIn) : BitVec 9 := BitVec.ofBool x.last ++ x.idx

/-- The FUSE layout (R68). -/
def fuseOfGranules (g0 g1 g2 : Word) : FuseWord :=
  { pk := g0.extractLsb' 10 3, pn := g0.getLsbD 13, vd := g0.extractLsb' 14 8
    ft := fuseTyOfCode (g0.extractLsb' 22 2)
    a := fuseInOfBits (g1.extractLsb' 0 9), b := fuseInOfBits (g1.extractLsb' 9 9)
    c := fuseInOfBits (g1.extractLsb' 18 9), d := fuseInOfBits (g2.extractLsb' 0 9)
    s0 := slotOfBits (g1.extractLsb' 27 5), s1 := slotOfBits (g2.extractLsb' 9 5)
    s2 := slotOfBits (g2.extractLsb' 14 5), s3 := slotOfBits (g2.extractLsb' 19 5)
    s4 := slotOfBits (g2.extractLsb' 24 5), s5 := slotOfBits (g0.extractLsb' 24 5)
    s6 := slotOfBits (g2.extractLsb' 29 2 ++ g0.extractLsb' 29 3) }

/-- The long opcode map (R75); rows that split an opcode are told apart by XW, or by OP for the atomics. -/
def longForm (op9 : Nat) (f : Long) : Option Instr :=
  match op9 with
  | 1 => some (.iadd f)
  | 2 => some (.isub f)
  | 3 => some (.imul f)
  | 4 => some (.imulh f)
  | 5 => some (.imad f)
  | 6 => some (.imadw f)
  | 7 => some (.imin f)
  | 8 => some (.imax f)
  | 9 => some (.iabs f)
  | 10 => some (.iand f)
  | 11 => some (.ior f)
  | 12 => some (.ixor f)
  | 13 => some (.iandn f)
  | 14 => some (.ishl f)
  | 15 => some (.ishr f)
  | 16 => some (.isra f)
  | 17 => some (.irot f)
  | 18 => some (.ipopc f)
  | 19 => some (.iclz f)
  | 20 => some (.ibfx f)
  | 21 => some (.ibfi f)
  | 22 => some (.ibrev f)
  | 23 => some (.iperm f)
  | 24 => some (.icmp f)
  | 25 => some (.isad f)
  | 26 => some (.iadd64 f)
  | 64 => some (.mov f)
  | 65 => some (.movi f)
  | 66 => some (.sel f)
  | 67 => some (.movs f)
  | 68 => some (if f.xw = 1 then .movkToVector f else .movkToMask f)
  | 69 => some (if f.xw = 1 then .vtosFirst f else .vtos f)
  | 128 => some (.fadd f)
  | 129 => some (.fsub f)
  | 130 => some (.fmul f)
  | 131 => some (.ffma f)
  | 132 => some (.fmin f)
  | 133 => some (.fmax f)
  | 134 => some (.fneg f)
  | 135 => some (.fabs f)
  | 136 => some (.fcmp f)
  | 137 => some (.fclass f)
  | 138 => some (.frnd f)
  | 139 => some (.ffrac f)
  | 140 => some (.fldexp f)
  | 141 => some (.fgetexp f)
  | 192 => some (.cvt f)
  | 193 => some (.pack f)
  | 194 => some (.unpack f)
  | 195 => some (if f.xw = 1 then .scaleApply f else .scaleFit f)
  | 208 => some (.rcp f)
  | 209 => some (.rsq f)
  | 210 => some (.sqrt f)
  | 211 => some (.exp2 f)
  | 212 => some (.log2 f)
  | 213 => some (.sinpi f)
  | 214 => some (.cospi f)
  | 224 => some (.dot2 f)
  | 225 => some (.dot4 f)
  | 226 => some (.dot8 f)
  | 256 => some (.laneid f)
  | 257 => some (.plane f)
  | 258 => some (.shfl f)
  | 259 => some (.shflx f)
  | 260 => some (if f.xw = 1 then .bcastFirst f else .bcast f)
  | 261 => some (.vote f)
  | 262 => some (.reduce f)
  | 263 => some (.scan f)
  | 320 => some (.ld f)
  | 321 => some (.st f)
  | 322 => some (if f.atomOp = 7 then .atomCas f else .atom f)
  | 352 => some (.fld f)
  | 353 => some (.fst f)
  | 354 => some (.fatom f)
  | 384 => some (.tld f)
  | 385 => some (.tst f)
  | 386 => some (.ttrans f)
  | 387 => some (.mma f)
  | 388 => some (.mmas f)
  | 389 => some (if f.xw = 1 then .mmagNolocal f else .mmag f)
  | 390 => some (.afill f)
  | _ => none

/-- Decoding of a long instruction. -/
def decodeLong (g0 g1 g2 : Word) : Except Nat Instr :=
  let op9 := (g0.extractLsb' 1 9).toNat
  if op9 = 0x0E3 then
    if g2.getLsbD 31 then .error 2
    else
      let i := Instr.fuse (fuseOfGranules g0 g1 g2)
      match i.check with
      | some c => .error c
      | none => .ok i
  else match longForm op9 (longOfGranules g0 g1 g2) with
    | none => .error 1
    | some i => match i.check with
      | some c => .error c
      | none => .ok i

/-- Decoding of the granules at the PC (R58); granules 1 and 2 play no part in a short instruction. -/
def decode (g0 g1 g2 : Word) : Except Nat Instr :=
  if isLong g0 then decodeLong g0 g1 g2 else decodeShort g0

/-- The granule of a short instruction (R61, R73). -/
def encodeShort (i : Instr) : Option Word :=
  match i with
  | .sadd d a b => some (0#6 ++ (b ++ (a ++ (d ++ (2#7 ++ 0#1)))))
  | .ssub d a b => some (0#6 ++ (b ++ (a ++ (d ++ (3#7 ++ 0#1)))))
  | .smul d a b => some (0#6 ++ (b ++ (a ++ (d ++ (4#7 ++ 0#1)))))
  | .smulh d a b => some (0#6 ++ (b ++ (a ++ (d ++ (5#7 ++ 0#1)))))
  | .smulhn d a b => some (0#6 ++ (b ++ (a ++ (d ++ (6#7 ++ 0#1)))))
  | .sand d a b => some (0#6 ++ (b ++ (a ++ (d ++ (7#7 ++ 0#1)))))
  | .sor d a b => some (0#6 ++ (b ++ (a ++ (d ++ (8#7 ++ 0#1)))))
  | .sxor d a b => some (0#6 ++ (b ++ (a ++ (d ++ (9#7 ++ 0#1)))))
  | .sandn d a b => some (0#6 ++ (b ++ (a ++ (d ++ (10#7 ++ 0#1)))))
  | .sshl d a b => some (0#6 ++ (b ++ (a ++ (d ++ (11#7 ++ 0#1)))))
  | .sshr d a b => some (0#6 ++ (b ++ (a ++ (d ++ (12#7 ++ 0#1)))))
  | .ssra d a b => some (0#6 ++ (b ++ (a ++ (d ++ (13#7 ++ 0#1)))))
  | .srot d a b => some (0#6 ++ (b ++ (a ++ (d ++ (14#7 ++ 0#1)))))
  | .smin d a b => some (0#6 ++ (b ++ (a ++ (d ++ (15#7 ++ 0#1)))))
  | .smax d a b => some (0#6 ++ (b ++ (a ++ (d ++ (16#7 ++ 0#1)))))
  | .sminn d a b => some (0#6 ++ (b ++ (a ++ (d ++ (17#7 ++ 0#1)))))
  | .smaxn d a b => some (0#6 ++ (b ++ (a ++ (d ++ (18#7 ++ 0#1)))))
  | .nop => some (0#24 ++ (1#7 ++ 0#1))
  | .sclz d a => some (0#12 ++ (a ++ (d ++ (19#7 ++ 0#1))))
  | .spopc d a => some (0#12 ++ (a ++ (d ++ (20#7 ++ 0#1))))
  | .scmp cond d a b => some (cond ++ (b ++ (a ++ (d ++ (21#7 ++ 0#1)))))
  | .smov d a => some (0#12 ++ (a ++ (d ++ (22#7 ++ 0#1))))
  | .sadd64 d a b => some (0#6 ++ (b ++ (a ++ (d ++ (23#7 ++ 0#1)))))
  | .ssub64 d a b => some (0#6 ++ (b ++ (a ++ (d ++ (24#7 ++ 0#1)))))
  | .sshl64 d a b => some (0#6 ++ (b ++ (a ++ (d ++ (25#7 ++ 0#1)))))
  | .sshr64 d a b => some (0#6 ++ (b ++ (a ++ (d ++ (26#7 ++ 0#1)))))
  | .saddi d a imm => some (imm ++ (a ++ (d ++ (32#7 ++ 0#1))))
  | .sandi d a imm => some (imm ++ (a ++ (d ++ (33#7 ++ 0#1))))
  | .sori d a imm => some (imm ++ (a ++ (d ++ (34#7 ++ 0#1))))
  | .sxori d a imm => some (imm ++ (a ++ (d ++ (35#7 ++ 0#1))))
  | .sshli d a imm => some (0#7 ++ (imm ++ (a ++ (d ++ (36#7 ++ 0#1)))))
  | .sshri d a imm => some (0#7 ++ (imm ++ (a ++ (d ++ (37#7 ++ 0#1)))))
  | .ssrai d a imm => some (0#7 ++ (imm ++ (a ++ (d ++ (38#7 ++ 0#1)))))
  | .scmpi d a imm => some (imm ++ (a ++ (d ++ (39#7 ++ 0#1))))
  | .slil d imm => some (imm ++ (d ++ (40#7 ++ 0#1)))
  | .slih d imm => some (0#4 ++ (imm ++ (d ++ (41#7 ++ 0#1))))
  | .br off => some (off ++ (0#2 ++ (48#7 ++ 0#1)))
  | .brc hint k cond off => some (off ++ (cond ++ (k ++ (hint ++ (49#7 ++ 0#1)))))
  | .brz d off => some (off ++ (d ++ (50#7 ++ 0#1)))
  | .brnz d off => some (off ++ (d ++ (51#7 ++ 0#1)))
  | .call d off => some (off ++ (d ++ (52#7 ++ 0#1)))
  | .ret a => some (0#12 ++ (a ++ (0#6 ++ (53#7 ++ 0#1))))
  | .jmpi a => some (0#12 ++ (a ++ (0#6 ++ (54#7 ++ 0#1))))
  | .ptoken off => some (off ++ (0#2 ++ (55#7 ++ 0#1)))
  | .merge => some (0#24 ++ (56#7 ++ 0#1))
  | .regang => some (0#24 ++ (57#7 ++ 0#1))
  | .yield => some (0#24 ++ (58#7 ++ 0#1))
  | .brp hint off => some (off ++ (hint ++ (59#7 ++ 0#1)))
  | .sget d sel => some (0#4 ++ (sel ++ (0#6 ++ (d ++ (60#7 ++ 0#1)))))
  | .sset sel a => some (0#4 ++ (sel ++ (a ++ (0#6 ++ (61#7 ++ 0#1)))))
  | .ssetSet sel a => some (1#4 ++ (sel ++ (a ++ (0#6 ++ (61#7 ++ 0#1)))))
  | .ssetClr sel a => some (2#4 ++ (sel ++ (a ++ (0#6 ++ (61#7 ++ 0#1)))))
  | .yieldp a => some (0#12 ++ (a ++ (0#6 ++ (62#7 ++ 0#1))))
  | .exit => some (0#24 ++ (63#7 ++ 0#1))
  | .trap imm => some (imm ++ (0#6 ++ (64#7 ++ 0#1)))
  | .tret => some (0#24 ++ (65#7 ++ 0#1))
  | .kand d a b => some (0#6 ++ (b ++ (a ++ (d ++ (66#7 ++ 0#1)))))
  | .kor d a b => some (0#6 ++ (b ++ (a ++ (d ++ (67#7 ++ 0#1)))))
  | .kxor d a b => some (0#6 ++ (b ++ (a ++ (d ++ (68#7 ++ 0#1)))))
  | .kandn d a b => some (0#6 ++ (b ++ (a ++ (d ++ (69#7 ++ 0#1)))))
  | .knot d a => some (0#12 ++ (a ++ (d ++ (70#7 ++ 0#1))))
  | .kmovsToMask d a => some (0#12 ++ (a ++ (d ++ (71#7 ++ 0#1))))
  | .kmovsToScalar d a => some (1#6 ++ (0#6 ++ (a ++ (d ++ (71#7 ++ 0#1)))))
  | .kset d imm => some (0#8 ++ (imm ++ (0#6 ++ (d ++ (72#7 ++ 0#1)))))
  | .waitc fl fs cp tl => some (tl ++ (cp ++ (fs ++ (fl ++ (80#7 ++ 0#1)))))
  | .waitt mask => some (0#4 ++ (mask ++ (0#12 ++ (81#7 ++ 0#1))))
  | .yieldt mask off => some (off ++ (0#4 ++ (mask ++ (82#7 ++ 0#1))))
  | .sld d a imm => some (imm ++ (a ++ (d ++ (83#7 ++ 0#1))))
  | .sst d a imm => some (imm ++ (a ++ (d ++ (84#7 ++ 0#1))))
  | .fence kind scope => some (0#1 ++ (kind ++ (scope ++ (0#18 ++ (85#7 ++ 0#1)))))
  | .pfence path => some (path ++ (0#18 ++ (86#7 ++ 0#1)))
  | .barinit a b => some (0#6 ++ (b ++ (a ++ (0#6 ++ (96#7 ++ 0#1)))))
  | .bararr scope a => some (0#3 ++ (scope ++ (0#6 ++ (a ++ (0#6 ++ (97#7 ++ 0#1))))))
  | .bararrN scope a b => some (0#2 ++ (1#1 ++ (scope ++ (b ++ (a ++ (0#6 ++ (97#7 ++ 0#1)))))))
  | .bartx a b => some (0#6 ++ (b ++ (a ++ (0#6 ++ (98#7 ++ 0#1)))))
  | .bartxArr scope a b => some (0#2 ++ (1#1 ++ (scope ++ (b ++ (a ++ (0#6 ++ (98#7 ++ 0#1)))))))
  | .barwait scope a b => some (0#3 ++ (scope ++ (b ++ (a ++ (0#6 ++ (99#7 ++ 0#1))))))
  | .bartry scope d a b => some (0#3 ++ (scope ++ (b ++ (a ++ (d ++ (100#7 ++ 0#1))))))
  | .tsync scope => some (0#3 ++ (scope ++ (0#18 ++ (101#7 ++ 0#1))))
  | .whold loc d a => some (BitVec.ofBool loc ++ (0#11 ++ (a ++ (d ++ (102#7 ++ 0#1)))))
  | .wdrop loc kind d a => some (BitVec.ofBool loc ++ (0#3 ++ (kind ++ (0#6 ++ (a ++ (d ++ (103#7 ++ 0#1)))))))
  | .wwill loc d a => some (BitVec.ofBool loc ++ (0#11 ++ (a ++ (d ++ (104#7 ++ 0#1)))))
  | .waitv loc cond scope d a b => some (BitVec.ofBool loc ++ (cond ++ (scope ++ (b ++ (a ++ (d ++ (105#7 ++ 0#1)))))))
  | .lockacq loc once scope d a => some (BitVec.ofBool loc ++ (BitVec.ofBool once ++ (0#1 ++ (scope ++ (0#6 ++ (a ++ (d ++ (106#7 ++ 0#1))))))))
  | .lockrel loc scope d a => some (BitVec.ofBool loc ++ (0#2 ++ (scope ++ (0#6 ++ (a ++ (d ++ (107#7 ++ 0#1)))))))
  | .launch d a => some (0#12 ++ (a ++ (d ++ (108#7 ++ 0#1))))
  | .launchParam d a b => some (1#6 ++ (b ++ (a ++ (d ++ (108#7 ++ 0#1)))))
  | .send rdv j a b => some (0#2 ++ (BitVec.ofBool rdv ++ (j ++ (b ++ (a ++ (0#6 ++ (112#7 ++ 0#1)))))))
  | .rpost tok cq bar j d a => some (BitVec.ofBool tok ++ (BitVec.ofBool cq ++ (BitVec.ofBool bar ++ (j ++ (0#6 ++ (a ++ (d ++ (113#7 ++ 0#1))))))))
  | .rcancel d a => some (0#12 ++ (a ++ (d ++ (114#7 ++ 0#1))))
  | .rprobe d a => some (0#12 ++ (a ++ (d ++ (115#7 ++ 0#1))))
  | .copy mc bar j d a b => some (0#1 ++ (BitVec.ofBool mc ++ (BitVec.ofBool bar ++ (j ++ (b ++ (a ++ (d ++ (116#7 ++ 0#1))))))))
  | .copytLd mc bar j d a b => some (0#1 ++ (BitVec.ofBool mc ++ (BitVec.ofBool bar ++ (j ++ (b ++ (a ++ (d ++ (117#7 ++ 0#1))))))))
  | .copytSt bar j d a b => some (2#2 ++ (BitVec.ofBool bar ++ (j ++ (b ++ (a ++ (d ++ (117#7 ++ 0#1)))))))
  | .copytSc bar j d a b => some (3#2 ++ (BitVec.ofBool bar ++ (j ++ (b ++ (a ++ (d ++ (117#7 ++ 0#1)))))))
  | .copyg mc bar j d a b => some (0#1 ++ (BitVec.ofBool mc ++ (BitVec.ofBool bar ++ (j ++ (b ++ (a ++ (d ++ (118#7 ++ 0#1))))))))
  | .copys bar j d a b => some (0#2 ++ (BitVec.ofBool bar ++ (j ++ (b ++ (a ++ (d ++ (119#7 ++ 0#1)))))))
  | .copyr form bar j d a b => some (form ++ (BitVec.ofBool bar ++ (j ++ (b ++ (a ++ (d ++ (120#7 ++ 0#1)))))))
  | .tset j a b => some (0#6 ++ (b ++ (a ++ (j ++ (121#7 ++ 0#1)))))
  | .tsetLo j a => some (1#6 ++ (0#6 ++ (a ++ (j ++ (121#7 ++ 0#1)))))
  | .tsetHi j a => some (2#6 ++ (0#6 ++ (a ++ (j ++ (121#7 ++ 0#1)))))
  | .tget d j => some (0#12 ++ (j ++ (d ++ (122#7 ++ 0#1))))
  | .tgetHi d j => some (1#6 ++ (0#6 ++ (j ++ (d ++ (122#7 ++ 0#1)))))
  | .mbatch j => some (0#3 ++ (j ++ (0#18 ++ (123#7 ++ 0#1))))
  | .mbatchArr j a b => some (0#2 ++ (1#1 ++ (j ++ (b ++ (a ++ (0#6 ++ (123#7 ++ 0#1)))))))
  | .mmagokOpen d a b => some (0#6 ++ (b ++ (a ++ (d ++ (124#7 ++ 0#1)))))
  | .mmagokClose d => some (1#6 ++ (0#12 ++ (d ++ (124#7 ++ 0#1))))
  | _ => none

/-- OP9 and the fields of a long instruction other than FUSE (R75). -/
def longParts (i : Instr) : Option (Nat × Long) :=
  match i with
  | .iadd f => some (1, f)
  | .isub f => some (2, f)
  | .imul f => some (3, f)
  | .imulh f => some (4, f)
  | .imad f => some (5, f)
  | .imadw f => some (6, f)
  | .imin f => some (7, f)
  | .imax f => some (8, f)
  | .iabs f => some (9, f)
  | .iand f => some (10, f)
  | .ior f => some (11, f)
  | .ixor f => some (12, f)
  | .iandn f => some (13, f)
  | .ishl f => some (14, f)
  | .ishr f => some (15, f)
  | .isra f => some (16, f)
  | .irot f => some (17, f)
  | .ipopc f => some (18, f)
  | .iclz f => some (19, f)
  | .ibfx f => some (20, f)
  | .ibfi f => some (21, f)
  | .ibrev f => some (22, f)
  | .iperm f => some (23, f)
  | .icmp f => some (24, f)
  | .isad f => some (25, f)
  | .iadd64 f => some (26, f)
  | .mov f => some (64, f)
  | .movi f => some (65, f)
  | .sel f => some (66, f)
  | .movs f => some (67, f)
  | .movkToVector f => some (68, f)
  | .movkToMask f => some (68, f)
  | .vtosFirst f => some (69, f)
  | .vtos f => some (69, f)
  | .fadd f => some (128, f)
  | .fsub f => some (129, f)
  | .fmul f => some (130, f)
  | .ffma f => some (131, f)
  | .fmin f => some (132, f)
  | .fmax f => some (133, f)
  | .fneg f => some (134, f)
  | .fabs f => some (135, f)
  | .fcmp f => some (136, f)
  | .fclass f => some (137, f)
  | .frnd f => some (138, f)
  | .ffrac f => some (139, f)
  | .fldexp f => some (140, f)
  | .fgetexp f => some (141, f)
  | .cvt f => some (192, f)
  | .pack f => some (193, f)
  | .unpack f => some (194, f)
  | .scaleApply f => some (195, f)
  | .scaleFit f => some (195, f)
  | .rcp f => some (208, f)
  | .rsq f => some (209, f)
  | .sqrt f => some (210, f)
  | .exp2 f => some (211, f)
  | .log2 f => some (212, f)
  | .sinpi f => some (213, f)
  | .cospi f => some (214, f)
  | .dot2 f => some (224, f)
  | .dot4 f => some (225, f)
  | .dot8 f => some (226, f)
  | .laneid f => some (256, f)
  | .plane f => some (257, f)
  | .shfl f => some (258, f)
  | .shflx f => some (259, f)
  | .bcastFirst f => some (260, f)
  | .bcast f => some (260, f)
  | .vote f => some (261, f)
  | .reduce f => some (262, f)
  | .scan f => some (263, f)
  | .ld f => some (320, f)
  | .st f => some (321, f)
  | .atomCas f => some (322, f)
  | .atom f => some (322, f)
  | .fld f => some (352, f)
  | .fst f => some (353, f)
  | .fatom f => some (354, f)
  | .tld f => some (384, f)
  | .tst f => some (385, f)
  | .ttrans f => some (386, f)
  | .mma f => some (387, f)
  | .mmas f => some (388, f)
  | .mmagNolocal f => some (389, f)
  | .mmag f => some (389, f)
  | .afill f => some (390, f)
  | _ => none

/-- The three granules of a long instruction (R63). -/
def encodeLong (op9 : Nat) (f : Long) : List Word :=
  [f.xw ++ (BitVec.ofBool f.sat ++ (f.rm ++ (f.ty.code ++ (f.vd ++ (BitVec.ofBool f.pn ++ (f.pk ++
      (BitVec.ofNat 9 op9 ++ 1#1))))))),
    f.ext8 ++ (f.b.bits ++ f.a.bits), f.g2.bits]

/-- The three granules of FUSE (R68). -/
def encodeFuse (f : FuseWord) : List Word :=
  [f.s6.bits.extractLsb' 0 3 ++ (f.s5.bits ++ (f.ft.code ++ (f.vd ++ (BitVec.ofBool f.pn ++ (f.pk ++
      (0x0E3#9 ++ 1#1)))))),
    f.s0.bits ++ (f.c.bits ++ (f.b.bits ++ f.a.bits)),
    0#1 ++ (f.s6.bits.extractLsb' 3 2 ++ (f.s4.bits ++ (f.s3.bits ++ (f.s2.bits ++ (f.s1.bits ++ f.d.bits)))))]

/-- The granules of an instruction; a device event has none. -/
def encode (i : Instr) : List Word :=
  match i with
  | .fuse f => encodeFuse f
  | _ => match longParts i with
    | some (op9, f) => encodeLong op9 f
    | none => match encodeShort i with
      | some w => [w]
      | none => []

/-- Does the instruction stand in code (R58)? The device events of the table do not. -/
def Instr.isEncoded (i : Instr) : Bool := decide (encode i ≠ [])

/-- Decoding of a list of granules, as far as the first one needs them. -/
def decodeList (l : List Word) : Except Nat Instr :=
  match l with
  | [g0] => decode g0 0 0
  | [g0, g1, g2] => decode g0 g1 g2
  | _ => .error 1

/-- Bytes of an instruction in code: 4 or 12 (R58). -/
def Instr.size (i : Instr) : Nat := 4 * (encode i).length

/-- The granules held by the number w whose bit 0 is the least significant bit of the first granule. -/
def tableGranule (nbits w k : Nat) : Word := BitVec.ofNat 32 ((w % 2 ^ nbits) / 2 ^ (32 * k))

/-- What the decoder reads from the instruction whose bits are w, bits from nbits on being zero. -/
def decodeTableWord (nbits w : Nat) : Option Instr :=
  match decode (tableGranule nbits w 0) (tableGranule nbits w 1) (tableGranule nbits w 2) with
  | .ok i => some i
  | .error _ => none

end Sys2Proof
end

