-- ==== Sys2Proof/Machine/Flags.lean ====
section
/-! DEFINITION. Bit fields, the status registers of a slice (spec R15 to R24), poison records (R28), comparison
conditions (R91, R102, R310). -/

namespace Sys2Proof.Machine

open Sys2Proof

/-- Bits [lo + n - 1 : lo] of a word as a number. -/
def bits {w : Nat} (x : BitVec w) (lo n : Nat) : Nat := (x.toNat / 2 ^ lo) % 2 ^ n

/-- The word with bits [lo + n - 1 : lo] replaced by v. -/
def setBits {w : Nat} (x : BitVec w) (lo n v : Nat) : BitVec w :=
  BitVec.ofNat w (x.toNat - ((x.toNat / 2 ^ lo) % 2 ^ n) * 2 ^ lo + (v % 2 ^ n) * 2 ^ lo)

/-- The word with bit i set or cleared. -/
def setBit {w : Nat} (x : BitVec w) (i : Nat) (b : Bool) : BitVec w :=
  if b then x ||| BitVec.ofNat w (2 ^ i) else x &&& ~~~(BitVec.ofNat w (2 ^ i))

/-- The mask of lanes 0 to 3 for which f holds (R13). -/
def maskOf (f : Nat → Bool) : BitVec 4 :=
  BitVec.ofNat 4 ((if f 0 then 1 else 0) + (if f 1 then 2 else 0) + (if f 2 then 4 else 0) + (if f 3 then 8 else 0))

/-! ## STATUS (R19), FARSTAT (R21), POISON (R22), TRAPEN (R23) -/

/-- Is the slice in trap mode (R217, R224)? -/
def Slice.trapMode (x : Slice) : Bool := x.frame.isSome

def stUniformMiss : Nat := 0
def stFenceClamped : Nat := 1
def stWftUnreg : Nat := 2
def stAbsent : Nat := 5

/-- Setting a sticky bit of STATUS. -/
def Slice.stick (x : Slice) (i : Nat) : Slice := { x with sticky := setBit x.sticky i true }

/-- TRAPEN as it acts: zero in trap mode (R224). -/
def Slice.trapOn (x : Slice) (i : Nat) : Bool := x.trapen.getLsbD i && !x.trapMode

def teUniformMiss : Nat := 1
def tePoison : Nat := 0
def teFarErr : Nat := 2
def teFenceClamp : Nat := 3
def teWftOverflow : Nat := 4
def teCopyFault : Nat := 5

/-- The FARSTAT bits of the failure kinds (R21, R170). -/
def farTimeout : Nat := 0
def farNoPeer : Nat := 1
def farDenied : Nat := 2
def farFault : Nat := 3

/-- A COUNT of FARSTAT raised by n, to at most 255 (R21). -/
def raiseCount (w : Word) (n : Nat) : Word := setBits w 16 8 (min 255 (bits w 16 8 + n))

/-- What the hardware has set in a cycle so far (R24). -/
def Slice.hwAt (x : Slice) (now : Nat) : HwSet :=
  if x.hw.cycle = now then x.hw else ⟨now, 0, 0, x.farstat, none, x.poison, x.poison.getLsbD 10, x.hw.wrote⟩

/-- A failed far request recorded in FARSTAT: its bit, and COUNT rising to at most 255 (R21, R24, R170). -/
def Slice.farFail (x : Slice) (bit now : Nat) : Slice :=
  let h := x.hwAt now
  { x with
    farstat := raiseCount (setBit x.farstat bit true) 1
    hw := { h with far := setBit h.far bit true, count := h.count + 1 } }

/-- A record of POISON (R22): the lanes, the cause (0 dead register, 1 uncorrectable error), the class (0 v, 1 s) and the register. -/
def poisonRecord (lanes : BitVec 4) (cause : Bool) (cls : BitVec 2) (reg : BitVec 8) : Word :=
  0#16 ++ (lanes ++ (BitVec.ofBool cause ++ (1#1 ++ (cls ++ reg))))

/-- A record of the first poison read since V was last clear (R22, R28). A later one leaves the record as it is. -/
def Slice.notePoison (x : Slice) (lanes : BitVec 4) (cause : Bool) (cls : BitVec 2) (reg : BitVec 8) : Slice :=
  if x.poison.getLsbD 10 then x else { x with poison := poisonRecord lanes cause cls reg }

/-- A record of poison that the hardware makes in a cycle apart from the slice's instructions. It is made when V was clear as the
cycle began or is clear after the SSET of that cycle, and replaces what that SSET wrote (R24). -/
def Slice.notePoisonHw (x : Slice) (now : Nat) (lanes : BitVec 4) (cause : Bool) (cls : BitVec 2) (reg : BitVec 8) : Slice :=
  let h := x.hwAt now
  let r := poisonRecord lanes cause cls reg
  match h.poison with
  | some _ => x
  | none => { x with
      poison := if !x.poison.getLsbD 10 ∨ (h.wrote = now + 1 ∧ !h.held) then r else x.poison
      hw := { h with poison := some r } }

/-- A write to FPMODE: [9:0], an RM of 000 or 111 stored as 001 (R15, R20). -/
def fpmodeWrite (w : Word) : Word :=
  let x := w &&& 0x3FF
  if bits x 0 3 = 0 ∨ bits x 0 3 = 7 then setBits x 0 3 1 else x

/-- A fairness period: values 0 to 15 become 16 (R16). -/
def fairWrite (w : BitVec 16) : BitVec 16 := if w.toNat < 16 then 16 else w

/-- An LFSR state with zero replaced (R18). -/
def lfsrFix (w : Word) : Word := if w = 0 then 1 else w

/-! ## Conditions -/

/-- The scalar conditions of R102, by FN6. -/
def scmpHolds (c : Nat) (a b : Word) : Bool :=
  match c with
  | 0 => decide (a = b)
  | 1 => decide (a ≠ b)
  | 2 => decide (a.toInt < b.toInt)
  | 3 => decide (a.toInt ≤ b.toInt)
  | 4 => decide (b.toInt < a.toInt)
  | 5 => decide (b.toInt ≤ a.toInt)
  | 6 => decide (a.toNat < b.toNat)
  | 7 => decide (a.toNat ≤ b.toNat)
  | 8 => decide (b.toNat < a.toNat)
  | _ => decide (b.toNat ≤ a.toNat)

/-- The conditions of ICMP on exact integers (R91), by EXT8 [2:0]. -/
def icmpHolds (c : Nat) (a b : Int) : Bool :=
  match c with
  | 0 => decide (a = b)
  | 1 => decide (a ≠ b)
  | 2 => decide (a < b)
  | 3 => decide (a ≤ b)
  | 4 => decide (b < a)
  | _ => decide (b ≤ a)

/-- The conditions of WAITV (R313): .eq, .ne, .gen, .ltn. -/
def waitvHolds (c : BitVec 2) (x b : Word) : Bool :=
  match c.toNat with
  | 0 => decide (x = b)
  | 1 => decide (x ≠ b)
  | 2 => decide (b.toNat ≤ x.toNat)
  | _ => decide (x.toNat < b.toNat)

/-! ## Tokens (R173) -/

/-- The token state word of R173. -/
def Token.word (t : Token) : Word :=
  BitVec.ofNat 16 t.count ++ (t.code ++ (0#6 ++ (BitVec.ofBool t.err ++ BitVec.ofBool (decide (t.count = 0)))))

/-- bind of R173. -/
def Token.bind (t : Token) : Token :=
  if t.count = 0 then ⟨1, 0, false⟩ else { t with count := t.count + 1 }

/-- finish of R173, with error code e (0: none). -/
def Token.finish (t : Token) (e : BitVec 8) : Token :=
  let t1 : Token := if e ≠ 0 ∧ !t.err then { t with err := true, code := e } else t
  { t1 with count := t1.count - 1 }

def Team.token (t : Team) (j : Nat) : Token := aget Token.reset t.tokens j
def Team.modToken (t : Team) (j : Nat) (f : Token → Token) : Team :=
  { t with tokens := aset Token.reset t.tokens j (f (t.token j)) }

/-- Every token of the mask has DONE or ERR (R175). -/
def Team.tokensMet (t : Team) (mask : BitVec 8) : Bool :=
  (List.range 8).all (fun j => !mask.getLsbD j || decide ((t.token j).count = 0) || (t.token j).err)

/-! ## TRAPVEC and PRIO (R16) -/

/-- A write to TRAPVEC or PRIO takes effect. -/
def Team.applyPend (t : Team) (e : Nat × Bool × Word) : Team :=
  if e.2.1 then { t with trapvec := e.2.2 } else { t with prio := e.2.2.extractLsb' 0 3 }

/-- The team as its slices see it in a cycle: writes that are due have taken effect. -/
def Team.seenBy (t : Team) (now : Nat) : Team :=
  { (t.pend.filter (fun e => decide (e.1 ≤ now))).foldl Team.applyPend t with pend := t.pend.filter (fun e => decide (now < e.1)) }

/-- The team with every write in effect, as a save or a swap finds it once its instructions are complete. -/
def Team.settled (t : Team) : Team := { t.pend.foldl Team.applyPend t with pend := [] }

/-! ## Partition registers (R377, R363, R383, R343) -/

def Part.en (p : Part) : Bool := p.partcfg.getLsbD 63
def Part.sclamp (p : Part) : Bool := p.partcfg.getLsbD 62
def Part.ctrap (p : Part) : Bool := p.partcfg.getLsbD 61
def Part.shadowExp (p : Part) : Nat := bits p.partcfg 52 4
def Part.base (p : Part) : Nat := bits p.partcfg 0 4
def Part.limit (p : Part) : Nat := bits p.partcfg 4 4
def Part.colours (p : Part) : BitVec 16 := p.partcfg.extractLsb' 16 16

/-- The far timeout in ns: 0 acts as 1 us, values above 10,000 us as 10,000 us (R377). -/
def Part.farTimeoutNs (p : Part) : Nat :=
  let x := bits p.partcfg 38 14
  1000 * (if x = 0 then 1 else if 10000 < x then 10000 else x)

/-- The watchdog threshold in cycles; none when disabled (R377). -/
def Part.wdThreshold (p : Part) : Option Nat :=
  let x := bits p.partcfg 32 6
  if x = 63 then none else some (2 ^ (if x < 20 then 20 else x))

/-- Clusters of the partition's own range (R377). -/
def Part.inRange (p : Part) (cl : Nat) : Bool := p.en && decide (p.base ≤ cl ∧ cl ≤ p.limit)

/-- Does partition p hold this cluster: its own and not lent out, or borrowed (R377, R381)? -/
def State.holdsCluster (s : State) (p cl : Nat) : Bool :=
  if (s.cl cl).lent = 0 then (s.pt p).inRange cl
  else decide ((s.cl cl).borrower.toNat = p)

/-- The partition that holds a cluster, when one does. -/
def State.partOfCluster (s : State) (cl : Nat) : Option Nat :=
  (List.range 16).find? (fun p => s.holdsCluster p cl)

/-- Q in ns (R343). -/
def quantumNs (w : Word) : Nat :=
  let x := bits w 0 24
  1000 * (if x < 100 then 100 else if 100000 < x then 100000 else x)

/-- PREQ as the current job reads it. -/
def State.preq (s : State) (p : Nat) : Bool := (s.pt p).preq

end Sys2Proof.Machine
end

