-- ==== Sys2Proof/Machine/Translate.lean ====
section
/-! DEFINITION. Far addresses, translation, colours, tags and peers: where a far address leads (spec R166, R170, R280 to
R288, R378, R397 to R403, R409, R410). -/

namespace Sys2Proof.Machine

open Sys2Proof

/-! ## Translation (R280 to R283) -/

/-- Why a translation fails (R282, R283). -/
inductive XFault where
  | notPresent | malformed | permission
  deriving DecidableEq, Repr

/-- A leaf as the walk returns it: physical address of the byte, tag, permissions, bytes of the page. -/
structure Mapped where
  pa : Nat
  tag : BitVec 20
  r : Bool
  w : Bool
  a : Bool
  size : Nat
  deriving DecidableEq, Repr

/-- Index of a virtual address at a level (R282). -/
def walkIndex (va lvl : Nat) : Nat :=
  match lvl with
  | 0 => (va / 2 ^ 39) % 64
  | 1 => (va / 2 ^ 30) % 512
  | 2 => (va / 2 ^ 21) % 512
  | _ => (va / 2 ^ 12) % 512

/-- Page size of a leaf at a level (R282). -/
def leafSize (lvl : Nat) (s64 : Bool) : Nat :=
  match lvl with
  | 1 => 2 ^ 30
  | 2 => 2 ^ 21
  | _ => if s64 then 2 ^ 16 else 2 ^ 12

/-- The walk from the table at t (R282); `levels` are the levels still to go, in order. -/
def State.walkFrom (s : State) (die va : Nat) : List Nat → Nat → Except XFault Mapped
  | [], _ => .error .malformed
  | lvl :: rest, t =>
    let e := s.dword (hbmKey die ((t + 8 * walkIndex va lvl) % 2 ^ 37))
    let frame := bits e 12 32
    let s64 := e.getLsbD 5
    if !e.getLsbD 0 then .error .notPresent
    else if bits e 6 6 ≠ 0 then .error .malformed
    else if e.getLsbD 4 then
      if lvl = 0 ∨ (s64 ∧ lvl ≠ 3) then .error .malformed
      else if (frame * 4096) % leafSize lvl s64 ≠ 0 then .error .malformed
      else
        let pa := frame * 4096 + va % leafSize lvl s64
        if 2 ^ 37 ≤ pa then .error .malformed
        else .ok ⟨pa, e.extractLsb' 44 20, e.getLsbD 1, e.getLsbD 2, e.getLsbD 3, leafSize lvl s64⟩
    else if bits e 44 20 ≠ 0 ∨ s64 ∨ e.getLsbD 3 ∨ e.getLsbD 2 ∨ e.getLsbD 1 then .error .malformed
    else s.walkFrom die va rest (frame * 4096)

/-- The die that owns a virtual address (R278). -/
def ownerDie (va : Nat) : Nat := (va / 2 ^ 45) % 8

/-- Translation by the tables in memory, with the eight root words (R282). -/
def State.walk (s : State) (rootw : List DWord) (va : Nat) : Except XFault Mapped :=
  let root := rootw.getD (ownerDie va) 0
  if !root.getLsbD 0 then .error .notPresent
  else s.walkFrom (ownerDie va) va [0, 1, 2, 3] (bits root 12 32 * 4096)

/-- The translation that a die holds for a page (R284). -/
def State.cachedLeaf (s : State) (p : Nat) (job : BitVec 16) (va : Nat) : Option Leaf :=
  (s.di (ownerDie va)).xlats.find? (fun l => decide (l.part = p ∧ l.job = job ∧ l.vpn.toNat = va / 4096))

/-- A held translation as the walk would have returned it. -/
def Leaf.mapped (l : Leaf) (va : Nat) : Mapped := ⟨l.pa.toNat + va % 4096, l.tag, l.r, l.w, l.a, l.size⟩

/-- Tags other than one under which the memory-side cache has filled the line of an address (R288). -/
def State.otherTags (s : State) (p : Nat) (job : BitVec 16) (va : Nat) (tag : BitVec 20) : List (BitVec 20) :=
  ((s.di (ownerDie va)).tags.filter (fun e => decide (e.part = p ∧ e.job = job ∧ e.vpn.toNat = va / 4096 ∧
    e.line.toNat = va / 64 % 64 ∧ e.tag ≠ tag))).map PageTag.tag

/-- The tag beside the line of a request: its own, or one under which that line has been filled before (R288). -/
def State.storedTag (s : State) (p : Nat) (job : BitVec 16) (va : Nat) (tag : BitVec 20) : BitVec 20 :=
  match s.otherTags p job va tag with
  | [] => tag
  | l => (tag :: l).getD (Config.storedTag s.freeNo (va / 64) % (l.length + 1)) tag

/-- The translation a request uses: the held one or, where the tables have changed since, either (R284); with the tag beside its
line. -/
def State.translate (s : State) (p : Nat) (j : Job) (va : Nat) : Except XFault (Mapped × BitVec 20) :=
  let w := s.walk j.rootw va
  let x : Except XFault Mapped := match s.cachedLeaf p j.job va with
    | none => w
    | some l => if w = .ok (l.mapped va) ∨ !Config.usesMemory s.freeNo (va / 64) then .ok (l.mapped va) else w
  match x with
  | .error e => .error e
  | .ok m => .ok (m, s.storedTag p j.job va m.tag)

/-- Translation with the permissions an access needs (R283). -/
def State.translateFor (s : State) (p : Nat) (j : Job) (va : Nat) (r w a : Bool) : Except XFault (Mapped × BitVec 20) :=
  match s.translate p j va with
  | .error e => .error e
  | .ok (m, t) => if (r && !m.r) || (w && !m.w) || (a && !m.a) then .error .permission else .ok (m, t)

/-! ## Clearance (R286, R287) -/

/-- A virtual address held in a far address of SPACE 00 (R166), when the reserved bits are zero. -/
def hbmVa (addr : DWord) : Option Nat := if bits addr 48 16 = 0 then some (bits addr 0 48) else none

/-- Far address of the 64-byte line of a bitmap that holds a tag's bit. -/
def bitmapLine (clear : DWord) (tag : BitVec 20) : DWord := clear + BitVec.ofNat 64 (tag.toNat / 512 * 64)

/-- The bitmap line as memory holds it, read through translation without a tag check (R286); none when it cannot be read, as where
its address is no HBM address. -/
def State.readLine (s : State) (p : Nat) (j : Job) (line : DWord) : Option (List Byte) :=
  match hbmVa line with
  | none => none
  | some va => match s.translateFor p j va true false false with
  | .ok (m, _) => if (s.unreported (hbmKey (ownerDie va) m.pa) 64) = [] ∧
        !(List.range 16).any (fun i => s.isPoisoned (hbmKey (ownerDie va) m.pa + 4 * i))
      then some (s.bytes (hbmKey (ownerDie va) m.pa) 64) else none
  | .error _ => none

/-- The line that the die which checks a tag holds in its clearance cache (R286). -/
def State.cachedLine (s : State) (die p : Nat) (job : BitVec 16) (line : DWord) : Option (List Byte) :=
  ((s.di die).clears.find? (fun l => decide (l.part = p ∧ l.job = job ∧ l.va = line))).map ClearLine.bytes

/-- The line a check uses: the held one or, where the bitmap has changed since, either (R286). None when the line
cannot be read. -/
def State.lineFor (s : State) (die p : Nat) (j : Job) (line : DWord) : Option (List Byte) :=
  match s.cachedLine die p j.job line with
  | none => s.readLine p j line
  | some l => if s.readLine p j line = some l then some l
      else if Config.usesMemory s.freeNo line.toNat then s.readLine p j line else some l

/-- The clearance of a launch header: a pointer of 0 is no bitmap and clears no tag (R335). -/
def headerBitmap (clear : DWord) : Option DWord := if clear = 0 then none else some clear

/-- Is the tag cleared by the bitmap (R286)? Without a bitmap none is. -/
def State.tagCleared (s : State) (die p : Nat) (j : Job) (bitmap : Option DWord) (tag : BitVec 20) : Bool :=
  match bitmap with
  | none => false
  | some clear => match s.lineFor die p j (bitmapLine clear tag) with
    | none => false
    | some l => (l.getD (tag.toNat / 8 % 64) 0).getLsbD (tag.toNat % 8)

/-! ## Colours (R378) -/

/-- The colours of a partition in rising order. -/
def colourList (c : BitVec 16) : List Nat := (List.range 16).filter (fun k => c.getLsbD k)

/-- Physical byte of a coloured offset. -/
def colourByte (cs : List Nat) (o : Nat) : Nat :=
  64 * (16 * (o / 64 / cs.length) + cs.getD (o / 64 % cs.length) 0) + o % 64

/-! ## Where a far address leads -/

/-- Why a far request fails (R170). -/
inductive FarErr where
  | fault | partition | noPeer | timeout | denied
  deriving DecidableEq, Repr

/-- A place in this package, a place in another package, or a failure with the page's tag. -/
inductive Target where
  | key (k : Nat)
  | peer (peer : BitVec 20) (woff : BitVec 42)
  | fail (e : FarErr) (tag : BitVec 20)
  deriving DecidableEq, Repr

/-- Who asks: the partition, its job, and the clearance that applies, a bitmap or none; without a clearance no tag is checked. -/
structure Asker where
  part : Nat
  job : Job
  clear : Option (Option DWord)
  deriving DecidableEq, Repr

/-- A job that holds nothing. -/
def Job.absent : Job :=
  { job := 0, gen := 0, codeva := 0, root := 0, rootw := [], peertab := 0, evq := 0, save := 0
    gridCtr := 0, win := none, prins := [], urgent := false }

/-- The current job of a partition. -/
def State.jobOf (s : State) (p : Nat) : Job := ((s.pt p).job).getD Job.absent

/-- The asker for a team's own accesses (R287). -/
def State.teamAsker (s : State) (t : Nat) : Asker :=
  let tm := s.tm t
  ⟨tm.part, s.jobOf tm.part, some (headerBitmap tm.header.clear)⟩

/-- The tag of the page of a virtual address; 0 where no leaf is reached (R289). -/
def State.leafTag (s : State) (q : Asker) (va : Nat) : BitVec 20 :=
  match s.translate q.part q.job va with
  | .ok (m, _) => m.tag
  | .error _ => 0

/-- An HBM access (R282, R283, R287, R288). -/
def State.resolveHbm (s : State) (q : Asker) (va : Nat) (r w a : Bool) : Target :=
  match s.translateFor q.part q.job va r w a with
  | .error _ => .fail .fault (s.leafTag q va)
  | .ok (m, t2) =>
    let d := ownerDie va
    let ok := match q.clear with
      | none => true
      | some c => s.tagCleared d q.part q.job c m.tag && (decide (t2 = m.tag) || s.tagCleared d q.part q.job c t2)
    if ok then .key (hbmKey d m.pa) else .fail .denied m.tag

/-- An on-package scratchpad access (R166, R378): the low 40 bits of the address. -/
def State.resolveSp (s : State) (q : Asker) (low : Nat) : Target :=
  let die := (low / 2 ^ 37) % 8
  let kind := (low / 2 ^ 35) % 4
  let clus := (low / 2 ^ 34) % 2
  let off := low % 2 ^ 34
  let cs := colourList (s.pt q.part).colours
  match kind with
  | 0 =>
    if 2 ^ 27 ≤ off ∨ Config.coreSpBytes ≤ off % 2 ^ 19 then .fail .fault 0
    else if s.holdsCluster q.part (2 * die + clus) then
      .key (coreKey ((2 * die + clus) * 256 + (off / 2 ^ 19) % 256) (off % 2 ^ 19))
    else .fail .partition 0
  | 1 => if cs.length * 0x180000 ≤ off then .fail .fault 0 else .key (clusterKey (2 * die + clus) (colourByte cs off))
  | 2 => if clus ≠ 0 ∨ cs.length * 0x200000 ≤ off then .fail .fault 0 else .key (dieKey die (colourByte cs off))
  | _ => .fail .fault 0

/-- The place in this package that an address names, SPACE 10 apart. -/
def State.resolveHere (s : State) (q : Asker) (addr : DWord) (r w a : Bool) : Target :=
  match bits addr 62 2 with
  | 0 => match hbmVa addr with
    | none => .fail .fault 0
    | some va => s.resolveHbm q va r w a
  | 1 => if bits addr 40 22 ≠ 0 then .fail .fault 0 else s.resolveSp q (bits addr 0 40)
  | _ => .fail .fault 0

/-- The far address in the target package that a window offset names (R409). -/
def windowAddr (j : Job) (woff : BitVec 42) : Option DWord :=
  match j.win with
  | none => none
  | some win =>
    if !woff.getLsbD 41 then
      let o := bits woff 0 41
      let sl := bits win 58 6
      if sl < 12 ∨ 41 < sl ∨ 2 ^ sl ≤ o then none
      else some (BitVec.ofNat 64 ((bits win 12 36 * 4096 + o) % 2 ^ 48))
    else if woff.getLsbD 40 ∨ !win.getLsbD 0 then none
    else some (BitVec.ofNat 64 (2 ^ 62 + bits woff 0 40))

/-- A peer access as its target package settles it for a principal (R410), generations and deadlines aside. -/
def State.resolveAsPeer (s : State) (p : Nat) (j : Job) (principal : BitVec 16) (woff : BitVec 42) (r w a : Bool) :
    Target :=
  match j.prins.find? (fun e => decide (e.1 = principal)) with
  | none => .fail .denied 0
  | some (_, ptr) => match windowAddr j woff with
    | none => .fail .fault 0
    | some addr => match s.resolveHere ⟨p, j, some (some ptr)⟩ addr r w a with
      | .fail .partition t => .fail .fault t
      | x => x

/-! ## Peers (R397 to R399, R403) -/

def State.selfPeer (s : State) : BitVec 20 := s.podcfg.extractLsb' 0 20

/-- Is local peer n populated, and enabled (R398)? -/
def State.popBit (s : State) (n : Nat) : Bool := s.podcfg.getLsbD (32 + n)
def State.enBit (s : State) (n : Nat) : Bool := s.podcfg.getLsbD (48 + n)

/-- Is the link to local peer n usable (R403)? -/
def State.linkUp (s : State) (n : Nat) : Bool := decide ((s.po n).state = 2) && !s.rot.recovery

/-- The detour to local peer n (R403). -/
def State.detour (s : State) (n : Nat) : Option Nat :=
  (List.range 16).find? (fun k => decide (k ≠ n ∧ k ≠ bits s.podcfg 0 4) && s.popBit k && s.enBit k && s.linkUp k &&
    (s.po k).report.getLsbD n)

/-- The scale-out ports that are enabled and up (R411). -/
def State.ethOk (s : State) : List Nat :=
  (List.range 8).filter (fun j => (aget (0 : Byte) s.socfg 0x10).getLsbD j && s.ethUp.getLsbD j && !s.rot.recovery)

/-- How packets for a peer leave (R397, R403). -/
inductive Route where
  | crossbar
  | direct (port : Nat)
  | via (k : Nat)
  | scaleOut
  | none
  deriving DecidableEq, Repr

def State.route (s : State) (peer : BitVec 20) : Route :=
  if peer = s.selfPeer then .crossbar
  else if bits peer 4 16 = bits s.podcfg 4 16 then
    let n := bits peer 0 4
    if s.linkUp n then .direct n
    else match s.detour n with
      | some k => .via k
      | none => .none
  else if s.ethOk = [] then .none
  else .scaleOut

/-- The check of R399 at the source, its rows in their order: this package lies in its own pod. -/
def State.peerReachable (s : State) (peer : BitVec 20) : Bool :=
  if bits peer 4 16 = bits s.podcfg 4 16 then
    s.popBit (bits peer 0 4) && s.enBit (bits peer 0 4) && decide (s.route peer ≠ .none)
  else decide (s.route peer ≠ .none)

/-- Where a far address leads for an asker (R166, R170, R399). An access to this package's own windows goes through
the crossbar with the checks of the target (R410). -/
def State.resolve (s : State) (q : Asker) (addr : DWord) (r w a : Bool) : Target :=
  if bits addr 62 2 = 2 then
    let peer := addr.extractLsb' 42 20
    let woff := addr.extractLsb' 0 42
    if !s.peerReachable peer then .fail .noPeer 0
    else if peer = s.selfPeer then s.resolveAsPeer q.part q.job q.job.job woff r w a
    else .peer peer woff
  else s.resolveHere q addr r w a

/-! ## What a check of a tag leaves behind (R286, R288) -/

/-- The permissions that an access needs (R283). -/
structure Needs where
  r : Bool
  w : Bool
  a : Bool
  deriving DecidableEq, Repr

/-- The side that checks an access, with the far address it checks there: this package's own window is checked for the job as its
own principal (R410). The last component says so. -/
def State.checkSide (s : State) (q : Asker) (addr : DWord) : Asker × DWord × Bool :=
  if bits addr 62 2 = 2 ∧ addr.extractLsb' 42 20 = s.selfPeer then
    match q.job.prins.find? (fun e => decide (e.1 = q.job.job)), windowAddr q.job (addr.extractLsb' 0 42) with
    | some (_, ptr), some a => (⟨q.part, q.job, some (some ptr)⟩, a, true)
    | _, _ => (q, addr, true)
  else (q, addr, false)

/-- An HBM access that reaches a leaf with its permissions: the virtual address, the leaf and the stored tag. -/
def State.leafOf (s : State) (q : Asker) (addr : DWord) (n : Needs) : Option (Nat × Mapped × BitVec 20) :=
  match hbmVa addr with
  | none => none
  | some va => match s.translateFor q.part q.job va n.r n.w n.a with
    | .error _ => none
    | .ok (m, t) => some (va, m, t)

/-- The bitmap lines that a check reads: that of its own tag, and that of the stored tag when it differs. -/
def checkLines (c : DWord) (tag stored : BitVec 20) : List DWord :=
  bitmapLine c tag :: (if stored = tag then [] else [bitmapLine c stored])

/-- The lines that the check of an access needs and cannot read. -/
def State.unreadLines (s : State) (q : Asker) (addr : DWord) (n : Needs) : List DWord :=
  match q.clear, s.leafOf q addr n with
  | some (some c), some (va, m, t) => (checkLines c m.tag t).filter (fun l => decide (s.lineFor (ownerDie va) q.part q.job l = none))
  | _, _ => []

/-- A bitmap line that a check has read is held by the checking die (R286). -/
def State.holdLine (s : State) (q : Asker) (die : Nat) (line : DWord) : State :=
  match s.cachedLine die q.part q.job.job line, s.readLine q.part q.job line with
  | none, some l => s.modDi die (fun d => { d with clears := ⟨q.part, q.job.job, line, l⟩ :: d.clears })
  | _, _ => s

/-- Is this the note of a line that a job fills under the tag of its page? -/
def PageTag.isFor (x : PageTag) (q : Asker) (va : Nat) (m : Mapped) : Bool :=
  decide (x.part = q.part ∧ x.job = q.job.job ∧ x.vpn.toNat = va / 4096 ∧ x.line.toNat = va / 64 % 64 ∧ x.tag = m.tag ∧ x.size = m.size)

/-- The tag under which the line of an access is filled is noted (R288). -/
def State.noteTag (s : State) (q : Asker) (va : Nat) (m : Mapped) : State :=
  if (s.di (ownerDie va)).tags.any (fun x => x.isFor q va m) then s
  else s.modDi (ownerDie va) (fun d => { d with
    tags := ⟨q.part, q.job.job, BitVec.ofNat 36 (va / 4096), BitVec.ofNat 6 (va / 64), m.tag, m.size⟩ :: d.tags })

/-- The clearance lines that a check has read are held by the checking die, and the tag of its line is noted. -/
def State.keepLine (s : State) (q : Asker) (addr : DWord) (n : Needs) : State :=
  match s.leafOf q addr n with
  | none => s
  | some (va, m, t) =>
    let s1 := match q.clear with
      | some (some c) => (checkLines c m.tag t).foldl (fun (u : State) l => u.holdLine q (ownerDie va) l) s
      | _ => s
    s1.noteTag q va m

/-- The tag of the page that an access names, 0 where none applies (R289). -/
def State.pageTag (s : State) (q0 : Asker) (addr : DWord) : BitVec 20 :=
  let c := s.checkSide q0 addr
  match hbmVa c.2.1 with
  | none => 0
  | some va => s.leafTag c.1 va

/-- The keys of the entries that a walk reads, from the table at t on. -/
def State.walkKeysFrom (s : State) (die va : Nat) : List Nat → Nat → List Nat
  | [], _ => []
  | lvl :: rest, t =>
    let k := hbmKey die ((t + 8 * walkIndex va lvl) % 2 ^ 37)
    let e := s.dword k
    k :: (if e.getLsbD 0 && !e.getLsbD 4 then s.walkKeysFrom die va rest (bits e 12 32 * 4096) else [])

/-- The keys of the entries that the walk of an access reads, when no translation is held. -/
def State.walkKeys (s : State) (q : Asker) (addr : DWord) : List Nat :=
  match hbmVa addr with
  | none => []
  | some va =>
    let root := q.job.rootw.getD (ownerDie va) 0
    if (s.cachedLeaf q.part q.job.job va).isSome ∨ !root.getLsbD 0 then []
    else s.walkKeysFrom (ownerDie va) va [0, 1, 2, 3] (bits root 12 32 * 4096)

end Sys2Proof.Machine
end

