-- ==== Sys2Proof/Machine/Events.lean ====
section
/-! DEFINITION. Event records and the rings they are appended to (spec R228, R289, R390 to R392). -/

namespace Sys2Proof.Machine

open Sys2Proof

/-- The bytes of a 32-byte record. -/
def recBytes (r : BitVec 256) : List Byte := natLe 32 r.toNat

/-- A number one greater, saturating at the top of w bits. -/
def satInc {w : Nat} (x : BitVec w) : BitVec w := if x = BitVec.allOnes w then x else x + 1

/-- MLOGST.LOST rises by one (R392). -/
def State.lose (s : State) : State := { s with mlogst := satInc s.mlogst }

/-- Append a record to a ring whose descriptor stands at a key and whose records the function places (R390). -/
def State.ringPut (s : State) (desc : Nat) (place : Nat → Option Nat) (r : List Byte) : State :=
  let nrec := s.num (desc + 8) 4
  let prod := s.num (desc + 16) 4
  let cons := s.num (desc + 20) 4
  let dropped := s.putWord (desc + 24) (satInc (s.word (desc + 24)))
  if nrec < 64 ∨ 2 ^ 24 < nrec ∨ 2 ^ (Nat.log2 nrec) ≠ nrec ∨ s.num desc 8 % 32 ≠ 0 then dropped
  else if nrec ≤ (prod + 2 ^ 32 - cons) % 2 ^ 32 then dropped
  else match place (s.num desc 8 + 32 * (prod % nrec)) with
    | none => dropped
    | some k => (s.putMem k r).putWord (desc + 16) (BitVec.ofNat 32 (prod + 1))

/-- Append to the event queue of a partition's current job (R390). -/
def State.appendEvent (s : State) (p : Nat) (r : BitVec 256) : State :=
  match (s.pt p).job with
  | none => s.lose
  | some j =>
    let va := bits j.evq 0 48
    if va % 64 ≠ 0 then s.lose
    else match s.translateFor p j va true true false with
      | .error _ => s.lose
      | .ok (m, _) => s.ringPut (hbmKey (ownerDie va) m.pa)
          (fun a => match s.translateFor p j (a % 2 ^ 48) false true false with
            | .error _ => none
            | .ok (x, _) => some (hbmKey (ownerDie (a % 2 ^ 48)) x.pa)) (recBytes r)

/-- Append to a ring that a register in the layout of R392 locates. -/
def State.appendAt (s : State) (reg : DWord) (r : BitVec 256) : State :=
  if !reg.getLsbD 0 then s.lose
  else
    let die := bits reg 37 3
    s.ringPut (hbmKey die (bits reg 12 25 * 4096)) (fun a => if a + 32 ≤ 2 ^ 37 then some (hbmKey die a) else none)
      (recBytes r)

/-- The management log (R392). -/
def State.appendLog (s : State) (r : BitVec 256) : State := s.appendAt s.mlog r

/-- The telemetry ring of a partition (R390, R392). -/
def State.appendTelem (s : State) (p : Nat) (r : BitVec 256) : State := s.appendAt (s.pt p).telem r

/-- Fields JOB, GEN, TEAM, CORE, CLUSTER and DIE of R289 for a team, and for no team. -/
def whoBits (job : BitVec 16) (gen : BitVec 12) (t : Nat) (die : Nat) : BitVec 47 :=
  job ++ (gen ++ (BitVec.ofNat 4 (slotOfTeam t) ++ (BitVec.ofNat 8 (coreOfTeam t) ++
    (BitVec.ofNat 4 (clusterOfCore (coreOfTeam t)) ++ BitVec.ofNat 3 die))))

/-- A memory event (R289). -/
def memRecord (addr : DWord) (tag : BitVec 20) (agent kind : BitVec 4) (who : BitVec 47) (peer : BitVec 20)
    (count : Nat) (time : DWord) : BitVec 256 :=
  addr ++ (tag ++ (agent ++ (kind ++ (0#4 ++ (who ++ (0#5 ++ (peer ++ (BitVec.ofNat 8 count ++ (0#16 ++ time)))))))))

/-- A memory event of a team appended to its job's queue. -/
def State.memEvent (s : State) (t : Nat) (addr : DWord) (tag : BitVec 20) (agent kind : BitVec 4) : State :=
  let tm := s.tm t
  s.appendEvent tm.part (memRecord addr tag agent kind (whoBits tm.job tm.gen t (dieOfCore (coreOfTeam t))) s.selfPeer 1
    s.nsWord)

/-- A memory event of no team (agents 7 and 8), recorded by a die. -/
def State.memEventJob (s : State) (p die : Nat) (addr : DWord) (tag : BitVec 20) (agent kind : BitVec 4)
    (peer : BitVec 20) : State :=
  let j := s.jobOf p
  s.appendEvent p (memRecord addr tag agent kind (whoBits j.job j.gen 0 die) peer 1 s.nsWord)

/-- The die where a place of this package's memories is checked (R287): the owner of an HBM address, the die of a scratchpad. -/
def placeDie (addr : DWord) : Nat := if bits addr 62 2 = 0 then ownerDie (bits addr 0 48) else bits addr 37 3

/-- The die that records a denial of a team: that which checks it, or the team's own for an access to a peer (R289). -/
def denialDie (t : Nat) (addr : DWord) : Nat := if bits addr 62 2 = 2 then dieOfCore (coreOfTeam t) else placeDie addr

/-- The die where an offset of a job's window is checked. -/
def windowPlaceDie (j : Job) (woff : BitVec 42) : Nat := ((windowAddr j woff).map placeDie).getD 0

/-! ## Denials combine (R289) -/

/-- Append one closed record of denials. -/
def State.appendDenial (s : State) (d : Denial) : State :=
  let tm := s.tm d.team
  s.appendEvent tm.part (memRecord d.addr d.tag d.agent 1 (whoBits tm.job tm.gen d.team d.die) s.selfPeer d.count d.time)

/-- Close an open record: it leaves the list and is appended. -/
def State.closeDenial (s : State) (id : Nat) : State :=
  match s.denials.find? (fun d => decide (d.id = id)) with
  | none => s
  | some d => ({ s with denials := s.denials.filter (fun x => decide (x.id ≠ id)) }).appendDenial d

/-- A denial of a team: combined into the open record of its agent and page, or starting one. -/
def State.noteDenial (s : State) (t : Nat) (agent : BitVec 4) (addr : DWord) (tag : BitVec 20) : State :=
  let page := addr >>> 12
  match s.denials.find? (fun d => decide (d.team = t ∧ d.agent = agent ∧ d.page = page ∧
      s.ns < d.time.toNat + 1000 ∧ d.count < 255)) with
  | some d =>
    let s1 := { s with denials := s.denials.map (fun x => if x.id = d.id then { x with count := x.count + 1 } else x) }
    if d.count + 1 = 255 then s1.closeDenial d.id else s1
  | none =>
    { s with
      nextId := s.nextId + 1
      denials := s.denials ++ [⟨s.nextId, t, agent, page, addr, tag, denialDie t addr, 1, s.nsWord⟩] }

/-- A release fence of a slice of the team closes its open records first (R289). -/
def State.closeDenialsOf (s : State) (t : Nat) : State :=
  ((s.denials.filter (fun d => decide (d.team = t))).map Denial.id).foldl State.closeDenial s

/-! ## Poisoned words found (R292) -/

/-- Words of a granule: 8 in HBM, 2 in another memory (R290). -/
def granuleWords (w : Nat) : Nat := if 4 * w < 2 ^ 40 then 8 else 2

/-- The first read that finds each poisoned granule of a range appends an event, of kind 3 for an SRAM and of kind 4 for HBM. -/
def State.foundBy (s : State) (key n : Nat) (event : State → BitVec 4 → State) : State :=
  let firsts := ((s.unreported key n).map (fun w => w / granuleWords w * granuleWords w)).dedup
  firsts.foldl (fun u g =>
    event { u with poisoned := u.poisoned.map (fun (e : Nat × Bool) =>
        if g ≤ e.1 ∧ e.1 < g + granuleWords g then (e.1, false) else e) } (if key < 2 ^ 40 then 4 else 3)) s

/-- Poison found by an agent of a team, in an event with a TAG. -/
def State.noteFoundTag (s : State) (t : Nat) (agent : BitVec 4) (addr : DWord) (tag : BitVec 20) (key n : Nat) : State :=
  s.foundBy key n (fun u kind => u.memEvent t addr tag agent kind)

/-- Poison found at a far address, whose page has the TAG (R289). -/
def State.noteFound (s : State) (t : Nat) (agent : BitVec 4) (addr : DWord) (key n : Nat) : State :=
  s.noteFoundTag t agent addr (s.pageTag (s.teamAsker t) addr) key n

/-! ## Checks of tags (R286 to R288) -/

/-- What an agent's access needs (R283). -/
def agentNeeds (agent : BitVec 4) : Needs :=
  match agent.toNat with
  | 1 | 4 => ⟨false, true, false⟩
  | 2 => ⟨true, true, true⟩
  | _ => ⟨true, false, false⟩

/-- What a check of a tag leaves behind, for an agent that appends its events by a function of their kind and TAG: poisoned entries of
the page tables are found (R292), the lines and the tag are held, and each line that cannot be read has an event of kind 2 (R286). -/
def State.checkedFor (s : State) (q0 : Asker) (addr : DWord) (n : Needs) (event : State → BitVec 4 → BitVec 20 → State) : State :=
  let (q, a, own) := s.checkSide q0 addr
  let note (u : State) (kind : BitVec 4) (tag : BitVec 20) : State :=
    if own then u.memEventJob q.part (placeDie a) addr tag 7 kind s.selfPeer else event u kind tag
  let s1 := if s.poisoned = [] then s else (s.walkKeys q a).foldl (fun u k => u.foundBy k 8 (fun v kind => note v kind 0)) s
  (s1.unreadLines q a n).foldl (fun u _ => note u 2 (s1.pageTag q a)) (s1.keepLine q a n)

/-- What a tag check of a team's access leaves behind. -/
def State.checkedTag (s : State) (t : Nat) (agent : BitVec 4) (addr : DWord) : State :=
  s.checkedFor (s.teamAsker t) addr (agentNeeds agent) (fun u kind tag => u.memEvent t addr tag agent kind)

end Sys2Proof.Machine
end

