-- ==== Sys2Proof/Machine/Float.lean ====
section
/-! DEFINITION. Floating formats, exact values, rounding and the reference procedures (spec R36 to R57, R109 to R126). -/

namespace Sys2Proof.Machine

open Sys2Proof

/-! ## Formats (R38 to R40) -/

/-- The floating formats of R38. -/
inductive Fmt where
  | f64 | f32 | f16 | bf16 | e4m3 | e5m2 | e2m1
  deriving DecidableEq, Repr

def Fmt.ebits : Fmt → Nat
  | .f64 => 11 | .f32 => 8 | .f16 => 5 | .bf16 => 8 | .e4m3 => 4 | .e5m2 => 5 | .e2m1 => 2
def Fmt.mbits : Fmt → Nat
  | .f64 => 52 | .f32 => 23 | .f16 => 10 | .bf16 => 7 | .e4m3 => 3 | .e5m2 => 2 | .e2m1 => 1
def Fmt.bias : Fmt → Int
  | .f64 => 1023 | .f32 => 127 | .f16 => 15 | .bf16 => 127 | .e4m3 => 7 | .e5m2 => 15 | .e2m1 => 1
def Fmt.width (f : Fmt) : Nat := 1 + f.ebits + f.mbits

/-- Encoding of the greatest finite value (R38). -/
def Fmt.maxFin : Fmt → Nat
  | .f64 => 0x7FEFFFFFFFFFFFFF | .f32 => 0x7F7FFFFF | .f16 => 0x7BFF | .bf16 => 0x7F7F | .e4m3 => 0x7E
  | .e5m2 => 0x7B | .e2m1 => 7

/-- Encoding of +∞ where the format has one: the code above the greatest finite value (R38). -/
def Fmt.infEnc (f : Fmt) : Nat := f.maxFin + 1

/-- The canonical NaN; E2M1 has none and gives 0 (R38, R47). -/
def Fmt.nanEnc : Fmt → Nat
  | .f64 => 0x7FF8000000000000 | .f32 => 0x7FC00000 | .f16 => 0x7E00 | .bf16 => 0x7FC0 | .e4m3 => 0x7F
  | .e5m2 => 0x7E | .e2m1 => 0

/-- Does FPMODE flush the format's subnormals (R20, R44)? -/
def Fmt.flushed (fpm : BitVec 10) : Fmt → Bool
  | .f32 => fpm.getLsbD 3 | .f16 => fpm.getLsbD 4 | .bf16 => fpm.getLsbD 5 | .f64 => fpm.getLsbD 6
  | .e4m3 => fpm.getLsbD 7 | .e5m2 => fpm.getLsbD 7 | .e2m1 => false

/-- The element format of a floating type (R66). -/
def fmtOf : Ty → Fmt
  | .f64 => .f64 | .f16x2 => .f16 | .bf16x2 => .bf16 | .e4m3x4 => .e4m3 | .e5m2x4 => .e5m2 | .e2m1x8 => .e2m1
  | _ => .f32

/-! ## Exact values (R7, R39) -/

/-- NaN, an infinity, or a real: m × 2^e with a sign, or, when `st` is set, a magnitude strictly between m × 2^e
and (m + 1) × 2^e. -/
inductive FVal where
  | nan
  | inf (neg : Bool)
  | fin (neg : Bool) (m : Nat) (e : Int) (st : Bool)
  deriving DecidableEq, Repr

/-- `val(b, F)` of R39 and R40, on an encoding as a number. -/
def fval (F : Fmt) (b : Nat) : FVal :=
  let neg := decide (2 ^ (F.ebits + F.mbits) ≤ b % 2 ^ F.width)
  let E := b / 2 ^ F.mbits % 2 ^ F.ebits
  let M := b % 2 ^ F.mbits
  let emax := 2 ^ F.ebits - 1
  if E = 0 then .fin neg M (1 - F.bias - F.mbits) false
  else if E = emax ∧ F = .e4m3 ∧ M = 7 then .nan
  else if E = emax ∧ F ≠ .e4m3 ∧ F ≠ .e2m1 then (if M = 0 then .inf neg else .nan)
  else .fin neg (2 ^ F.mbits + M) (E - F.bias - F.mbits) false

/-- The encoding a flushing format reads: a subnormal becomes a zero of its sign (R44). -/
def flushEnc (F : Fmt) (fpm : BitVec 10) (b : Nat) : Nat :=
  if F.flushed fpm ∧ b / 2 ^ F.mbits % 2 ^ F.ebits = 0 then b - b % 2 ^ F.mbits else b

/-- An operand as `val` after R44. -/
def fread (F : Fmt) (fpm : BitVec 10) (b : Nat) : FVal := fval F (flushEnc F fpm b)

/-- An integer as an exact value. -/
def fint (x : Int) : FVal := .fin (decide (x < 0)) x.natAbs 0 false

def FVal.isNan : FVal → Bool
  | .nan => true
  | _ => false
def FVal.isZero : FVal → Bool
  | .fin _ 0 _ false => true
  | _ => false
def FVal.isNeg : FVal → Bool
  | .nan => false
  | .inf n => n
  | .fin n _ _ _ => n
def FVal.negate : FVal → FVal
  | .nan => .nan
  | .inf n => .inf (!n)
  | .fin n m e s => .fin (!n) m e s
/-- The value times 2^k. -/
def FVal.scale (k : Int) : FVal → FVal
  | .fin n m e s => .fin n m (e + k) s
  | x => x

/-- A signed multiple of 2^q that an exact value equals, for q at most its exponent. -/
def FVal.atExp (q : Int) : FVal → Int
  | .fin n m e _ => let a : Int := (m * 2 ^ (e - q).toNat : Nat); if n then -a else a
  | _ => 0

def FVal.exp : FVal → Int
  | .fin _ _ e _ => e
  | _ => 0

/-- a < b on exact values; false with a NaN (R113). Zeros are equal. -/
def FVal.lt (a b : FVal) : Bool :=
  match a, b with
  | .nan, _ | _, .nan => false
  | .inf na, .inf nb => na && !nb
  | .inf na, _ => na
  | _, .inf nb => !nb
  | _, _ => let q := min a.exp b.exp; decide (a.atExp q < b.atExp q)

/-- a = b on exact values; false with a NaN. -/
def FVal.eq (a b : FVal) : Bool := !a.isNan && !b.isNan && !a.lt b && !b.lt a

/-- a below b with −0 below +0 (R111). -/
def FVal.below (a b : FVal) : Bool := a.lt b || (a.isZero && b.isZero && a.isNeg && !b.isNeg)

/-! ## Exact operations (R48, R110) -/

/-- The exact product with its special values. -/
def xmul (a b : FVal) : FVal :=
  match a, b with
  | .nan, _ | _, .nan => .nan
  | .inf n, y => if y.isZero then .nan else .inf (n != y.isNeg)
  | x, .inf n => if x.isZero then .nan else .inf (n != x.isNeg)
  | .fin n m e _, .fin n2 m2 e2 _ => .fin (n != n2) (m * m2) (e + e2) false

def minExp : List FVal → Int
  | [] => 0
  | [x] => x.exp
  | x :: r => min x.exp (minExp r)

/-- The exact sum of any number of terms, with its special values and the sign of an exact zero (R48, R56). -/
def xsum (rdn : Bool) (ts : List FVal) : FVal :=
  if ts.any FVal.isNan then .nan
  else
    let pinf := ts.any (fun t => decide (t = .inf false))
    let ninf := ts.any (fun t => decide (t = .inf true))
    if pinf && ninf then .nan
    else if pinf then .inf false
    else if ninf then .inf true
    else
      let q := minExp ts
      let x := (ts.map (FVal.atExp q)).foldl (· + ·) 0
      if x = 0 then
        if ts.all (fun t => t.isZero && !t.isNeg) then .fin false 0 0 false
        else if ts.all (fun t => t.isZero && t.isNeg) then .fin true 0 0 false
        else .fin rdn 0 0 false
      else .fin (decide (x < 0)) x.natAbs q false

/-- Bits kept of a quotient or a root: more than any format's precision and the 32 bits of R49 need. -/
def quotBits : Nat := 200

/-- The quotient of two finite values, b not zero, to quotBits bits. -/
def xdiv (a b : FVal) : FVal :=
  match a, b with
  | .fin n m e _, .fin n2 m2 e2 _ =>
    if m = 0 then .fin (n != n2) 0 0 false
    else
      let k := quotBits + Nat.log2 m2
      let q := m * 2 ^ k / m2
      .fin (n != n2) q (e - e2 - k) (decide (m * 2 ^ k % m2 ≠ 0))
  | _, _ => .nan

/-- Bits of the floor of the square root of x, from the bit 2^n down. -/
def isqrtFrom (x : Nat) : Nat → Nat → Nat
  | 0, r => if (r + 1) * (r + 1) ≤ x then r + 1 else r
  | n + 1, r => isqrtFrom x n (if (r + 2 ^ (n + 1)) * (r + 2 ^ (n + 1)) ≤ x then r + 2 ^ (n + 1) else r)

/-- The floor of the square root. -/
def isqrt (x : Nat) : Nat := isqrtFrom x (Nat.log2 x / 2 + 1) 0

/-- √x for a positive finite value. -/
def xsqrt (x : FVal) : FVal :=
  match x with
  | .fin _ m e _ =>
    let m1 := if e % 2 = 0 then m else 2 * m
    let e1 := if e % 2 = 0 then e else e - 1
    let y := m1 * 2 ^ (2 * quotBits)
    let r := isqrt y
    .fin false r (e1 / 2 - quotBits) (decide (r * r ≠ y))
  | y => y

/-- 1 ÷ √x for a positive finite value. -/
def xrsqrt (x : FVal) : FVal :=
  match x with
  | .fin _ m e _ =>
    let m1 := if e % 2 = 0 then m else 2 * m
    let e1 := if e % 2 = 0 then e else e - 1
    let k := quotBits + Nat.log2 m1
    let y := 2 ^ (2 * k) / m1
    let r := isqrt y
    .fin false r (-(e1 / 2) - k) (decide (r * r * m1 ≠ 2 ^ (2 * k)))
  | y => y

/-! ## Rounding (R45 to R50) -/

/-- One step of a lane's LFSR (R50). -/
def lfsrStep (l : Word) : Word := if l.getLsbD 0 then (l >>> 1) ^^^ 0x80200003 else l >>> 1

/-- Is the candidate of greater magnitude chosen (R45, R49)? The magnitude is a spacings and rem / 2^sh of one, and a
little more when st is set; u is the LFSR state after its step. -/
def roundUp (mode : Nat) (neg : Bool) (a rem sh : Nat) (st : Bool) (u : Word) : Bool :=
  if rem = 0 ∧ st = false then false
  else match mode with
    | 1 => decide (2 ^ sh < 2 * rem) || (decide (2 * rem = 2 ^ sh) && (st || decide (a % 2 = 1)))
    | 2 => false
    | 3 => neg
    | 4 => !neg
    | 5 => decide (2 ^ 32 ≤ rem * 2 ^ 32 / 2 ^ sh + u.toNat)
    | _ => decide (2 ^ sh ≤ 2 * rem)

/-- A magnitude as a whole number of 2^q, chosen by the mode. -/
def roundAt (mode : Nat) (neg : Bool) (m : Nat) (e q : Int) (st : Bool) (u : Word) : Nat :=
  if q ≤ e then m * 2 ^ (e - q).toNat
  else
    let sh := (q - e).toNat
    let a := m / 2 ^ sh
    if roundUp mode neg a (m % 2 ^ sh) sh st u then a + 1 else a

/-- The LFSR after a rounding under the mode: STOCH steps it (R49, R50). -/
def lfsrAfter (mode : Nat) (l : Word) : Word := if mode = 5 then lfsrStep l else l

/-- What an overflow or an infinite input gives (R46, R47), sign aside. -/
def overflowEnc (F : Fmt) (mode : Nat) (fpm : BitVec 10) (neg isInf : Bool) : Nat :=
  match F with
  | .e2m1 => 7
  | .e4m3 => if fpm.getLsbD 8 then F.nanEnc else F.maxFin
  | .e5m2 => if isInf then F.infEnc else if fpm.getLsbD 8 then F.nanEnc else F.maxFin
  | _ =>
    if isInf then F.infEnc
    else match mode with
      | 2 => F.maxFin
      | 3 => if neg then F.infEnc else F.maxFin
      | 4 => if neg then F.maxFin else F.infEnc
      | _ => F.infEnc

/-- An encoding with its sign; the NaN of a format has the sign clear (R42, R47). -/
def withSign (F : Fmt) (neg : Bool) (m : Nat) : Nat :=
  if neg ∧ ¬ (m = F.nanEnc ∧ F ≠ .e2m1) then m + 2 ^ (F.ebits + F.mbits) else m

/-- `round(x, F, mode)` of R8 with R44, R46, R47 and R49: the encoding and the LFSR after it. -/
def fround (F : Fmt) (mode : Nat) (fpm : BitVec 10) (x : FVal) (l : Word) : Nat × Word :=
  let l1 := lfsrAfter mode l
  match x with
  | .nan => (F.nanEnc, l1)
  | .inf n => (withSign F n (overflowEnc F mode fpm n true), l1)
  | .fin n m e st =>
    if m = 0 then (withSign F n 0, l1)
    else
      let emin : Int := 1 - F.bias - F.mbits
      let q := max emin ((Nat.log2 m : Int) + e - F.mbits)
      let a := roundAt mode n m e q st l1
      -- (q − emin) more exponent steps: the encoding as one rising number
      let enc := (q - emin).toNat * 2 ^ F.mbits + a
      if F.maxFin < enc then (withSign F n (overflowEnc F mode fpm n false), l1)
      else (flushEnc F fpm (withSign F n enc), l1)

/-- An integer chosen with candidates spaced 1 apart (R51, R115), for a finite value. -/
def roundInt (mode : Nat) (x : FVal) (l : Word) : Int × Word :=
  let l1 := lfsrAfter mode l
  match x with
  | .fin n m e st => let a : Int := roundAt mode n m e 0 st l1; (if n then -a else a, l1)
  | _ => (0, l1)

/-- `round_mx` of R55: F32 under RNE, subnormals kept. -/
def roundMx (x : FVal) : Nat := (fround .f32 1 0 x 1).1

/-- round_mx as a value. -/
def rmx (x : FVal) : FVal := fval .f32 (roundMx x)

/-- The floor of log2 |x| for a finite non-zero value. -/
def flog2 (x : FVal) : Int :=
  match x with
  | .fin _ m e _ => (Nat.log2 m : Int) + e
  | _ => 0

/-! ## Reference procedures (R123 to R126): F32 encodings, the operand after R44, the result before R44 -/

def rfma (x y z : FVal) : FVal := rmx (xsum false [xmul x y, z])

/-- Horner's rule over F32 constants, highest first. -/
def horner (p : FVal) (y : FVal) : List Nat → FVal
  | [] => p
  | c :: r => horner (rfma p y (fval .f32 c)) y r

def qnanF32 : Nat := 0x7FC00000

/-- EXP2 (R124). -/
def procExp2 (x : FVal) : Nat :=
  match x with
  | .nan => qnanF32
  | x =>
    if !x.lt (fint 128) then 0x7F800000
    else if x.lt (fint (-150)) then 0
    else
      let n := (roundInt 1 x 1).1
      let f := xsum false [x, fint (-n)]
      let p := horner (fval .f32 0x39218489) f [0x3AAEC3FF, 0x3C1D955B, 0x3D635847, 0x3E75FDF0, 0x3F317218, 0x3F800000]
      roundMx (p.scale n)

/-- LOG2 (R125). -/
def procLog2 (x : FVal) : Nat :=
  match x with
  | .nan => qnanF32
  | .inf n => if n then qnanF32 else 0x7F800000
  | .fin n m e st =>
    if m = 0 then 0xFF800000
    else if n then qnanF32
    else
      let k := flog2 (.fin n m e st)
      let m0 := FVal.fin false m (e - k) false
      let big := (fval .f32 0x3FB504F3).lt m0
      let m1 := if big then m0.scale (-1) else m0
      let k1 := if big then k + 1 else k
      let t := rmx (xdiv (rmx (xsum false [m1, fint (-1)])) (rmx (xsum false [m1, fint 1])))
      let z := rmx (xmul t t)
      let p := horner (fval .f32 0x3E6347AB) z [0x3E864D42, 0x3EA4258A, 0x3ED30BB1, 0x3F13BB63, 0x3F76384F, 0x4038AA3B]
      roundMx (xsum false [fint k1, rmx (xmul t p)])

/-- SINPI (`cosine` false) and COSPI (R126). -/
def procSinCos (cosine : Bool) (x : FVal) : Nat :=
  match x with
  | .nan => qnanF32
  | .inf _ => qnanF32
  | x =>
    let j := (roundInt 1 (x.scale 1) 1).1
    let f := xsum false [x, (fint (-j)).scale (-1)]
    let q := (j % 4).toNat
    let z := rmx (xmul f f)
    let ps := horner (fval .f32 0x39F47A1A) z [0xBBF183A8, 0x3DA83C1A, 0xBF196966, 0x402335E3, 0xC0A55DE7, 0x40490FDB]
    let pc := horner (fval .f32 0x3AFCE9C5) z [0xBCD368F9, 0x3E70FA83, 0xBFAAE9E4, 0x4081E0F8, 0xC09DE9E6, 0x3F800000]
    let sk := xmul f ps
    let useS := if cosine then decide (q % 2 = 1) else decide (q % 2 = 0)
    let flip := if cosine then decide (q = 1 ∨ q = 2) else decide (q = 2 ∨ q = 3)
    if useS && f.isZero then (if cosine then 0 else if x.isNeg then 0x80000000 else 0)
    else
      let k := roundMx (if useS then sk else pc)
      if flip then (if 2 ^ 31 ≤ k then k - 2 ^ 31 else k + 2 ^ 31) else k

/-! ## Elements (R36) -/

/-- Width in bits of a type's element (R66). -/
def elemWidth : Ty → Nat
  | .i16x2 | .n16x2 | .f16x2 | .bf16x2 => 16
  | .i8x4 | .n8x4 | .e4m3x4 | .e5m2x4 => 8
  | .i4x8 | .e2m1x8 => 4
  | .i64 | .f64 => 64
  | _ => 32

/-- Is the integer type read with sext (R35, R82)? -/
def elemSigned : Ty → Bool
  | .i32 | .i16x2 | .i8x4 | .i64 | .i4x8 => true
  | _ => false

/-- Element j as a number. -/
def elemNat (t : Ty) (x : DWord) (j : Nat) : Nat := x.toNat / 2 ^ (elemWidth t * j) % 2 ^ elemWidth t

/-- Element j as the integer that the type reads. -/
def elemInt (t : Ty) (x : DWord) (j : Nat) : Int :=
  let n := elemNat t x j
  if elemSigned t ∧ 2 ^ (elemWidth t - 1) ≤ n then (n : Int) - 2 ^ elemWidth t else n

/-- Elements put together, element 0 lowest; each keeps its low bits. -/
def packElems (w : Nat) : List Nat → Nat
  | [] => 0
  | e :: r => e % 2 ^ w + 2 ^ w * packElems w r

/-- The least and greatest values of an integer type (R35). -/
def intRange (signed : Bool) (w : Nat) : Int × Int :=
  if signed then (-(2 ^ (w - 1)), 2 ^ (w - 1) - 1) else (0, 2 ^ w - 1)

/-- `wrap` or `sat` of an exact result (R37). -/
def finishInt (sat signed : Bool) (w : Nat) (x : Int) : Nat :=
  let y := if sat then clampInt x (intRange signed w).1 (intRange signed w).2 else x
  (y % 2 ^ w).toNat

/-- SAT on a floating result: clamped to [+0, 1] (R37). -/
def satFloat (F : Fmt) (b : Nat) : Nat :=
  let one := F.bias.toNat * 2 ^ F.mbits
  if 2 ^ (F.ebits + F.mbits) ≤ b then 0
  else match fval F b with
    | .nan => 0
    | _ => if one < b then one else b

end Sys2Proof.Machine
end

