-- ==== Sys2Proof/Machine/LaneInt.lean ====
section
/-! DEFINITION. What the lane integer, move and select instructions compute in one lane (spec R82 to R98): functions of
the operand values, so that TRET can run a captured instruction on its captured operands (R226). -/

namespace Sys2Proof.Machine

open Sys2Proof

/-- The operand values of one lane in the order of R28, and the old destination where it is a source. -/
structure LaneIn where
  a : DWord
  b : DWord
  c : DWord
  vd : DWord
  deriving DecidableEq, Repr

/-- What else the result in a lane depends on: the rounding mode and FPMODE at issue, the virtual lane, the lane's bit of
the mask the instruction reads and of the mask it writes, and the lane's LFSR. -/
structure LaneEnv where
  mode : Nat
  fpm : BitVec 10
  vl : Nat
  kj : Bool
  kd : Bool
  lfsr : Word
  deriving DecidableEq, Repr

/-- The result in one lane: a word or pair, or a mask bit, and the LFSR after it. -/
structure LaneOut where
  val : DWord
  bit : Bool
  lfsr : Word
  deriving DecidableEq, Repr

/-- A word or pair as the result; the LFSR stays. -/
def LaneEnv.out (e : LaneEnv) (x : DWord) : LaneOut := ⟨x, false, e.lfsr⟩
/-- A mask bit as the result. -/
def LaneEnv.outBit (e : LaneEnv) (b : Bool) : LaneOut := ⟨0, b, e.lfsr⟩

/-- Elements computed one by one and put together (R36, R82). -/
def packInts (t : Ty) (f : Nat → Nat) : DWord := BitVec.ofNat 64 (packElems (elemWidth t) ((List.range t.count).map f))

/-- The generic element-wise effect of R82 for the exact function op. -/
def intElems (f : Long) (x : LaneIn) (op : Int → Int → Int → Int) : DWord :=
  packInts f.ty (fun j => finishInt f.sat (elemSigned f.ty) (elemWidth f.ty)
    (op (elemInt f.ty x.a j) (elemInt f.ty x.b j) (elemInt f.ty x.c j)))

/-- IADD (R83): a + b. -/
def laneIadd (f : Long) (e : LaneEnv) (x : LaneIn) : LaneOut := e.out (intElems f x (fun a b _ => a + b))
/-- ISUB (R83): a − b. -/
def laneIsub (f : Long) (e : LaneEnv) (x : LaneIn) : LaneOut := e.out (intElems f x (fun a b _ => a - b))
/-- IMUL (R83): a × b. -/
def laneImul (f : Long) (e : LaneEnv) (x : LaneIn) : LaneOut := e.out (intElems f x (fun a b _ => a * b))
/-- IMULH (R83): the high half of the exact product. -/
def laneImulh (f : Long) (e : LaneEnv) (x : LaneIn) : LaneOut :=
  e.out (intElems f x (fun a b _ => a * b / 2 ^ elemWidth f.ty))
/-- IMAD (R83): a × b + c. -/
def laneImad (f : Long) (e : LaneEnv) (x : LaneIn) : LaneOut := e.out (intElems f x (fun a b c => a * b + c))
/-- IMIN (R83). -/
def laneImin (f : Long) (e : LaneEnv) (x : LaneIn) : LaneOut := e.out (intElems f x (fun a b _ => min a b))
/-- IMAX (R83). -/
def laneImax (f : Long) (e : LaneEnv) (x : LaneIn) : LaneOut := e.out (intElems f x (fun a b _ => max a b))
/-- IABS (R83): |a|. -/
def laneIabs (f : Long) (e : LaneEnv) (x : LaneIn) : LaneOut := e.out (intElems f x (fun a _ _ => a.natAbs))

/-- IMADW (R84): the widening multiply-add into a pair. -/
def laneImadw (f : Long) (e : LaneEnv) (x : LaneIn) : LaneOut :=
  let a := loWord x.a
  let b := loWord x.b
  e.out (if f.ty = .i32 then wrap (sext a * sext b + sext x.c) 64 else wrap (zext a * zext b + zext x.c) 64)

/-- The bits of a bitwise result that the type holds (R85). -/
def bitsOf (t : Ty) (x : DWord) : DWord := if t.regs = 2 then x else x.setWidth 32 |>.setWidth 64

/-- IAND (R85). -/
def laneIand (f : Long) (e : LaneEnv) (x : LaneIn) : LaneOut := e.out (bitsOf f.ty (x.a &&& x.b))
/-- IOR (R85). -/
def laneIor (f : Long) (e : LaneEnv) (x : LaneIn) : LaneOut := e.out (bitsOf f.ty (x.a ||| x.b))
/-- IXOR (R85). -/
def laneIxor (f : Long) (e : LaneEnv) (x : LaneIn) : LaneOut := e.out (bitsOf f.ty (x.a ^^^ x.b))
/-- IANDN (R85): a and not b. -/
def laneIandn (f : Long) (e : LaneEnv) (x : LaneIn) : LaneOut := e.out (bitsOf f.ty (x.a &&& ~~~x.b))

/-- Shift left of a w-bit element (R86). -/
def shlElem (w a n : Nat) : Nat := if n < w then a * 2 ^ n % 2 ^ w else 0
/-- Logical shift right (R86). -/
def shrElem (w a n : Nat) : Nat := if n < w then a / 2 ^ n else 0
/-- Arithmetic shift right (R86). -/
def sraElem (w a n : Nat) : Nat :=
  if 2 ^ (w - 1) ≤ a then (if n < w then (((a : Int) - 2 ^ w) / 2 ^ n % 2 ^ w).toNat else 2 ^ w - 1)
  else (if n < w then a / 2 ^ n else 0)
/-- Rotate left (R86). -/
def rotElem (w a n : Nat) : Nat := (a * 2 ^ (n % w) + a / 2 ^ (w - n % w)) % 2 ^ w

/-- The shifts of R86 by element; the count under I64 is the one word B. -/
def shiftElems (f : Long) (x : LaneIn) (op : Nat → Nat → Nat → Nat) : DWord :=
  packInts f.ty (fun j => op (elemWidth f.ty) (elemNat f.ty x.a j)
    (if f.ty = .i64 then (loWord x.b).toNat else elemNat f.ty x.b j))

/-- ISHL (R86). -/
def laneIshl (f : Long) (e : LaneEnv) (x : LaneIn) : LaneOut := e.out (shiftElems f x shlElem)
/-- ISHR (R86). -/
def laneIshr (f : Long) (e : LaneEnv) (x : LaneIn) : LaneOut := e.out (shiftElems f x shrElem)
/-- ISRA (R86). -/
def laneIsra (f : Long) (e : LaneEnv) (x : LaneIn) : LaneOut := e.out (shiftElems f x sraElem)
/-- IROT (R86). -/
def laneIrot (f : Long) (e : LaneEnv) (x : LaneIn) : LaneOut := e.out (shiftElems f x rotElem)

/-- The number of ones among the low w bits. -/
def popNat (w a : Nat) : Nat := ((List.range w).filter (fun i => a.testBit i)).length
/-- The zeros above the most significant one of w bits; w for zero (R87). -/
def clzNat (w a : Nat) : Nat := if a = 0 then w else w - 1 - Nat.log2 a
/-- The low w bits in reverse order. -/
def revNat (w a : Nat) : Nat := ((List.range w).map (fun i => if a.testBit i then 2 ^ (w - 1 - i) else 0)).foldl (· + ·) 0

/-- IPOPC (R87). -/
def laneIpopc (f : Long) (e : LaneEnv) (x : LaneIn) : LaneOut :=
  e.out (packInts f.ty (fun j => popNat (elemWidth f.ty) (elemNat f.ty x.a j)))
/-- ICLZ (R87). -/
def laneIclz (f : Long) (e : LaneEnv) (x : LaneIn) : LaneOut :=
  e.out (packInts f.ty (fun j => clzNat (elemWidth f.ty) (elemNat f.ty x.a j)))
/-- IBREV (R87). -/
def laneIbrev (f : Long) (e : LaneEnv) (x : LaneIn) : LaneOut :=
  e.out (packInts f.ty (fun j => revNat (elemWidth f.ty) (elemNat f.ty x.a j)))

/-- pos and len' of a control word (R88). -/
def bitField (b : DWord) : Nat × Nat :=
  let pos := bits b 0 8
  (pos, if 32 ≤ pos then 0 else min (bits b 8 8) (32 - pos))

/-- IBFX (R88). -/
def laneIbfx (f : Long) (e : LaneEnv) (x : LaneIn) : LaneOut :=
  let (pos, len) := bitField x.b
  let v := bits (loWord x.a) pos len
  e.out (if len = 0 then 0
    else if f.ty = .i32 ∧ 2 ^ (len - 1) ≤ v then BitVec.ofNat 64 (v + 2 ^ 32 - 2 ^ len)
    else BitVec.ofNat 64 v)

/-- IBFI (R89): inserts into its own destination. -/
def laneIbfi (_ : Long) (e : LaneEnv) (x : LaneIn) : LaneOut :=
  let (pos, len) := bitField x.b
  e.out ((setBits (loWord x.vd) pos len (bits (loWord x.a) 0 len)).setWidth 64)

/-- One result byte of IPERM (R90). -/
def permByte (ba : Nat) (s : Nat) : Nat :=
  let y := ba / 256 ^ (s % 8) % 256
  if 8 ≤ s then (if 128 ≤ y then 255 else 0) else y

/-- IPERM (R90). -/
def laneIperm (_ : Long) (e : LaneEnv) (x : LaneIn) : LaneOut :=
  let ba := (pair (loWord x.b) (loWord x.a)).toNat
  e.out (BitVec.ofNat 64 (packElems 8 ((List.range 4).map (fun j => permByte ba (bits x.c (4 * j) 4)))))

/-- A truth value combined with the old mask bit: set, and, or (R91, R113). -/
def combine (mode : Nat) (old t : Bool) : Bool :=
  match mode with
  | 0 => t
  | 1 => old && t
  | _ => old || t

/-- ICMP (R91). -/
def laneIcmp (f : Long) (e : LaneEnv) (x : LaneIn) : LaneOut :=
  e.outBit (combine (bits f.ext8 3 2) e.kd (icmpHolds (bits f.ext8 0 3) (elemInt f.ty x.a 0) (elemInt f.ty x.b 0)))

/-- ISAD (R92): C and the result are N32. -/
def laneIsad (f : Long) (e : LaneEnv) (x : LaneIn) : LaneOut :=
  let s : Int := ((List.range f.ty.count).map (fun j => ((elemInt f.ty x.a j - elemInt f.ty x.b j).natAbs : Int))).foldl (· + ·) 0
  e.out (BitVec.ofNat 64 (finishInt f.sat false 32 (zext (loWord x.c) + s)))

/-- IADD64 (R93). -/
def laneIadd64 (f : Long) (e : LaneEnv) (x : LaneIn) : LaneOut :=
  e.out (wrap (zext x.a + (if f.ty = .i32 then sext (loWord x.b) else zext (loWord x.b))) 64)

/-- MOV (R94). -/
def laneMov (_ : Long) (e : LaneEnv) (x : LaneIn) : LaneOut := e.out x.a

/-- MOVI (R95): operand A has been widened as TY reads an immediate (R65). -/
def laneMovi (f : Long) (e : LaneEnv) (x : LaneIn) : LaneOut :=
  let ramp : Int := sext f.ext8 * e.vl
  e.out (match f.ty with
    | .i64 => wrap (sext x.a + ramp) 64
    | .b32 => (wrap (zext (loWord x.a) + ramp) 32).setWidth 64
    | _ => x.a)

/-- SEL (R96). -/
def laneSel (_ : Long) (e : LaneEnv) (x : LaneIn) : LaneOut := e.out (if e.kj then x.a else x.b)

/-- MOVK to a mask (R98): bit l from the lane's word, or from bit l of a word that is the same in every lane. -/
def laneMovkToMask (f : Long) (e : LaneEnv) (x : LaneIn) (l : Nat) : LaneOut :=
  e.outBit (if f.a.kind = .v then decide (loWord x.a ≠ 0) else x.a.getLsbD l)

/-- MOVK to a vector (R98). -/
def laneMovkToVector (_ : Long) (e : LaneEnv) (_ : LaneIn) : LaneOut := e.out (if e.kj then 0xFFFFFFFF else 0)

end Sys2Proof.Machine
end

