-- ==== Sys2Proof/Machine/LaneFloat.lean ====
section
/-! DEFINITION. What the floating, conversion, dot-product and fused instructions compute in one lane (spec R54, R109 to
R131). -/

namespace Sys2Proof.Machine

open Sys2Proof

/-- Elements computed in order, element 0 first, each with the LFSR that the one before leaves (R50). -/
def elemsFrom (g : Nat → Word → Nat × Word) : List Nat → Word → List Nat × Word
  | [], l => ([], l)
  | j :: r, l =>
    let (x, l1) := g j l
    let (xs, l2) := elemsFrom g r l1
    (x :: xs, l2)

/-- A packed result of the type's elements. -/
def packSeq (e : LaneEnv) (w n : Nat) (g : Nat → Word → Nat × Word) : LaneOut :=
  let (xs, l) := elemsFrom g (List.range n) e.lfsr
  ⟨BitVec.ofNat 64 (packElems w xs), false, l⟩

/-- `rd(X, l, j)` of R109. -/
def rd (e : LaneEnv) (t : Ty) (x : DWord) (j : Nat) : FVal := fread (fmtOf t) e.fpm (elemNat t x j)

/-- The rounding instructions of R109: an exact function, one rounding, and SAT. -/
def roundElems (f : Long) (e : LaneEnv) (op : Nat → FVal) : LaneOut :=
  packSeq e (elemWidth f.ty) f.ty.count (fun j l =>
    let (b, l1) := fround (fmtOf f.ty) e.mode e.fpm (op j) l
    (if f.sat then satFloat (fmtOf f.ty) b else b, l1))

/-- Elements that neither round nor step the LFSR. -/
def plainElems (f : Long) (e : LaneEnv) (op : Nat → Nat) : LaneOut :=
  packSeq e (elemWidth f.ty) f.ty.count (fun j l => (op j, l))

/-- Does the mode give an exact zero sum the sign minus (R48)? -/
def LaneEnv.rdn (e : LaneEnv) : Bool := decide (e.mode = 3)

/-- FADD (R110). -/
def laneFadd (f : Long) (e : LaneEnv) (x : LaneIn) : LaneOut :=
  roundElems f e (fun j => xsum e.rdn [rd e f.ty x.a j, rd e f.ty x.b j])
/-- FSUB (R110): as FADD with the sign of b inverted. -/
def laneFsub (f : Long) (e : LaneEnv) (x : LaneIn) : LaneOut :=
  roundElems f e (fun j => xsum e.rdn [rd e f.ty x.a j, (rd e f.ty x.b j).negate])
/-- FMUL (R110). -/
def laneFmul (f : Long) (e : LaneEnv) (x : LaneIn) : LaneOut :=
  roundElems f e (fun j => xmul (rd e f.ty x.a j) (rd e f.ty x.b j))
/-- FFMA (R110): rounded once. -/
def laneFfma (f : Long) (e : LaneEnv) (x : LaneIn) : LaneOut :=
  roundElems f e (fun j => xsum e.rdn [xmul (rd e f.ty x.a j) (rd e f.ty x.b j), rd e f.ty x.c j])

/-- The lesser or greater of two encodings as read, with the rule of R111 for NaNs. -/
def minMax (F : Fmt) (fpm : BitVec 10) (greater : Bool) (a b : Nat) : Nat :=
  let a1 := flushEnc F fpm a
  let b1 := flushEnc F fpm b
  let x := fval F a1
  let y := fval F b1
  if x.isNan || y.isNan then
    if fpm.getLsbD 9 || (x.isNan && y.isNan) then F.nanEnc else if x.isNan then b1 else a1
  else if (if greater then x.below y else y.below x) then b1 else a1

/-- FMIN (R111). -/
def laneFmin (f : Long) (e : LaneEnv) (x : LaneIn) : LaneOut :=
  plainElems f e (fun j => minMax (fmtOf f.ty) e.fpm false (elemNat f.ty x.a j) (elemNat f.ty x.b j))
/-- FMAX (R111). -/
def laneFmax (f : Long) (e : LaneEnv) (x : LaneIn) : LaneOut :=
  plainElems f e (fun j => minMax (fmtOf f.ty) e.fpm true (elemNat f.ty x.a j) (elemNat f.ty x.b j))

/-- The sign bit inverted, or cleared (R112). -/
def flipSign (w b : Nat) : Nat := if b < 2 ^ (w - 1) then b + 2 ^ (w - 1) else b - 2 ^ (w - 1)
def clearSign (w b : Nat) : Nat := b % 2 ^ (w - 1)

/-- FNEG (R112). -/
def laneFneg (f : Long) (e : LaneEnv) (x : LaneIn) : LaneOut :=
  plainElems f e (fun j => flipSign (elemWidth f.ty) (elemNat f.ty x.a j))
/-- FABS (R112). -/
def laneFabs (f : Long) (e : LaneEnv) (x : LaneIn) : LaneOut :=
  plainElems f e (fun j => clearSign (elemWidth f.ty) (elemNat f.ty x.a j))

/-- The conditions of R113 by EXT8 [2:0]. -/
def fcmpHolds (c : Nat) (a b : FVal) : Bool :=
  let un := a.isNan || b.isNan
  match c with
  | 0 => a.eq b
  | 1 => un || !a.eq b
  | 2 => a.lt b
  | 3 => a.lt b || a.eq b
  | 4 => b.lt a
  | 5 => b.lt a || a.eq b
  | 6 => un
  | _ => !un

/-- FCMP (R113). -/
def laneFcmp (f : Long) (e : LaneEnv) (x : LaneIn) : LaneOut :=
  let t (j : Nat) := fcmpHolds (bits f.ext8 0 3) (rd e f.ty x.a j) (rd e f.ty x.b j)
  let h := match f.xw.toNat with
    | 0 => t 0
    | 1 => t 1
    | 2 => t 0 && t 1
    | _ => t 0 || t 1
  e.outBit (combine (bits f.ext8 3 2) e.kd h)

/-- The class of an encoding (R114). -/
def fclass (F : Fmt) (b : Nat) : Nat :=
  let sub := decide (b / 2 ^ F.mbits % 2 ^ F.ebits = 0)
  match fval F b with
  | .nan => 0x100 + (if F = .f32 ∧ b = poisonWord.toNat then 0x200 else 0)
  | .inf n => if n then 0x001 else 0x080
  | .fin n m _ _ => if m = 0 then (if n then 0x008 else 0x010) else if sub then (if n then 0x004 else 0x020)
      else (if n then 0x002 else 0x040)

/-- FCLASS (R114): no flush. -/
def laneFclass (f : Long) (e : LaneEnv) (x : LaneIn) : LaneOut :=
  plainElems f e (fun j => fclass (fmtOf f.ty) (elemNat f.ty x.a j))

/-- FRND (R115). -/
def laneFrnd (f : Long) (e : LaneEnv) (x : LaneIn) : LaneOut :=
  packSeq e (elemWidth f.ty) f.ty.count (fun j l =>
    match rd e f.ty x.a j with
    | .fin n m k st =>
      let (i, l1) := roundInt e.mode (.fin n m k st) l
      ((fround (fmtOf f.ty) 1 e.fpm (.fin n i.natAbs 0 false) l).1, l1)
    | y => ((fround (fmtOf f.ty) 1 e.fpm y l).1, lfsrAfter e.mode l))

/-- FFRAC (R115). -/
def laneFfrac (f : Long) (e : LaneEnv) (x : LaneIn) : LaneOut :=
  plainElems f e (fun j =>
    match rd e f.ty x.a j with
    | .fin n m k st =>
      let y := FVal.fin n m k st
      (fround (fmtOf f.ty) 2 e.fpm (if m = 0 then .fin false 0 0 false else xsum false [y, fint (-(roundInt 3 y 1).1)]) 1).1
    | _ => (fmtOf f.ty).nanEnc)

/-- FLDEXP (R116). An exponent beyond 5,000 either way gives the overflow or underflow that 5,000 gives. -/
def laneFldexp (f : Long) (e : LaneEnv) (x : LaneIn) : LaneOut :=
  roundElems { f with sat := false } e (fun j =>
    let n : Int := if f.ty.count = 2 then elemInt .i16x2 x.b j else sext (loWord x.b)
    (rd e f.ty x.a j).scale (clampInt n (-5000) 5000))

/-- FGETEXP (R116). -/
def laneFgetexp (f : Long) (e : LaneEnv) (x : LaneIn) : LaneOut :=
  let w := if f.ty.count = 2 then 16 else 32
  let r := intRange true w
  packSeq e w f.ty.count (fun j l =>
    (finishInt false true w (match rd e f.ty x.a j with
      | .fin n m k st => if m = 0 then r.1 else flog2 (.fin n m k st)
      | _ => r.2), l))

/-! ## Conversions (R51, R52, R117 to R121) -/

/-- One element converted from an encoding of sty to one of dty (R118). -/
def convert (e : LaneEnv) (dty sty : Ty) (sat : Bool) (b : Nat) (l : Word) : Nat × Word :=
  let w := elemWidth dty
  let r := intRange (elemSigned dty) w
  if sty.isFloat then
    let x := if !dty.isFloat ∧ (fmtOf sty = .e4m3 ∨ fmtOf sty = .e5m2) then fval (fmtOf sty) b else fread (fmtOf sty) e.fpm b
    if dty.isFloat then
      if sty = dty then (if x.isNan then (fmtOf dty).nanEnc else flushEnc (fmtOf sty) e.fpm b, l)
      else match cvtRow sty dty with
        | .exact => ((fround (fmtOf dty) 1 e.fpm x l).1, l)
        | _ => fround (fmtOf dty) e.mode e.fpm x l
    else match x with
      | .nan => (0, lfsrAfter e.mode l)
      | .inf n => (finishInt false (elemSigned dty) w (if n then r.1 else r.2), lfsrAfter e.mode l)
      | x => let (i, l1) := roundInt e.mode x l; (finishInt true (elemSigned dty) w i, l1)
  else
    let v : Int := if elemSigned sty ∧ 2 ^ (elemWidth sty - 1) ≤ b then (b : Int) - 2 ^ elemWidth sty else b
    if dty.isFloat then
      match cvtRow sty dty with
      | .exact => ((fround (fmtOf dty) 1 e.fpm (fint v) l).1, l)
      | _ => fround (fmtOf dty) e.mode e.fpm (fint v) l
    else if sty = dty then (b, l)
    else (finishInt sat (elemSigned dty) w v, l)

/-- CVT (R117). -/
def laneCvt (f : Long) (e : LaneEnv) (x : LaneIn) : LaneOut :=
  packSeq e (elemWidth f.ty) f.ty.count (fun j l => convert e f.ty f.sty f.sat (elemNat f.sty x.a j) l)

/-- PACK (R119): two conversions into the elements 2·pos and 2·pos + 1; the others keep their values. -/
def lanePack (f : Long) (e : LaneEnv) (x : LaneIn) : LaneOut :=
  let p := bits f.ext8 4 2
  let (u, l1) := convert e f.ty f.sty f.sat (loWord x.a).toNat e.lfsr
  let (v, l2) := convert e f.ty f.sty f.sat (loWord x.b).toNat l1
  let w := elemWidth f.ty
  ⟨(setBits (setBits (loWord x.vd) (2 * p * w) w u) ((2 * p + 1) * w) w v).setWidth 64, false, l2⟩

/-- UNPACK (R120). -/
def laneUnpack (f : Long) (e : LaneEnv) (x : LaneIn) : LaneOut :=
  let (u, l) := convert e f.ty f.sty f.sat (elemNat f.sty x.a (bits f.ext8 4 3)) e.lfsr
  ⟨BitVec.ofNat 64 u, false, l⟩

/-- The greatest exponent of the element format of SCALE.fit (R121). -/
def fitEmax : Ty → Int
  | .e4m3x4 => 8
  | .e5m2x4 => 15
  | _ => 2

/-- SCALE.fit (R121). -/
def laneScaleFit (f : Long) (e : LaneEnv) (x : LaneIn) : LaneOut :=
  let s : Nat := match rd e .f32 x.a 0 with
    | .fin n m k st => if m = 0 then 0 else (clampInt (flog2 (.fin n m k st) - fitEmax f.sty + 127) 0 254).toNat
    | _ => 0xFF
  e.out ((setBits (loWord x.vd) (8 * bits f.ext8 4 2) 8 s).setWidth 64)

/-- SCALE.apply (R121). -/
def laneScaleApply (f : Long) (e : LaneEnv) (x : LaneIn) : LaneOut :=
  let s := bits (loWord x.b) (8 * bits f.ext8 0 2) 8
  packSeq e (elemWidth f.ty) f.ty.count (fun j l =>
    if s = 0xFF then ((fmtOf f.ty).nanEnc, lfsrAfter e.mode l)
    else fround (fmtOf f.ty) e.mode e.fpm ((rd e f.ty x.a j).scale ((s : Int) - 127)) l)

/-! ## RCP, RSQ, SQRT (R122) -/

/-- 1 ÷ x with the special operands of R122. -/
def xrcp (x : FVal) : FVal :=
  match x with
  | .nan => .nan
  | .inf n => .fin n 0 0 false
  | .fin n m e st => if m = 0 then .inf n else xdiv (fint 1) (.fin n m e st)

/-- 1 ÷ √x with the special operands of R122. -/
def xrsq (x : FVal) : FVal :=
  match x with
  | .nan => .nan
  | .inf n => if n then .nan else .fin false 0 0 false
  | .fin n m e st => if m = 0 then .inf n else if n then .nan else xrsqrt (.fin n m e st)

/-- √x with the special operands of R122. -/
def xroot (x : FVal) : FVal :=
  match x with
  | .nan => .nan
  | .inf n => if n then .nan else .inf false
  | .fin n m e st => if m = 0 then .fin n 0 0 false else if n then .nan else xsqrt (.fin n m e st)

/-- RCP (R122). -/
def laneRcp (f : Long) (e : LaneEnv) (x : LaneIn) : LaneOut := roundElems f e (fun j => xrcp (rd e f.ty x.a j))
/-- RSQ (R122). -/
def laneRsq (f : Long) (e : LaneEnv) (x : LaneIn) : LaneOut := roundElems f e (fun j => xrsq (rd e f.ty x.a j))
/-- SQRT (R122). -/
def laneSqrt (f : Long) (e : LaneEnv) (x : LaneIn) : LaneOut := roundElems f e (fun j => xroot (rd e f.ty x.a j))

/-! ## Reference procedures (R123): the operand through R44 first, the output last -/

def viaProc (e : LaneEnv) (x : DWord) (p : FVal → Nat) : LaneOut :=
  e.out (BitVec.ofNat 64 (flushEnc .f32 e.fpm (p (rd e .f32 x 0))))

/-- EXP2 (R124). -/
def laneExp2 (_ : Long) (e : LaneEnv) (x : LaneIn) : LaneOut := viaProc e x.a procExp2
/-- LOG2 (R125). -/
def laneLog2 (_ : Long) (e : LaneEnv) (x : LaneIn) : LaneOut := viaProc e x.a procLog2
/-- SINPI (R126). -/
def laneSinpi (_ : Long) (e : LaneEnv) (x : LaneIn) : LaneOut := viaProc e x.a (procSinCos false)
/-- COSPI (R126). -/
def laneCospi (_ : Long) (e : LaneEnv) (x : LaneIn) : LaneOut := viaProc e x.a (procSinCos true)

/-! ## Dot products (R54, R128) -/

/-- The type of B's elements (R128). -/
def dotB (f : Long) : Ty :=
  if f.xw = 0 then f.ty
  else match f.ty with
    | .e4m3x4 => .e5m2x4
    | .e5m2x4 => .e4m3x4
    | .i8x4 => .n8x4
    | .n8x4 => .i8x4
    | t => t

/-- Is an integer dot product's C and result signed (R128)? -/
def dotSigned (f : Long) : Bool := elemSigned f.ty || decide (f.xw ≠ 0)

/-- R54 in one lane. -/
def dotOf (f : Long) (e : LaneEnv) (x : LaneIn) : LaneOut :=
  let js := List.range f.ty.count
  if f.ty.isFloat then
    let s := xsum e.rdn (rd e .f32 x.c 0 :: js.map (fun j => xmul (rd e f.ty x.a j) (rd e (dotB f) x.b j)))
    let (b, l) := fround .f32 e.mode e.fpm s e.lfsr
    ⟨BitVec.ofNat 64 b, false, l⟩
  else
    let c : Int := if dotSigned f then sext (loWord x.c) else zext (loWord x.c)
    let s := (js.map (fun j => elemInt f.ty x.a j * elemInt (dotB f) x.b j)).foldl (· + ·) c
    e.out (BitVec.ofNat 64 (finishInt f.sat (dotSigned f) 32 s))

/-- DOT2 (R128). -/
def laneDot2 (f : Long) (e : LaneEnv) (x : LaneIn) : LaneOut := dotOf f e x
/-- DOT4 (R128). -/
def laneDot4 (f : Long) (e : LaneEnv) (x : LaneIn) : LaneOut := dotOf f e x
/-- DOT8 (R128). -/
def laneDot8 (f : Long) (e : LaneEnv) (x : LaneIn) : LaneOut := dotOf f e x

/-! ## FUSE (R129 to R131) -/

/-- The packed type of FT (R68). -/
def fuseTy : FuseTy → Ty
  | .f32 => .f32
  | .f16x2 => .f16x2
  | .bf16x2 => .bf16x2
  | .i32 => .i32

/-- EXP2 and LOG2 in a slot (R130): under F32 the procedure; under a packed FT widened, run and rounded. -/
def fuseProc (e : LaneEnv) (t : Ty) (p : FVal → Nat) (x : Nat) (l : Word) : Nat × Word :=
  let b := flushEnc .f32 e.fpm (p (fread .f32 e.fpm (if t = .f32 then x else (fround .f32 1 0 (fread (fmtOf t) e.fpm x) l).1)))
  if t = .f32 then (b, l) else fround (fmtOf t) e.mode e.fpm (fval .f32 b) l

/-- One operator on a stack of encodings, top first (R69, R130). -/
def fuseStepF (e : LaneEnv) (t : Ty) (op : FuseOp) (st : List Nat) (l : Word) : List Nat × Word :=
  let F := fmtOf t
  let v (x : Nat) := fread F e.fpm x
  let push (r : List Nat) (y : FVal) : List Nat × Word := let (b, l1) := fround F e.mode e.fpm y l; (b :: r, l1)
  match op, st with
  | .add, y :: x :: r => push r (xsum e.rdn [v x, v y])
  | .sub, y :: x :: r => push r (xsum e.rdn [v x, (v y).negate])
  | .mul, y :: x :: r => push r (xmul (v x) (v y))
  | .min, y :: x :: r => (minMax F e.fpm false x y :: r, l)
  | .max, y :: x :: r => (minMax F e.fpm true x y :: r, l)
  | .fma, z :: y :: x :: r => push r (xsum e.rdn [xmul (v x) (v y), v z])
  | .neg, x :: r => (flipSign F.width x :: r, l)
  | .abs, x :: r => (clearSign F.width x :: r, l)
  | .rcp, x :: r => push r (xrcp (v x))
  | .rsq, x :: r => push r (xrsq (v x))
  | .exp2, x :: r => let (b, l1) := fuseProc e t procExp2 x l; (b :: r, l1)
  | .log2, x :: r => let (b, l1) := fuseProc e t procLog2 x l; (b :: r, l1)
  | .dup, x :: r => (x :: x :: r, l)
  | .swap, y :: x :: r => (x :: y :: r, l)
  | .clamp01, x :: r => (satFloat F (flushEnc F e.fpm x) :: r, l)
  | _, r => (r, l)

/-- A word read signed. -/
def sword (x : Nat) : Int := sext (BitVec.ofNat 32 x)

/-- One operator under FT I32 (R131). -/
def fuseStepI (op : FuseOp) (st : List Nat) : List Nat :=
  let w (x : Int) : Nat := (x % 2 ^ 32).toNat
  match op, st with
  | .add, y :: x :: r => w (x + y) :: r
  | .sub, y :: x :: r => w ((x : Int) - y) :: r
  | .mul, y :: x :: r => w (x * y) :: r
  | .min, y :: x :: r => w (min (sword x) (sword y)) :: r
  | .max, y :: x :: r => w (max (sword x) (sword y)) :: r
  | .fma, z :: y :: x :: r => w (x * y + z) :: r
  | .neg, x :: r => w (-(x : Int)) :: r
  | .abs, x :: r => w (sword x).natAbs :: r
  | .dup, x :: r => x :: x :: r
  | .swap, y :: x :: r => x :: y :: r
  | _, r => r

/-- The slots in order until END: `ins` are the inputs not yet pushed (R70, R129). -/
def fuseSlots (e : LaneEnv) (t : Ty) : List Slot → List Nat → List Nat → Word → List Nat × Word
  | [], _, st, l => (st, l)
  | s :: rest, ins, st, l =>
    if s.op = .fin then (st, l)
    else
      let st1 := if s.push then ins.headD 0 :: st else st
      let ins1 := if s.push then ins.tail else ins
      let (st2, l1) := if t = .i32 then (fuseStepI s.op st1, l) else fuseStepF e t s.op st1 l
      fuseSlots e t rest ins1 st2 l1

/-- FUSE (R129). `x.vd` holds input D. -/
def laneFuse (f : FuseWord) (e : LaneEnv) (x : LaneIn) : LaneOut :=
  let t := fuseTy f.ft
  let rdE (y : DWord) (j : Nat) : Nat := if t = .i32 then elemNat t y j else flushEnc (fmtOf t) e.fpm (elemNat t y j)
  packSeq e (elemWidth t) t.count (fun j l =>
    let (st, l1) := fuseSlots e t f.slots [rdE x.b j, rdE x.c j, rdE x.vd j] [rdE x.a j] l
    let y := st.headD 0
    (if t ≠ .i32 ∧ (fval (fmtOf t) y).isNan then (fmtOf t).nanEnc else y, l1))

end Sys2Proof.Machine
end

