-- ==== Sys2Proof/Machine/Regs.lean ====
section
/-! DEFINITION. The registers of a slice with their dead flags and errors (spec R10 to R13, R27 to R29), gangs and their
positions (R145, R148), and the path of a slice (R133 to R135, R142, R143). -/

namespace Sys2Proof.Machine

open Sys2Proof

/-! ## Registers -/

/-- What a read of one register word gives: the word, whether it was poison, and whether an uncorrectable error was
found (R28, R29). -/
structure Rd where
  val : Word
  dead : Bool
  err : Bool
  deriving DecidableEq, Repr

/-- Register r of lane l. -/
def Slice.vRd (x : Slice) (r l : Nat) : Rd :=
  if x.bad.contains (false, r, l) then ⟨poisonWord, true, true⟩
  else match afind x.v (4 * r + l) with
    | some w => ⟨w, false, false⟩
    | none => ⟨poisonWord, true, false⟩

/-- s register r; a register never written holds a live zero (R31). -/
def Slice.sRd (x : Slice) (r : Nat) : Rd :=
  if x.bad.contains (true, r, 0) then ⟨poisonWord, true, true⟩
  else match afind x.s r with
    | none => ⟨0, false, false⟩
    | some (some w) => ⟨w, false, false⟩
    | some none => ⟨poisonWord, true, false⟩

/-- The word of an s register as a read finds it. -/
def Slice.sVal (x : Slice) (r : Nat) : Word := (x.sRd r).val
/-- The pair r, r + 1 (R12). -/
def Slice.sPair (x : Slice) (r : Nat) : DWord := pair (x.sVal (r + 1)) (x.sVal r)

/-- Removing an error that a write or a read has settled. -/
def Slice.dropBad (x : Slice) (e : Bool × Nat × Nat) : Slice :=
  if x.bad = [] then x else { x with bad := x.bad.filter (fun y => decide (y ≠ e)) }

/-- A write makes the register live in the lane (R27). -/
def Slice.vPut (x : Slice) (r l : Nat) (w : Word) : Slice :=
  { x.dropBad (false, r, l) with v := aput x.v (4 * r + l) w }
def Slice.vKill (x : Slice) (r l : Nat) : Slice := { x.dropBad (false, r, l) with v := adel x.v (4 * r + l) }
def Slice.sPut (x : Slice) (r : Nat) (w : Word) : Slice :=
  { x.dropBad (true, r, 0) with s := aset (some 0) x.s r (some w) }
def Slice.sKill (x : Slice) (r : Nat) : Slice := { x.dropBad (true, r, 0) with s := aset (some 0) x.s r none }
/-- A pair written to s registers, low word first (R12). -/
def Slice.sPutPair (x : Slice) (r : Nat) (w : DWord) : Slice := (x.sPut r (loWord w)).sPut (r + 1) (hiWord w)

/-- Mask register j; k0 reads as the active mask (R13). -/
def Slice.kGet (x : Slice) (j : Nat) : BitVec 4 := if j = 0 then x.active else aget 0 x.k j
/-- A write to k1 to k7. -/
def Slice.kPut (x : Slice) (j : Nat) (m : BitVec 4) : Slice := { x with k := aset 0 x.k j m }
/-- One bit of a mask. -/
def Slice.kPutBit (x : Slice) (j l : Nat) (b : Bool) : Slice := x.kPut j (setBit (x.kGet j) l b)

/-- Lanes of the active mask that satisfy a predicate (R8, R13). -/
def Slice.lanesOn (x : Slice) (pk : BitVec 3) (pn : Bool) : BitVec 4 :=
  if pk = 0 then x.active else x.active &&& (if pn then ~~~(x.kGet pk.toNat) else x.kGet pk.toNat)

/-- The poison that one source register showed: class, register, lanes, and whether an error was found (R28, R29). -/
structure Poison where
  scalar : Bool
  reg : Nat
  lanes : BitVec 4
  err : Bool
  deriving DecidableEq, Repr

/-- POISON after a record of this read, were V clear (R22, R28). -/
def Poison.word (p : Poison) : Word :=
  0#16 ++ (p.lanes ++ (BitVec.ofBool p.err ++ (1#1 ++ ((if p.scalar then 1#2 else 0#2) ++ BitVec.ofNat 8 p.reg))))

/-- The v register r as read in the lanes of a mask. -/
def Slice.vPoison (x : Slice) (r : Nat) (m : BitVec 4) : Option Poison :=
  let d := maskOf (fun l => m.getLsbD l && (x.vRd r l).dead)
  if d = 0 then none else some ⟨false, r, d, (lanes.any (fun l => m.getLsbD l && (x.vRd r l).err))⟩

/-- The s register r as read. -/
def Slice.sPoison (x : Slice) (r : Nat) : Option Poison :=
  if (x.sRd r).dead then some ⟨true, r, 0xF, (x.sRd r).err⟩ else none

/-- A register whose error a read has found is dead from then on (R29). -/
def Slice.settle (x : Slice) (p : Poison) : Slice :=
  if !p.err then x
  else if p.scalar then (if (x.sRd p.reg).err then x.sKill p.reg else x)
  else lanes.foldl (fun y l => if p.lanes.getLsbD l && (y.vRd p.reg l).err then y.vKill p.reg l else y) x

/-- The record of the first poison read, and the errors settled (R28, R29). -/
def Slice.recordPoison (x : Slice) (ps : List Poison) : Slice :=
  match ps with
  | [] => x
  | p :: _ => ps.foldl Slice.settle (x.notePoison p.lanes p.err (if p.scalar then 1 else 0) (BitVec.ofNat 8 p.reg))

/-! ## Pending registers (R169) -/

/-- What a read of the place finds. -/
def Landing.now (e : Landing) : Option Word := if e.shown then some e.new else e.old

/-- A place holds a word, or is dead. -/
def Slice.vHold (x : Slice) (r l : Nat) : Option Word → Slice
  | some w => { x with v := aput x.v (4 * r + l) w }
  | none => { x with v := adel x.v (4 * r + l) }

/-- A place of a landing as it stands: a value other than the one last shown was written since. -/
def Slice.landingNow (x : Slice) (e : Landing) : Landing :=
  let cur := afind x.v (4 * e.reg + e.lane)
  if cur = e.now then e else { e with old := cur, written := true, shown := false }

/-- A word of a far load lands in a lane; `c` says which value a read finds. -/
def Slice.landWord (x : Slice) (parent r l : Nat) (w : Word) (c : Bool) : Slice :=
  let e : Landing := ⟨parent, r, l, afind x.v (4 * r + l), w, c, false⟩
  { (x.dropBad (false, r, l)).vHold r l e.now with
    landings := x.landings.filter (fun y => decide (¬ (y.reg = r ∧ y.lane = l))) ++ [e] }

/-- Every pending place shows its old or its landed value, each by its own choice. -/
def Slice.reveal (x : Slice) (c : Nat → Bool) : Slice :=
  x.landings.foldl (fun y e =>
    let d := { y.landingNow e with shown := c (4 * e.reg + e.lane) }
    { y.vHold e.reg e.lane d.now with landings := y.landings ++ [d] }) { x with landings := [] }

/-- The landings of an instruction, or of all, are final: the landed value, unless the place was written since. -/
def Slice.landed (x : Slice) (p : Nat → Bool) : Slice :=
  (x.landings.filter (fun e => p e.parent)).foldl (fun y e =>
    if (y.landingNow e).written then y else y.vHold e.reg e.lane (some e.new))
    { x with landings := x.landings.filter (fun e => !p e.parent) }

/-! ## Gangs -/

/-- Key of the gang of a slice that runs alone after a trap (R145). -/
def aloneKey (k : Nat) : Nat := 2 ^ 20 + k

/-- The slices of a slice's current gang, each once, in slice-number order (R145). -/
def State.members (s : State) (k : Nat) : List Nat :=
  (s.tm (s.sl k).team).slices.dedup.filter (fun j => decide ((s.sl j).gang = (s.sl k).gang) && !(s.sl j).done)

/-- The launch gang of a slice less its exited slices (R145). -/
def State.launchGang (s : State) (t g : Nat) : List Nat :=
  (s.tm t).slices.filter (fun j => decide ((s.sl j).idx / 8 = g) && !(s.sl j).done)

/-- Does the slice's gang differ from its launch gang (R145)? -/
def State.parted (s : State) (k : Nat) : Bool := decide (s.members k ≠ s.launchGang (s.sl k).team ((s.sl k).idx / 8))

/-- Position of k in a list. -/
def posIn (k : Nat) : List Nat → Nat
  | [] => 0
  | j :: r => if j = k then 0 else posIn k r + 1

/-- The GANG register (R16). -/
def State.gangWord (s : State) (k : Nat) : Word :=
  let ms := s.members k
  BitVec.ofNat 32 ((s.sl k).idx / 8 % 4 + 4 * (posIn k ms % 8) + 32 * ((ms.length - 1) % 8) + (if s.parted k then 256 else 0))

/-- REMAP: byte p holds the core slice index at position p of the gang, or 0xFF (R148, R220). -/
def remapWords (ms : List Nat) : List Word :=
  let byte (p : Nat) : Byte := match ms[p]? with | some k => BitVec.ofNat 8 (k % 64) | none => 0xFF
  [byte 3 ++ (byte 2 ++ (byte 1 ++ byte 0)), byte 7 ++ (byte 6 ++ (byte 5 ++ byte 4))]

/-- Slices formed into one gang. -/
def State.setGang (s : State) (ks : List Nat) : State := s.modSls ks (fun x => { x with gang := ks.headD 0, ahead := false })

/-- Slices of a team leave their gangs: those that stay behind in each keep it (R146, R147). -/
def State.leftBehind (s : State) (t : Nat) (ks : List Nat) : State :=
  let old := (ks.map (fun k => (s.sl k).gang)).dedup
  let rest := (s.tm t).slices.filter (fun k => !(s.sl k).done && old.contains (s.sl k).gang && !ks.contains k)
  s.modSls rest (fun x => { x with gang := (rest.filter (fun j => decide ((s.sl j).gang = x.gang))).headD 0 })

/-- A slice leaves its gang and runs alone (R145, R217). -/
def State.leave (s : State) (k : Nat) : State :=
  let rest := (s.members k).filter (fun j => decide (j ≠ k))
  (s.modSls rest (fun x => { x with gang := rest.headD 0 })).modSl k (fun x => { x with gang := aloneKey k, ahead := false })

/-- The first slice of a list at an address. -/
def State.firstAt (s : State) (ms : List Nat) (pc : Word) : Nat :=
  ((ms.filter (fun j => decide ((s.sl j).pc = pc))).headD 0)

/-- Parting (R145): slices whose next PCs differ become gangs of their own; slices that run alone stay so. -/
def State.part (s : State) (ms : List Nat) : State :=
  let rest := ms.filter (fun j => !(s.sl j).done && decide ((s.sl j).gang ≠ aloneKey j))
  s.modSls rest (fun x => { x with gang := s.firstAt rest x.pc, ahead := false })

/-! ## The path of a slice -/

/-- A stack entry's masks without exited lanes (R135, R142). -/
def StackEntry.live (e : StackEntry) (exited : BitVec 4) : BitVec 4 := e.mask &&& ~~~exited
def StackEntry.pc (e : StackEntry) : Word := e.addr ++ 0#2

/-- A token T(L, A) and a parked side P(pc, M). -/
def tokenEntry (l : Word) (a : BitVec 4) : StackEntry := ⟨1, a, l.extractLsb' 2 30⟩
def parkedEntry (pc : Word) (m : BitVec 4) : StackEntry := ⟨2, m, pc.extractLsb' 2 30⟩

/-- `next_path` over the entries, top first (R135). -/
def Slice.nextPathFrom (x : Slice) : List StackEntry → Slice
  | [] => { x with stack := [], active := 0, done := true }
  | e :: below =>
    if e.kind = 2 ∧ e.live x.exited ≠ 0 then
      { x with stack := below.reverse, active := e.live x.exited, pc := e.pc, fairCount := 0 }
    else if e.kind = 1 ∧ e.live x.exited ≠ 0 then
      { x with stack := below.reverse, active := e.live x.exited, pc := e.pc + 4, fairCount := 0 }
    else x.nextPathFrom below

/-- `next_path` (R135); the slice exits when nothing is left. -/
def Slice.nextPath (x : Slice) : Slice := x.nextPathFrom x.stack.reverse

/-- The switch target (R143), as its place from the top: the topmost live parked side above the innermost token. -/
def switchPlace (exited : BitVec 4) : List StackEntry → Nat → Option Nat
  | [], _ => none
  | e :: below, n =>
    if e.kind = 1 then none
    else if e.kind = 2 ∧ e.live exited ≠ 0 then some n
    else switchPlace exited below (n + 1)

/-- A switch to the target when there is one (R143); `pc` is the address of the next instruction. -/
def Slice.switchPath (x : Slice) (pc : Word) : Slice :=
  let top := x.stack.reverse
  match switchPlace x.exited top 0 with
  | none => { x with pc := pc }
  | some n =>
    let e := top.getD n ⟨0, 0, 0⟩
    { x with
      stack := (top.set n (parkedEntry pc x.active)).reverse
      active := e.live x.exited
      pc := e.pc
      fairCount := 0 }

/-- The innermost token whose L is an address gains arrivals (R139, R140); entries top first. -/
def arrive (l : Word) (m : BitVec 4) : List StackEntry → Option (List StackEntry)
  | [] => none
  | e :: below =>
    if e.kind = 1 ∧ e.pc = l then some ({ e with mask := e.mask ||| m } :: below)
    else (arrive l m below).map (e :: ·)

end Sys2Proof.Machine
end

