-- ==== Sys2Proof/Machine/Operands.lean ====
section
/-! DEFINITION. Operands of the long instructions: sources in order, what they read, last use, destinations, results in a
lane, and the figures of R99, R132 and R155 (spec R25 to R29, R64 to R67, R89, R95 to R98, R119, R121, R129). -/

namespace Sys2Proof.Machine

open Sys2Proof

/-! ## Sources and destinations -/

/-- One source position: 0 to 3 for A to D, 4 for VD read as a source; its field, and how many words it holds. -/
structure Src where
  pos : Nat
  kind : Kind
  idx : Nat
  regs : Nat
  last : Bool
  deriving DecidableEq, Repr

/-- An operand position that the rule uses. -/
def srcOf (r : OpRule) (pos : Nat) (o : Opnd) : List Src :=
  if r.kinds = [] then [] else [⟨pos, o.kind, o.idx.toNat, r.regs, o.last⟩]

/-- An input of FUSE (R68). -/
def fuseSrc (pos : Nat) (i : FuseIn) : Src := ⟨pos, .v, i.idx.toNat, 1, i.last⟩

/-- The sources of an instruction in operand order A, B, C, D, then VD where it is read (R28, R89, R222). -/
def sources (i : Instr) : List Src :=
  match i with
  | .fuse f => ([fuseSrc 0 f.a, fuseSrc 1 f.b, fuseSrc 2 f.c, fuseSrc 3 f.d]).take (f.pushes.getD 0 + 1)
  | _ => match longRule i with
    | none => []
    | some (f, r) => srcOf r.a 0 f.a ++ srcOf r.b 1 f.b ++ srcOf r.c 2 f.c ++ srcOf r.d 3 f.d ++
        (if r.vdSrc then [⟨4, .v, f.vd.toNat, (match r.vd with | .v n => n | _ => 1), false⟩] else [])

/-- Where the result goes (R67). -/
def destOf (i : Instr) : VdRule × Nat :=
  match i with
  | .fuse f => (.v 1, f.vd.toNat)
  | _ => match longRule i with
    | none => (.none, 0)
    | some (f, r) => (r.vd, f.vd.toNat)

/-- The predicate fields (R13). -/
def predOf (i : Instr) : BitVec 3 × Bool :=
  match i with
  | .fuse f => (f.pk, f.pn)
  | _ => match longRule i with
    | none => (0, false)
    | some (f, _) => (f.pk, f.pn)

/-- The immediate word of a long instruction. -/
def immOf (i : Instr) : Word := match longRule i with | some (f, _) => f.imm32 | none => 0

/-- Is the instruction of type F64, whose immediate is widened from F32 (R65)? -/
def isF64 (i : Instr) : Bool := match longRule i with | some (f, _) => decide (f.ty = .f64) | none => false

/-- IMM32 as an operand of so many words (R65). A 64-bit source of a CVT goes by TY as well, its destination (DESIGN CHOICE, log
entry 51). -/
def immVal (i : Instr) (regs : Nat) : DWord :=
  let w := immOf i
  if regs = 2 then (if isF64 i then BitVec.ofNat 64 (fround .f64 1 0 (fval .f32 w.toNat) 1).1 else w.signExtend 64)
  else w.setWidth 64

/-- The constant-bank words an instruction reads, by index (R65). -/
def constsOf (i : Instr) : List Nat :=
  (sources i).flatMap (fun o => if o.kind = .cb then (List.range o.regs).map (fun n => o.idx + n) else [])

/-- The value of a source in a lane, words of the constant bank given. -/
def srcVal (i : Instr) (x : Slice) (cs : Assoc Word) (l : Nat) (o : Src) : DWord :=
  let word (n : Nat) : Word := match o.kind with
    | .v => (x.vRd (o.idx + n) l).val
    | .s => (x.sRd (o.idx + n)).val
    | .cb => aget 0 cs (o.idx + n)
    | .imm => 0
  if o.kind = .imm then immVal i o.regs
  else if o.regs = 2 then pair (word 1) (word 0) else (word 0).setWidth 64

/-- A source position's value, zero when the instruction has no such source. -/
def srcAt (i : Instr) (x : Slice) (cs : Assoc Word) (l p : Nat) : DWord :=
  match (sources i).find? (fun o => decide (o.pos = p)) with
  | none => 0
  | some o => srcVal i x cs l o

/-- The operand values of a lane. FUSE keeps its input D where the others keep VD. -/
def laneIn (i : Instr) (x : Slice) (cs : Assoc Word) (l : Nat) : LaneIn :=
  ⟨srcAt i x cs l 0, srcAt i x cs l 1, srcAt i x cs l 2,
    match i with | .fuse _ => srcAt i x cs l 3 | _ => srcAt i x cs l 4⟩

/-- The words of a value as a replay entry holds them (R222). -/
def wordsOf (regs : Nat) (v : DWord) : List Word := if regs = 2 then [loWord v, hiWord v] else [loWord v]

/-- The captured operand words of a lane (R222). -/
def laneWords (i : Instr) (x : Slice) (cs : Assoc Word) (l : Nat) : List Word :=
  (sources i).flatMap (fun o => wordsOf o.regs (srcVal i x cs l o))

/-- A position's value among captured operand words. -/
def capturedAt (srcs : List Src) (ws : List Word) (p : Nat) : DWord :=
  match srcs with
  | [] => 0
  | o :: r =>
    if o.pos = p then (if o.regs = 2 then pair (ws.getD 1 0) (ws.getD 0 0) else (ws.getD 0 0).setWidth 64)
    else capturedAt r (ws.drop o.regs) p

/-- The operand values of a lane from its captured words (R226). -/
def laneInOf (i : Instr) (ws : List Word) : LaneIn :=
  let g := capturedAt (sources i) ws
  ⟨g 0, g 1, g 2, match i with | .fuse _ => g 3 | _ => g 4⟩

/-! ## Poison and last use -/

/-- The poison each source register shows, in operand order, member by member, in the lanes of a mask (R28). -/
def srcPoison (i : Instr) (x : Slice) (m : BitVec 4) : List Poison :=
  (sources i).flatMap (fun o => (List.range o.regs).filterMap (fun n =>
    match o.kind with
    | .v => x.vPoison (o.idx + n) m
    | .s => if m = 0 then none else x.sPoison (o.idx + n)
    | _ => none))

/-- Last use: the register dies in the active lanes, an s register when some lane is active (R27). -/
def killSrc (m : BitVec 4) (x : Slice) (o : Src) : Slice :=
  if !o.last ∨ m = 0 then x
  else (List.range o.regs).foldl (fun y n =>
    match o.kind with
    | .v => lanes.foldl (fun z l => if m.getLsbD l then z.vKill (o.idx + n) l else z) y
    | .s => y.sKill (o.idx + n)
    | _ => y) x

def killAll (i : Instr) (x : Slice) (m : BitVec 4) : Slice := (sources i).foldl (killSrc m) x

/-! ## Results in a lane -/

/-- What an instruction of R218 computes in lane l. -/
def laneFn (i : Instr) : Option (LaneEnv → LaneIn → Nat → LaneOut) :=
  match i with
  | .iadd f => some (fun e x _ => laneIadd f e x)
  | .isub f => some (fun e x _ => laneIsub f e x)
  | .imul f => some (fun e x _ => laneImul f e x)
  | .imulh f => some (fun e x _ => laneImulh f e x)
  | .imad f => some (fun e x _ => laneImad f e x)
  | .imadw f => some (fun e x _ => laneImadw f e x)
  | .imin f => some (fun e x _ => laneImin f e x)
  | .imax f => some (fun e x _ => laneImax f e x)
  | .iabs f => some (fun e x _ => laneIabs f e x)
  | .iand f => some (fun e x _ => laneIand f e x)
  | .ior f => some (fun e x _ => laneIor f e x)
  | .ixor f => some (fun e x _ => laneIxor f e x)
  | .iandn f => some (fun e x _ => laneIandn f e x)
  | .ishl f => some (fun e x _ => laneIshl f e x)
  | .ishr f => some (fun e x _ => laneIshr f e x)
  | .isra f => some (fun e x _ => laneIsra f e x)
  | .irot f => some (fun e x _ => laneIrot f e x)
  | .ipopc f => some (fun e x _ => laneIpopc f e x)
  | .iclz f => some (fun e x _ => laneIclz f e x)
  | .ibrev f => some (fun e x _ => laneIbrev f e x)
  | .ibfx f => some (fun e x _ => laneIbfx f e x)
  | .ibfi f => some (fun e x _ => laneIbfi f e x)
  | .iperm f => some (fun e x _ => laneIperm f e x)
  | .icmp f => some (fun e x _ => laneIcmp f e x)
  | .isad f => some (fun e x _ => laneIsad f e x)
  | .iadd64 f => some (fun e x _ => laneIadd64 f e x)
  | .mov f => some (fun e x _ => laneMov f e x)
  | .movi f => some (fun e x _ => laneMovi f e x)
  | .sel f => some (fun e x _ => laneSel f e x)
  | .movs f => some (fun e x _ => laneMov f e x)
  | .movkToMask f => some (fun e x l => laneMovkToMask f e x l)
  | .movkToVector f => some (fun e x _ => laneMovkToVector f e x)
  | .vtos f => some (fun e x _ => laneMov f e x)
  | .vtosFirst f => some (fun e x _ => laneMov f e x)
  | .fadd f => some (fun e x _ => laneFadd f e x)
  | .fsub f => some (fun e x _ => laneFsub f e x)
  | .fmul f => some (fun e x _ => laneFmul f e x)
  | .ffma f => some (fun e x _ => laneFfma f e x)
  | .fmin f => some (fun e x _ => laneFmin f e x)
  | .fmax f => some (fun e x _ => laneFmax f e x)
  | .fneg f => some (fun e x _ => laneFneg f e x)
  | .fabs f => some (fun e x _ => laneFabs f e x)
  | .fcmp f => some (fun e x _ => laneFcmp f e x)
  | .fclass f => some (fun e x _ => laneFclass f e x)
  | .frnd f => some (fun e x _ => laneFrnd f e x)
  | .ffrac f => some (fun e x _ => laneFfrac f e x)
  | .fldexp f => some (fun e x _ => laneFldexp f e x)
  | .fgetexp f => some (fun e x _ => laneFgetexp f e x)
  | .cvt f => some (fun e x _ => laneCvt f e x)
  | .pack f => some (fun e x _ => lanePack f e x)
  | .unpack f => some (fun e x _ => laneUnpack f e x)
  | .scaleFit f => some (fun e x _ => laneScaleFit f e x)
  | .scaleApply f => some (fun e x _ => laneScaleApply f e x)
  | .rcp f => some (fun e x _ => laneRcp f e x)
  | .rsq f => some (fun e x _ => laneRsq f e x)
  | .sqrt f => some (fun e x _ => laneSqrt f e x)
  | .exp2 f => some (fun e x _ => laneExp2 f e x)
  | .log2 f => some (fun e x _ => laneLog2 f e x)
  | .sinpi f => some (fun e x _ => laneSinpi f e x)
  | .cospi f => some (fun e x _ => laneCospi f e x)
  | .dot2 f => some (fun e x _ => laneDot2 f e x)
  | .dot4 f => some (fun e x _ => laneDot4 f e x)
  | .dot8 f => some (fun e x _ => laneDot8 f e x)
  | .fuse f => some (fun e x _ => laneFuse f e x)
  | _ => none

/-- The mask register whose lane bit the result reads (R96, R98). -/
def maskRead (i : Instr) : Option Nat :=
  match i with
  | .sel f | .movkToVector f => some (bits f.ext8 0 3)
  | _ => none

/-- The rounding mode resolved at issue, or 0 for an instruction that does not round (R8, R222). -/
def modeOf (i : Instr) (fpmode : Word) : Nat :=
  match i with
  | .fuse f => if f.ft = .i32 then 0 else bits fpmode 0 3
  | _ => match longRule i with
    | none => 0
    | some (f, r) => if r.rm then (if f.rm = 0 then bits fpmode 0 3 else f.rm.toNat) else 0

/-- A lane's result written to the destination, which becomes live (R27); the LFSR follows. -/
def putLane (d : VdRule × Nat) (l : Nat) (o : LaneOut) (x : Slice) : Slice :=
  let y := { x with lfsr := x.lfsr.set l o.lfsr }
  match d.1 with
  | .none => y
  | .v n => if n = 2 then (y.vPut d.2 l (loWord o.val)).vPut (d.2 + 1) l (hiWord o.val) else y.vPut d.2 l (loWord o.val)
  | .s n => if n = 2 then y.sPutPair d.2 o.val else y.sPut d.2 (loWord o.val)
  | .k => y.kPutBit d.2 l o.bit

/-- The lanes in which an instruction of R218 writes: MOVS and VTOS write once, from one lane (R97). -/
def writeLanes (i : Instr) (m : BitVec 4) : List Nat :=
  if m = 0 then []
  else match i with
    | .movs _ | .vtosFirst _ => (lanes.filter (fun l => m.getLsbD l)).take 1
    | .vtos f => [bits f.ext8 0 2]
    | _ => lanes.filter (fun l => m.getLsbD l)

/-- The lanes in which the sources are read: VTOS reads its chosen lane whether or not it is active (R97). -/
def readLanes (i : Instr) (m : BitVec 4) : BitVec 4 :=
  match i with
  | .vtos f => if m = 0 then 0 else BitVec.ofNat 4 (2 ^ bits f.ext8 0 2)
  | .vtosFirst _ => maskOf (fun l => (writeLanes i m).contains l)
  | _ => m

/-- The environment of a lane's result. -/
def laneEnv (i : Instr) (x : Slice) (mode : Nat) (fpm : BitVec 10) (pos l : Nat) : LaneEnv :=
  ⟨mode, fpm, 4 * pos + l, (match maskRead i with | some j => (x.kGet j).getLsbD l | none => false),
    (x.kGet (destOf i).2).getLsbD l, x.lfsr.get l⟩

/-- Results written in lanes m, operand values by lane given (R9: every source was read before). -/
def runLanes (i : Instr) (m : BitVec 4) (mode : Nat) (fpm : BitVec 10) (pos : Nat) (ops : Nat → LaneIn) (x : Slice) : Slice :=
  match laneFn i with
  | none => x
  | some fn => (writeLanes i m).foldl (fun y l => putLane (destOf i) l (fn (laneEnv i y mode fpm pos l) (ops l) l) y) x

/-- The registers the results overwrite, with what they hold (R217). -/
def undoDest (i : Instr) (m : BitVec 4) (x : Slice) : List Undo :=
  let d := destOf i
  if m = 0 then []
  else match d.1 with
    | .none => []
    | .v n => (writeLanes i m).flatMap (fun l => (List.range n).map (fun r => .v (d.2 + r) l (afind x.v (4 * (d.2 + r) + l))))
    | .s n => (List.range n).map (fun r => .s (d.2 + r) (match afind x.s (d.2 + r) with | none => some 0 | some y => y))
    | .k => [.k d.2 (x.kGet d.2)]

/-- The places the results overwrite, the LFSRs among them, with what they hold (R32, R217). -/
def undoOf (i : Instr) (mode : Nat) (m : BitVec 4) (x : Slice) : List Undo :=
  undoDest i m x ++ (if mode = 5 then [.lfsr x.lfsr] else [])

/-- One overwritten place put back. -/
def Slice.undo (x : Slice) (u : Undo) : Slice :=
  match u with
  | .v r l (some w) => { x with v := aput x.v (4 * r + l) w }
  | .v r l none => { x with v := adel x.v (4 * r + l) }
  | .s r o => { x with s := aset (some 0) x.s r o }
  | .k j m => x.kPut j m
  | .lfsr q => { x with lfsr := q }

/-! ## Figures (R99, R132) -/

/-- Does a form read or write a 64-bit pair in its lanes? -/
def wide64 (i : Instr) : Bool :=
  match i with
  | .fuse _ => false
  | .cvt f => decide (f.ty.regs = 2 ∨ f.sty.regs = 2)
  | _ => match longRule i with
    | none => false
    | some (f, _) => decide (f.ty.regs = 2)

/-- Slots before END, and those of RCP, RSQ, EXP2 and LOG2 (R132). -/
def fuseCounts (ss : List Slot) : Nat × Nat :=
  let run := ss.takeWhile (fun s => decide (s.op ≠ .fin))
  (run.length, (run.filter (fun s => decide (s.op ∈ [FuseOp.rcp, .rsq, .exp2, .log2]))).length)

/-- Pipe cycles and result latency of an instruction of R218. -/
def figures (i : Instr) : Nat × Nat :=
  let two := if wide64 i then 2 else 1
  match i with
  | .imul _ | .imulh _ | .imad _ | .isad _ => (1, 6)
  | .imadw _ | .iadd64 _ => (2, 8)
  | .movs _ | .vtos _ | .vtosFirst _ => (1, 6)
  | .fadd _ | .fsub _ | .fmul _ | .ffma _ | .frnd _ | .ffrac _ | .fldexp _ => if wide64 i then (8, 12) else (1, 4)
  | .rcp _ | .rsq _ | .sqrt _ => if wide64 i then (32, 40) else (4, 16)
  | .exp2 _ | .log2 _ | .sinpi _ | .cospi _ => (4, 20)
  | .dot2 _ | .dot4 _ | .dot8 _ => (1, 6)
  | .fuse f => (1 + 3 * (fuseCounts f.slots).2, max 4 (4 * (fuseCounts f.slots).1))
  | _ => (two, 4)

/-- The cycle in which the result of an instruction issued now is written. -/
def dueOf (i : Instr) (now : Nat) : Nat := now + (figures i).1 - 1 + (figures i).2

end Sys2Proof.Machine
end

