-- ==== Sys2Proof/Machine/Ops.lean ====
section
/-! DEFINITION. Taking a trap and returning from one (spec R217 to R229), instruction and constant fetch (R80, R134, R302),
when an instruction can issue (R14, R178, R211, R218), the completion of short and long instructions, and the account of
issued work (R214, R385, R388). -/

namespace Sys2Proof.Machine

open Sys2Proof

/-! ## Causes (R227) -/

def causeIllegal : BitVec 8 := 0x01
def causePoison : BitVec 8 := 0x02
def causeTokenOvf : BitVec 8 := 0x03
def causeUniformMiss : BitVec 8 := 0x04
def causeScaleLayout : BitVec 8 := 0x05
def causeAccRange : BitVec 8 := 0x06
def causeLocalBounds : BitVec 8 := 0x07
def causeMisalign : BitVec 8 := 0x08
def causeFarErr : BitVec 8 := 0x09
def causeCopyFault : BitVec 8 := 0x0A
def causeDeadlock : BitVec 8 := 0x0B
def causeWftOverflow : BitVec 8 := 0x0C
def causeFenceClamp : BitVec 8 := 0x0D
def causeWatchdog : BitVec 8 := 0x0E
def causeSoftware : BitVec 8 := 0x0F

/-- The cause word (R221). -/
def causeWord (nreplay : Nat) (i : TrapInfo) : Word :=
  0#8 ++ (BitVec.ofNat 4 nreplay ++ (i.lanes ++ (i.detail ++ i.cause)))

/-! ## The frame (R220, R222) -/

/-- A frame from its words in order; absent words are zero. -/
def frameFrom (n : Nat) : List Word → Frame
  | [] => []
  | w :: r => if w = 0 then frameFrom (n + 1) r else (n, w) :: frameFrom (n + 1) r

def Frame.word (f : Frame) (n : Nat) : Word := aget 0 f n
def Frame.setWord (f : Frame) (n : Nat) (w : Word) : Frame := aset 0 f n w

/-- The entry word of a replay entry (R222). -/
def Replay.entryWord (r : Replay) : Word :=
  1#1 ++ (0#11 ++ (r.pos ++ (r.fpm ++ (r.rm ++ r.lanes))))

/-- A list of words made n long with zeros. -/
def padTo (n : Nat) (ws : List Word) : List Word := ws ++ List.replicate (n - ws.length) 0

/-- The 28 words of a replay entry (R222). -/
def Replay.words (r : Replay) : List Word :=
  [r.g0, r.g1, r.g2, r.entryWord] ++ Sys2Proof.lanes.flatMap (fun l => padTo 6 (r.ops.get l))

/-- A token-stack entry in the layout of R133, low word first. -/
def StackEntry.words (e : StackEntry) : List Word := [e.addr.setWidth 32, e.kind ++ (e.mask ++ 0#26)]

/-- A token-stack entry from its two words. -/
def StackEntry.ofWords (lo hi : Word) : StackEntry := ⟨hi.extractLsb' 30 2, hi.extractLsb' 26 4, lo.extractLsb' 0 30⟩

/-- k0 to k7 in one word, kj in bits [4j + 3 : 4j] (R220). -/
def Slice.masksWord (x : Slice) : Word :=
  x.kGet 7 ++ (x.kGet 6 ++ (x.kGet 5 ++ (x.kGet 4 ++ (x.kGet 3 ++ (x.kGet 2 ++ (x.kGet 1 ++ x.kGet 0))))))

/-- Cycles that remain on the regang timer of a slice's launch gang; 0 when it never expires (R147). -/
def State.regangLeft (s : State) (k : Nat) : Nat :=
  match afind (s.tm (s.sl k).team).rgDue ((s.sl k).idx / 8) with
  | none => 0
  | some due => max 1 (due - s.cycle)

/-- The frame that R220 lays down, for a trap or for a halt; `caps` are the captured entries, whose results the masks and
the LFSRs do not hold (R217), and `extra` the cycle record of DEADLOCK. -/
def State.buildFrame (s : State) (k : Nat) (i : TrapInfo) (caps : List Replay) (extra : List Word) : Frame :=
  let x := s.sl k
  let waiting := decide (x.wait = some .regang)
  let kept := caps.reverse.foldl (fun y r => r.undo.foldl Slice.undo y) x
  frameFrom 0 ([causeWord caps.length i, i.pc &&& ~~~3#32, i.info0, i.info1, kept.masksWord, 0, s.gangWord k,
    BitVec.ofNat 23 0 ++ (BitVec.ofBool waiting ++ (BitVec.ofNat 4 x.stack.length ++ x.exited))] ++
    remapWords (s.members k) ++
    [if waiting then BitVec.ofNat 32 (s.regangLeft k) else 0, x.fairCount.setWidth 32] ++
    lanes.map kept.lfsr.get ++ padTo 16 (x.stack.flatMap StackEntry.words) ++ caps.flatMap Replay.words ++ extra)

/-! ## Capture (R217, R218, R229) -/

/-- Captured entries: issued, their results not yet written. -/
def Slice.captured (x : Slice) (now : Nat) : List Replay := x.inflight.filter (fun r => decide (now < r.due))

/-- The replay queue: from the oldest entry on whose result is not yet written (R218). -/
def Slice.queue (x : Slice) (now : Nat) : List Replay := x.inflight.dropWhile (fun r => decide (r.due ≤ now))

/-- The slice with the results of captured entries discarded, the last issued first. -/
def Slice.discard (x : Slice) (now : Nat) : Slice :=
  { (x.captured now).reverse.foldl (fun y r => r.undo.foldl Slice.undo y) x with inflight := [] }

/-! ## Trap events (R228, R391) -/

/-- A class-1 or class-4 event of a slice. -/
def State.trapEvent (s : State) (k : Nat) (causew pc info0 info1 : Word) (cls : BitVec 8) : State :=
  let t := (s.sl k).team
  let tm := s.tm t
  s.appendEvent tm.part (causew ++ (pc ++ (info0 ++ (whoBits tm.job tm.gen t (dieOfCore (coreOfTeam t)) ++
    (0#1 ++ (info1 ++ (cls ++ (BitVec.ofNat 6 (k % 64) ++ (0#2 ++ s.nsWord)))))))))

/-- Does a trap of this cause append a class-1 event (R227)? That of POISON follows the error found (State.poisonEvent), and that
of DEADLOCK is one for a gang (State.deadlock). -/
def causeHasEvent (i : TrapInfo) : Bool := decide (i.cause = causeCopyFault ∨ i.cause = causeWatchdog)

/-! ## Entering a trap (R217, R219, R224) -/

/-- The wait entry that a wait has registered. -/
def Wait.entry : Wait → Option Nat
  | .barwait _ _ _ e _ _ => e
  | .tsync _ e _ _ => e
  | .key w _ => w.entry
  | _ => none

/-- The slice that leads a gang-wide wait, when the wait is one (R310). -/
def Wait.leader : Wait → Option Nat
  | .key _ l | .mmagokClose _ l => some l
  | _ => none

def Wait.ledBy (l : Nat) : Wait → Wait
  | .key w _ => .key w l
  | .mmagokClose sd _ => .mmagokClose sd l
  | w => w

/-- The slices that wait under slice k, itself aside. -/
def State.followers (s : State) (k : Nat) : List Nat :=
  (s.slices.filter (fun y => decide (y.1 ≠ k) && decide (y.2.wait.bind Wait.leader = some k))).map Prod.fst

/-- A gang-wide wait whose lead slice leaves goes on for the others: the lowest of them leads it, with the wait as it stands, and
its registered entry names that slice (R217, R325). -/
def State.passLead (s : State) (k : Nat) : State :=
  match s.followers k, (s.sl k).wait with
  | j :: r, some w =>
    let s1 := s.modSls (j :: r) (fun x => { x with wait := some (w.ledBy j) })
    match w.entry with
    | none => s1
    | some e => { s1 with wft := s1.wft.map (fun y => if y.id = e then { y with slice := j } else y) }
  | _, _ => s

/-- A launch gang with no slice left at REGANG has no regang timer running (R147). -/
def State.stopRegang (s : State) (t g : Nat) : State :=
  if (s.launchGang t g).any (fun j => decide ((s.sl j).wait = some .regang)) then s
  else s.modTm t (fun y => { y with rgDue := adel y.rgDue g })

/-- The entry of slice k's wait leaves the table, and a walk that it began is over (R309, R322). -/
def State.waitOver (s : State) (k : Nat) : State :=
  { s with
    wft := s.wft.filter (fun e => !(decide (e.kind = 0 ∧ e.slice = k ∧ e.team = (s.sl k).team)))
    walks := s.walks.filter (fun w => decide (w.slice ≠ k)) }

/-- The slice's wait ends without its condition: it passes to the other slices of a gang-wide wait (R325), or its entry leaves the
table; its arrival at the team barrier is withdrawn with the wait, and so is its part in a regang timer. -/
def State.dropWait (s : State) (k : Nat) : State :=
  let s1 := (s.passLead k).waitOver k
  let s2 := s1.modSl k (fun x => { x with wait := none })
  match (s.sl k).wait with
  | some (.tsync _ _ _ _) => s2.modTm (s.sl k).team (fun y => { y with arrived := y.arrived.filter (fun j => decide (j ≠ k)) })
  | some .regang => s2.stopRegang (s.sl k).team ((s.sl k).idx / 8)
  | _ => s2

/-- Trap permits of a core in use: one for each slice with a frame (R217). -/
def State.permitsUsed (s : State) (core : Nat) : Nat :=
  (s.slices.filter (fun e => decide (coreOfSlice e.1 = core) && e.2.frame.isSome)).length

/-- A slice takes a permit and a frame and enters trap mode (R217): the frame, the empty stack, k0 with every lane not
exited, the PC at TRAPVEC. With TRAPVEC 0 it stops there (R224). -/
def State.enterTrap (s : State) (k : Nat) (i : TrapInfo) (extra : List Word) : State :=
  let x := s.sl k
  let caps := x.captured s.cycle
  let frame := s.buildFrame k i caps extra
  let vec := (s.tm x.team).trapvec
  let s1 := ((s.dropWait k).leave k).modSl k (fun y =>
    { y.discard s.cycle with
      frame := some frame
      stack := []
      active := ~~~y.exited
      pc := vec
      granule := none
      backoffLen := 64
      wait := if vec = 0 then some .stopped else none })
  if vec = 0 then s1.trapEvent k (frame.word 0) (frame.word 1) 0 (frame.word 2) 4
  else if causeHasEvent i then s1.trapEvent k (frame.word 0) (frame.word 1) (frame.word 2) (frame.word 3) 1
  else s1

/-- A trap in trap mode stops the slice, its instruction unexecuted (R224). -/
def State.doubleTrap (s : State) (k : Nat) (f : Frame) (i : TrapInfo) : State :=
  ((s.dropWait k).modSl k (fun y => { y with wait := some .stopped })).trapEvent k (f.word 0) (f.word 1) (causeWord 0 i)
    i.info0 4

/-- The remaining count of the REGANG wait in which a slice stands. -/
def State.regangHeld (s : State) (k : Nat) : Option Nat :=
  if (s.sl k).wait = some .regang then some (s.regangLeft k) else none

/-- No permit is free: the slice backs off (R219). `held` is a boundary condition to be taken again; a REGANG wait in which it
found the slice is kept with it. -/
def State.backOff (s : State) (k : Nat) (held : Option TrapInfo) : State :=
  ((s.dropWait k).leave k).modSl k (fun y =>
    { y with
      granule := none
      wait := some (.backoff (s.cycle + y.backoffLen) held (s.regangHeld k))
      backoffLen := min (2 * y.backoffLen) 8192 })

/-- A trap raised in one slice (R217). `boundary` marks a condition taken at an instruction boundary. -/
def State.trap (s : State) (k : Nat) (i : TrapInfo) (boundary : Bool) (extra : List Word) : State :=
  match (s.sl k).frame with
  | some f => s.doubleTrap k f i
  | none =>
    if s.permitsUsed (coreOfSlice k) < 8 then s.enterTrap k i extra
    else s.backOff k (if boundary then some i else none)

/-- A trap raised at issue, with the instruction's own address as the frame PC. -/
def State.trapAt (s : State) (k : Nat) (cause detail : BitVec 8) (lns : BitVec 4) (info0 info1 : Word) : State :=
  s.trap k ⟨cause, detail, lns, info0, info1, (s.sl k).pc⟩ false []

/-! ## Returning from a trap (R226) -/

/-- One replay entry of a frame re-injected: its granules decoded again, its captured operands in place of registers. -/
def reinjectEntry (f : Frame) (x : Slice) (e : Nat) : Slice :=
  let b := 32 + 28 * e
  let w := f.word (b + 3)
  if !w.getLsbD 31 then x
  else match decode (f.word b) (f.word (b + 1)) (f.word (b + 2)) with
    | .error _ => x
    | .ok i => runLanes i (w.extractLsb' 0 4) (bits w 4 3) (w.extractLsb' 7 10) (bits w 17 3)
        (fun l => laneInOf i ((List.range 6).map (fun n => f.word (b + 4 + 6 * l + n)))) x

/-- The entries of a frame re-injected in order; a DEADLOCK frame holds none. -/
def reinject (f : Frame) (x : Slice) : Slice :=
  let n := if bits (f.word 0) 0 8 = 0x0B then 0 else min 8 (bits (f.word 0) 20 4)
  (List.range n).foldl (reinjectEntry f) x

/-- The state that a frame gives back to the slice (R226, R229), its PC and REGANG wait aside. -/
def Slice.restoreFrom (x : Slice) (f : Frame) : Slice :=
  let st := f.word 7
  let depth := min 8 (bits st 4 4)
  let y := (List.range 7).foldl (fun z j => z.kPut (j + 1) ((f.word 4).extractLsb' (4 * (j + 1)) 4)) x
  reinject f { y with
    active := (f.word 4).extractLsb' 0 4 &&& ~~~(st.extractLsb' 0 4)
    stack := (List.range depth).map (fun n => StackEntry.ofWords (f.word (16 + 2 * n)) (f.word (17 + 2 * n)))
    fairCount := (f.word 11).extractLsb' 0 16
    lfsr := Quad.ofFn (fun l => lfsrFix (f.word (12 + l))) }

/-- A REGANG wait resumed with its remaining count (R147, R226). Where the launch gang's timer runs already for another slice, the one
that ends first ends the wait (DESIGN CHOICE, log entry 62). -/
def State.resumeRegang (s : State) (k : Nat) (left : Nat) : State :=
  let g := (s.sl k).idx / 8
  (s.modSl k (fun y => { y with wait := some .regang })).modTm (s.sl k).team (fun t =>
    if left = 0 then t
    else { t with rgDue := aput t.rgDue g (min (s.cycle + left) ((afind t.rgDue g).getD (s.cycle + left))) })

/-- The procedure of TRET on the slice's own frame (R226). The slice stays alone (R145; DEDUCED against R156, log entry 52). -/
def State.returnTrap (s : State) (k : Nat) (f : Frame) : State :=
  let pc := f.word 1 &&& ~~~3#32
  let s1 := s.modSl k (fun x =>
    { ({ x with inflight := [] } : Slice).restoreFrom f with frame := none, wait := none, pc := pc })
  if (f.word 7).getLsbD 8 then s1.resumeRegang k (f.word 10).toNat else s1

/-! ## Issue accounts (R143, R214, R385, R388) -/

/-- A fairness count n issue cycles later, at most 65,535 (R143, R232). -/
def addCount (c : BitVec 16) (n : Nat) : BitVec 16 := BitVec.ofNat 16 (min 65535 (c.toNat + n))

/-- The slices issue in this cycle an instruction that takes n issue cycles. The fairness count freezes in trap mode. -/
def State.issuedFor (s : State) (ms : List Nat) (n : Nat) : State :=
  s.modSls ms (fun x =>
    { x with
      lastIssue := s.cycle + 1, granule := none
      fairCount := if x.trapMode then x.fairCount else addCount x.fairCount n })

/-- The slices issue an instruction of one issue cycle. -/
def State.issued (s : State) (ms : List Nat) : State := s.issuedFor ms 1

/-- The opcode class of a long instruction (R214). -/
def opClass (i : Instr) : Nat :=
  let f64 := isF64 i
  match i with
  | .imul _ | .imulh _ | .imad _ | .imadw _ | .isad _ => 1
  | .fadd _ | .fsub _ | .fmul _ | .fmin _ | .fmax _ | .fneg _ | .fabs _ | .fcmp _ | .fclass _ | .frnd _ | .ffrac _
  | .fldexp _ | .fgetexp _ => if f64 then 4 else 2
  | .ffma _ => if f64 then 4 else 3
  | .cvt _ | .pack _ | .unpack _ | .scaleFit _ | .scaleApply _ => 5
  | .rcp _ | .rsq _ | .sqrt _ => if f64 then 4 else 6
  | .exp2 _ | .log2 _ | .sinpi _ | .cospi _ => 7
  | .dot2 _ | .dot4 _ | .dot8 _ => 8
  | .fuse _ => 9
  | .shfl _ | .shflx _ | .bcast _ | .bcastFirst _ | .vote _ => 10
  | .reduce _ | .scan _ => 11
  | .ld _ | .st _ | .atom _ | .atomCas _ => 12
  | .fld _ | .fst _ | .fatom _ => 13
  | .tld _ | .tst _ | .ttrans _ | .mma _ | .mmas _ | .mmag _ | .mmagNolocal _ | .afill _ => 14
  | _ => 0

/-- The number of lanes in a mask. -/
def popMask (m : BitVec 4) : Nat := popNat 4 m.toNat

/-- The charge of a long instruction, weight × active lanes of the gang, on the cluster's energy account (R214, R385). -/
def State.charge (s : State) (i : Instr) (ms : List Nat) : State :=
  let n := (ms.map (fun k => popMask ((s.sl k).lanesOn (predOf i).1 (predOf i).2))).foldl (· + ·) 0
  let c := clusterOfCore (coreOfSlice (ms.headD 0))
  if n = 0 then s
  else s.modCl c (fun y => { y with enacc := y.enacc + BitVec.ofNat 64 (bits y.clwt (8 * opClass i) 8 * n) })

/-- Engine cycles charged on a cluster's account: MXW at bit 56 of CLPWR, CPW at bit 48 (R385). -/
def State.engineCharge (s : State) (cluster lo n : Nat) : State :=
  s.modCl cluster (fun y => { y with enacc := y.enacc + BitVec.ofNat 64 (bits y.clpwr lo 8 * n) })

/-! ## Completing an instruction -/

/-- A short instruction that acts per slice has completed in slice k, whose next PC is given (R212): the gang goes on
when all its slices have executed it. -/
def State.finishSlice (s : State) (k : Nat) (pc : Word) : State :=
  let s1 := s.modSl k (fun x => { x with pc := pc, ahead := true })
  let ms := s1.members k
  if ms.all (fun j => (s1.sl j).ahead) then (s1.modSls ms (fun x => { x with ahead := false })).part ms else s1

/-- After a slice has left its gang, the others go on when all of them have executed the instruction (R212). -/
def State.settleGang (s : State) (ms : List Nat) : State :=
  let rest := ms.filter (fun j => !(s.sl j).done && decide ((s.sl j).gang ≠ aloneKey j))
  if rest ≠ [] ∧ rest.all (fun j => (s.sl j).ahead) then (s.modSls rest (fun x => { x with ahead := false })).part rest else s

/-- A short instruction that acts per slice, executed by slice cur: when it traps, the others of its gang go on (R212). Its issue
cycle is counted before it acts, so an SGET of FAIR reads a count that includes it (DESIGN CHOICE, log entry 50). -/
def State.perSlice (s : State) (f : State → Nat → State) : State :=
  let k := s.cur
  let rest := (s.members k).filter (fun j => decide (j ≠ k))
  let t := f (s.issued [k]) k
  if (t.sl k).gang = aloneKey k ∧ (s.sl k).gang ≠ aloneKey k then t.settleGang rest else t

/-- The event of an uncorrectable register error, appended whatever TRAPEN holds (R29). -/
def State.errEvent (s : State) (k : Nat) (ps : List Poison) : State :=
  if ps.any Poison.err then s.memEvent (s.sl k).team 0 0 0 3 else s

/-- The event of an error that trapped POISON in slice k (R227): the trap's own record, when the slice took the trap; the record of
the error, when it backed off. A slice that stopped has its record of class 4 (R224). -/
def State.poisonEvent (s : State) (k : Nat) (err : Bool) : State :=
  if !err then s
  else match (s.sl k).frame with
    | none => s.memEvent (s.sl k).team 0 0 0 3
    | some f =>
      if (s.sl k).wait = some .stopped then s else s.trapEvent k (f.word 0) (f.word 1) (f.word 2) (f.word 3) 1

/-- Poison that an instruction of slice k reads (R28, R29): either the slice traps POISON, with the errors settled, or the
record is made and `go` continues. -/
def State.withPoison (s : State) (k : Nat) (ps : List Poison) (go : State → State) : State :=
  match ps with
  | [] => go s
  | p :: _ =>
    let s1 := s.modSl k (fun x => x.recordPoison ps)
    if (s.sl k).trapOn tePoison then
      (s1.trapAt k causePoison 0 p.lanes (s1.sl k).poison 0).poisonEvent k (ps.any Poison.err)
    else go (s1.errEvent k ps)

/-- The frames that slices of a gang have taken at one issue show the gang as it stood before any of them left it (R220): `s` is the
state at the issue. -/
def State.reframe (t s : State) (ms : List Nat) : State :=
  ms.foldl (fun u k =>
    if (s.sl k).frame.isSome ∨ (t.sl k).frame = none then u
    else u.modSl k (fun x =>
      { x with frame := x.frame.map (fun f =>
          (((f.setWord 6 (s.gangWord k)).setWord 8 ((remapWords (s.members k)).getD 0 0)).setWord 9
            ((remapWords (s.members k)).getD 1 0))) })) t

/-- The end of an instruction that a gang issued in a state: frames show that gang, and slices with other PCs part (R145). -/
def State.partFrom (t s : State) (ms : List Nat) : State := (t.reframe s ms).part ms

/-! ## Fetch (R60, R80, R134, R302) -/

/-- HBM virtual address of a byte of the job's code space (R134). -/
def State.codeVa (s : State) (t : Nat) (a : Word) : Nat := (bits (s.jobOf (s.tm t).part).codeva 0 48 + a.toNat) % 2 ^ 48

/-- Where a word of the code space lies for a team, with the R permission and the clearance of its tag. -/
def State.codeTarget (s : State) (t : Nat) (a : Word) : Target :=
  s.resolveHbm (s.teamAsker t) (s.codeVa t a) true false false

/-- A word of a fetch path for a slice whose last PFENCE of that path saw so many writes: what stands in memory, or a value that a
later write replaced, chosen for each granule (R60, R302). -/
def State.fetchedWord (s : State) (fence : Nat) (key : Nat) : Word :=
  match (s.overwritten.filter (fun e => decide (fence ≤ e.1 ∧ e.2.1 = key / 4))).map (fun e => e.2.2) with
  | [] => s.word key
  | old :: olds => (s.word key :: old :: olds).getD (Config.fetchChoice s.freeNo key % (olds.length + 2)) 0

/-- The fence of a gang on each path: the last of its slices' (R180; log entry 48). -/
def State.codeFence (s : State) (ms : List Nat) : Nat := ms.foldl (fun n k => max n (s.sl k).codeFence) 0
def State.constFence (s : State) (ms : List Nat) : Nat := ms.foldl (fun n k => max n (s.sl k).constFence) 0

/-- A failed fetch: where, and the failure. -/
structure FetchFail where
  at_ : Word
  err : FarErr
  tag : BitVec 20
  deriving DecidableEq, Repr

/-- One granule fetched past a fence, and the state after. -/
def State.fetchGranule (s : State) (fence t : Nat) (a : Word) : Except FetchFail (Word × State) :=
  match s.codeTarget t a with
  | .key key =>
    .ok (s.fetchedWord fence key, (s.checkedTag t 6 (BitVec.ofNat 64 (s.codeVa t a))).noteFound t 6 (BitVec.ofNat 64 (s.codeVa t a)) key 4)
  | .fail e tag => .error ⟨a, e, tag⟩
  | .peer _ _ => .error ⟨a, .fault, 0⟩

/-- The granules of the instruction at an address: one, or three when LEN is 1 (R58). -/
def State.fetch (s : State) (fence t : Nat) (pc : Word) : Except FetchFail ((Word × Word × Word) × State) :=
  match s.fetchGranule fence t pc with
  | .error e => .error e
  | .ok (g0, s1) =>
    if !isLong g0 then .ok ((g0, 0, 0), s1)
    else match s1.fetchGranule fence t (pc + 4) with
      | .error e => .error e
      | .ok (g1, s2) => match s2.fetchGranule fence t (pc + 8) with
        | .error e => .error e
        | .ok (g2, s3) => .ok ((g0, g1, g2), s3)

/-- The granules that slice k executes next: those at its PC, or the one that its gang has begun, which no fetch refills (R60, R212). -/
def State.fetchAt (s : State) (k : Nat) : Except FetchFail ((Word × Word × Word) × State) :=
  match (s.sl k).granule with
  | some g => .ok ((g, 0, 0), s)
  | none => s.fetch (s.codeFence (s.members k)) (s.sl k).team (s.sl k).pc

/-- The event of a failed fetch or constant read (R80, R134). -/
def State.fetchEvent (s : State) (t : Nat) (e : FetchFail) : State :=
  let va := BitVec.ofNat 64 (s.codeVa t e.at_)
  match e.err with
  | .denied => (s.checkedTag t 6 va).noteDenial t 6 va e.tag
  | _ => s.memEvent t va 0 6 7

/-- FARSTAT after a failed fetch or constant read. -/
def Slice.fetchFail (x : Slice) (e : FarErr) : Slice :=
  { x with farstat := setBit x.farstat (if e = .denied then farDenied else farFault) true }

/-- The slices of a gang trap FAR_ERR for a failed fetch: the frame PC is the failing address (R134). -/
def State.fetchTrap (s : State) (ms : List Nat) (e : FetchFail) : State :=
  let s1 := s.fetchEvent (s.sl (ms.headD 0)).team e
  (ms.foldl (fun t k =>
    let t1 := t.modSl k (fun x => x.fetchFail e.err)
    t1.trap k ⟨causeFarErr, 1, 0xF, (t1.sl k).farstat, 0, e.at_⟩ false []) s1).partFrom s ms

/-- The slices of a gang trap ILLEGAL separately (R71). No cycles of issue are counted, nor for a fetch that fails; a trap that an
instruction takes once it has issued counts its cycles (R232 is silent: DESIGN CHOICE, log entry 50). -/
def State.illegalTrap (s : State) (ms : List Nat) (code : Nat) (g0 : Word) : State :=
  (ms.foldl (fun t k => t.trapAt k causeIllegal (BitVec.ofNat 8 code) 0xF g0 0) s).partFrom s ms

/-- Words of the constant bank by index, at ENTRY − 1,024 + 4i (R80), and the state after. -/
def State.fetchConsts (s : State) (fence t : Nat) : List Nat → Except FetchFail (Assoc Word × State)
  | [] => .ok ([], s)
  | i :: r =>
    let a := (s.tm t).header.entry - 1024 + BitVec.ofNat 32 (4 * i)
    match s.codeTarget t a with
    | .key key =>
      let w := s.fetchedWord fence key
      let s2 := s.checkedTag t 6 (BitVec.ofNat 64 (s.codeVa t a))
      match (s2.noteFound t 6 (BitVec.ofNat 64 (s.codeVa t a)) key 4).fetchConsts fence t r with
      | .error e => .error e
      | .ok (m, s3) => .ok (aput m i w, s3)
    | .fail e tag => .error ⟨a, e, tag⟩
    | .peer _ _ => .error ⟨a, .fault, 0⟩

/-- A slice traps FAR_ERR for a failed constant read: the frame PC names the instruction (R80). -/
def State.constTrap (s : State) (k : Nat) (e : FetchFail) : State :=
  let s1 := s.modSl k (fun x => x.fetchFail e.err)
  s1.trapAt k causeFarErr 2 0xF (s1.sl k).farstat e.at_

/-- The constants that a gang's instruction reads; without a lane active in some slice none is read. A failed read traps
every slice with a lane active; the gang takes `n` issue cycles for it, 0 when it has taken them already (R232). -/
def State.withConsts (s : State) (n : Nat) (i : Instr) (ms : List Nat) (go : Assoc Word → State → State) : State :=
  match constsOf i with
  | [] => go [] s
  | cs =>
    let act := ms.filter (fun k => decide ((s.sl k).lanesOn (predOf i).1 (predOf i).2 ≠ 0))
    if act = [] then go [] s
    else match s.fetchConsts (s.constFence ms) (s.sl (ms.headD 0)).team cs with
      | .ok (m, s1) => go m s1
      | .error e =>
        let s1 := (if n = 0 then s else s.issuedFor ms n).fetchEvent (s.sl (ms.headD 0)).team e
        let s2 := act.foldl (fun t k => t.constTrap k e) s1
        (s2.modSls (ms.filter (fun k => !act.contains k)) (fun x => { x with pc := x.pc + 12 })).partFrom s ms

/-! ## When an instruction can issue (R14, R178, R211, R218) -/

/-- Is the fairness switch of a slice due (R143)? -/
def State.fairDue (s : State) (k : Nat) : Bool :=
  let x := s.sl k
  (s.tm x.team).header.ctl.getLsbD 12 && !x.trapMode && decide (x.fair ≤ x.fairCount)

/-- Is the partition letting its cores issue (R361, R393)? In the recovery state none does (R394). -/
def State.partRuns (s : State) (p : Nat) : Bool :=
  decide ((s.pt p).switch = none) && decide ((s.pt p).preset ≠ 1 ∧ (s.pt p).preset ≠ 2) && !s.rot.recovery

/-- May the engines of a partition start new elements (R393)? -/
def State.engineOn (s : State) (p : Nat) : Bool := decide ((s.pt p).preset ≠ 1 ∧ (s.pt p).preset ≠ 2) && !s.rot.recovery

/-- Do the far loads, landings and copies of a team of a partition go on? After a halt, those of a team that drains do, until the save
window of its cluster opens; those of a restored team do again (R362, R373). -/
def State.teamGoes (s : State) (p t : Nat) : Bool :=
  match (s.pt p).switch with
  | none => true
  | some w => match w.phase with
    | .draining => w.drain.contains t && (afind w.opened (clusterOfCore (coreOfTeam t))).isNone
    | .restoring => true
    | _ => false

/-- Is the core of a slice powered (R342, R384)? -/
def State.powered (s : State) (core : Nat) : Bool :=
  let c := clusterOfCore core
  !(s.co core).gated && !(s.cl c).gated && (s.cl c).reconnect.isNone

/-- The clock of a setting of a regulator group in sixteenths of 800 MHz (R384). -/
def groupClock (w : Word) : Nat :=
  let f := bits w 0 5
  if 8 ≤ f ∧ f ≤ 16 then f else 16

/-- Does a core's clock tick in this cycle of 800 MHz: its group's setting in force gives it so many of every 16 (R384)? -/
def State.clockEdge (s : State) (core : Nat) : Bool :=
  let f := groupClock (s.rg (s.cl (clusterOfCore core)).group).applied
  decide (s.cycle * f / 16 ≠ (s.cycle + 1) * f / 16)

/-- Does the team run: its partition lets its cores issue, it is not being swapped out, and its core is powered? -/
def State.teamRuns (s : State) (t : Nat) : Bool :=
  s.partRuns (s.tm t).part && !(s.tm t).halting && s.powered (coreOfTeam t)

/-- The waits in which a slice stands alone at an instruction that each slice of its gang executes for itself (R212). -/
def Wait.alone : Wait → Bool
  | .waitc _ _ _ _ | .waitt _ | .fence _ | .barwait _ _ _ _ _ _ | .tsync _ _ _ _ => true
  | _ => false

/-- Has the slice executed the instruction at which its gang stands, or does it wait in it (R212)? -/
def Slice.midway (x : Slice) : Bool := x.ahead || (x.wait.map Wait.alone).getD false

/-- Nothing but its next instruction decides whether slice k can issue: neither it nor its gang stands in a wait, no boundary
condition is to be taken, no fairness switch is due at the boundary its gang stands at, and its gang has issued nothing in this
cycle (R230). While other slices of the gang
have executed a per-slice instruction, or wait in it, the slice issues that instruction on its own (R211, R212). -/
def State.canIssue (s : State) (k : Nat) : Bool :=
  let ms := s.members k
  (s.slice? k).isSome && !(s.sl k).done && !(s.sl k).midway && s.teamRuns (s.sl k).team && s.clockEdge (coreOfSlice k) &&
    ms.all (fun j => (decide ((s.sl j).wait = none) || (s.sl j).midway) && (decide ((s.sl j).boundary = []) || (s.sl j).trapMode) &&
      decide ((s.sl j).lastIssue ≠ s.cycle + 1)) &&
    (ms.any (fun j => (s.sl j).midway) || !ms.any s.fairDue)

/-- s registers that a short instruction reads or writes, pairs and quads by their members. -/
def shortS : Instr → List Nat
  | .sadd d a b | .ssub d a b | .smul d a b | .smulh d a b | .smulhn d a b | .sand d a b | .sor d a b | .sxor d a b
  | .sandn d a b | .sshl d a b | .sshr d a b | .ssra d a b | .srot d a b | .smin d a b | .smax d a b | .sminn d a b
  | .smaxn d a b | .scmp _ d a b => [d.toNat, a.toNat, b.toNat]
  | .sclz d a | .spopc d a | .smov d a => [d.toNat, a.toNat]
  | .sadd64 d a b | .ssub64 d a b =>
    [d.toNat, d.toNat + 1, a.toNat, a.toNat + 1, b.toNat, b.toNat + 1]
  | .sshl64 d a b | .sshr64 d a b => [d.toNat, d.toNat + 1, a.toNat, a.toNat + 1, b.toNat]
  | .saddi d a _ | .sandi d a _ | .sori d a _ | .sxori d a _ | .sshli d a _ | .sshri d a _ | .ssrai d a _ | .scmpi d a _ =>
    [d.toNat, a.toNat]
  | .slil d _ | .slih d _ | .brz d _ | .brnz d _ | .call d _ | .sget d _ => [d.toNat]
  | .ret a | .jmpi a | .sset _ a | .ssetSet _ a | .ssetClr _ a | .yieldp a => [a.toNat]
  | .kmovsToMask _ a => [a.toNat]
  | .kmovsToScalar d _ => [d.toNat]
  | .sld d a _ | .sst d a _ => [d.toNat, a.toNat]
  | .barinit a b | .bartx a b => [a.toNat, b.toNat]
  | .bararr _ a => [a.toNat]
  | .bararrN _ a b | .bartxArr _ a b | .barwait _ a b => [a.toNat, b.toNat]
  | .bartry _ d a b => [d.toNat, a.toNat, b.toNat]
  | .whold _ d a | .wwill _ d a | .wdrop _ _ d a | .lockacq _ _ _ d a | .lockrel _ _ d a => [d.toNat, a.toNat, a.toNat + 1]
  | .waitv _ _ _ d a b => [d.toNat, a.toNat, a.toNat + 1, b.toNat]
  | .launch d a => [d.toNat, a.toNat]
  | .launchParam d a b => [d.toNat, a.toNat, b.toNat, b.toNat + 1]
  | .send _ _ a b => [a.toNat, a.toNat + 1, b.toNat, b.toNat + 1, b.toNat + 2, b.toNat + 3]
  | .rpost _ _ _ _ d a | .rcancel d a => [d.toNat, a.toNat]
  | .rprobe d a => [d.toNat, d.toNat + 1, d.toNat + 2, d.toNat + 3, a.toNat]
  | .copy _ _ _ d a b | .copyg _ _ _ d a b | .copys _ _ d a b | .copytLd _ _ _ d a b | .copytSt _ _ d a b
  | .copytSc _ _ d a b | .copyr _ _ _ d a b =>
    [d.toNat, d.toNat + 1, a.toNat, a.toNat + 1, a.toNat + 2, a.toNat + 3, b.toNat, b.toNat + 1, b.toNat + 2, b.toNat + 3]
  | .tset _ a b | .mbatchArr _ a b => [a.toNat, b.toNat]
  | .tsetLo _ a | .tsetHi _ a => [a.toNat]
  | .tget d _ | .tgetHi d _ => [d.toNat]
  | .mmagokOpen d a b => [d.toNat, a.toNat, b.toNat]
  | .mmagokClose d => [d.toNat]
  | _ => []

/-- Mask registers that an instruction reads or writes (R108). -/
def maskUse (i : Instr) : List Nat :=
  match i with
  | .kand d a b | .kor d a b | .kxor d a b | .kandn d a b => [d.toNat, a.toNat, b.toNat]
  | .knot d a => [d.toNat, a.toNat]
  | .kmovsToMask d _ | .kset d _ => [d.toNat]
  | .kmovsToScalar _ a => [a.toNat]
  | .brc _ k _ _ => [k.toNat]
  | .shfl f => [(predOf i).1.toNat, bits f.ext8 0 3]
  | .shflx f => [(predOf i).1.toNat, bits f.ext8 0 3, bits f.ext8 3 3]
  | .vote f => [(predOf i).1.toNat, bits f.ext8 0 3, if f.xw = 3 then f.vd.toNat else 0]
  | _ => [(predOf i).1.toNat, (maskRead i).getD 0, match (destOf i).1 with | .k => (destOf i).2 | _ => 0]

/-- s registers of a long instruction. -/
def longS (i : Instr) : List Nat :=
  (sources i).flatMap (fun o => if o.kind = .s then (List.range o.regs).map (fun n => o.idx + n) else []) ++
    (match (destOf i).1 with | .s n => (List.range n).map (fun m => (destOf i).2 + m) | _ => [])

/-- v registers of a long instruction. -/
def longV (i : Instr) : List Nat :=
  (sources i).flatMap (fun o => if o.kind = .v then (List.range o.regs).map (fun n => o.idx + n) else []) ++
    (match (destOf i).1 with | .v n => (List.range n).map (fun m => (destOf i).2 + m) | _ => [])

/-- Does the instruction read or step the LFSRs in a slice: does it round under STOCH, or name them (R18, R32, R50)? -/
def usesLfsr (i : Instr) (x : Slice) : Bool :=
  match i with
  | .sget _ sel | .sset sel _ | .ssetSet sel _ | .ssetClr sel _ => decide (sel = 0x1B)
  | _ => decide (modeOf i x.fpmode = 5)

/-- Does the instruction name a place whose new value has still to be written (R14)? -/
def undoTouches (i : Instr) (x : Slice) (u : Undo) : Bool :=
  match u with
  | .lfsr _ => usesLfsr i x
  | .v r _ _ => (longV i).contains r
  | .s r _ => (longS i).contains r || (shortS i).contains r
  | .k j _ => (maskUse i).contains j

/-- Instructions that issue only after every replayable instruction of the slice has written its result (R226, R227); TRET waits in
trap mode alone. -/
def Slice.drains (x : Slice) : Instr → Bool
  | .tret => x.trapMode
  | .barwait _ _ _ | .tsync _ | .waitv _ _ _ _ _ _ | .lockacq _ _ _ _ _ | .waitt _ | .yieldt _ _ => true
  | _ => false

/-- The register interlock of R14 in one slice, and the limit of eight of R218. -/
def Slice.interlocked (x : Slice) (now : Nat) (i : Instr) : Bool :=
  let live := x.captured now
  if live = [] then false
  else live.any (fun r => r.undo.any (undoTouches i x)) || x.drains i || ((laneFn i).isSome && decide (8 ≤ (x.queue now).length))

/-- The instructions that an acquire fence holds (R178). -/
def memClass : Instr → Bool
  | .ld _ | .st _ | .atom _ | .atomCas _ | .sld _ _ _ | .sst _ _ _ | .fld _ | .fst _ | .fatom _ | .tld _ | .tst _ | .ttrans _
  | .mma _ | .mmas _ | .mmag _ | .mmagNolocal _ | .afill _ | .mbatch _ | .mbatchArr _ _ _ | .mmagokOpen _ _ _ | .mmagokClose _
  | .barinit _ _ | .bararr _ _ | .bararrN _ _ _ | .bartx _ _ | .bartxArr _ _ _ | .barwait _ _ _ | .bartry _ _ _ _ | .tsync _
  | .whold _ _ _ | .wwill _ _ _ | .wdrop _ _ _ _ | .waitv _ _ _ _ _ _ | .lockacq _ _ _ _ _ | .lockrel _ _ _ _
  | .copy _ _ _ _ _ _ | .copytLd _ _ _ _ _ _ | .copytSt _ _ _ _ _ | .copytSc _ _ _ _ _ | .copyg _ _ _ _ _ _
  | .copys _ _ _ _ _ | .copyr _ _ _ _ _ _ | .launch _ _ | .launchParam _ _ _ | .send _ _ _ _ | .rpost _ _ _ _ _ _
  | .rcancel _ _ | .rprobe _ _ => true
  | _ => false

/-- Is an acquire still waiting for far loads (R178)? -/
def Slice.held (x : Slice) : Bool := x.acqHold && decide (x.fl ≠ 0)

/-- Does the throttle withhold long instructions in this cycle (R216, R386)? -/
def State.withheld (s : State) (p : Nat) : Bool := decide (s.cycle % 16 < (s.pt p).throttle)

/-- Does the next instruction of the gang stall at issue, whatever its own meaning says? Per-slice instructions look at
their own slice alone. -/
def State.stalls (s : State) (k : Nat) (perSlice : Bool) (i : Instr) : Bool :=
  let ms := if perSlice then [k] else s.members k
  ms.any (fun j => (s.sl j).interlocked s.cycle i || (memClass i && (s.sl j).held)) ||
    (decide (i.size = 12) && s.withheld (s.tm (s.sl k).team).part)

/-- Short instructions that act in each slice of the gang separately (R212): the gang goes on when all have executed.
The other short instructions, and the long ones, act once for the gang. -/
def isPerSlice : Instr → Bool
  | .nop | .sadd _ _ _ | .ssub _ _ _ | .smul _ _ _ | .smulh _ _ _ | .smulhn _ _ _ | .sand _ _ _ | .sor _ _ _
  | .sxor _ _ _ | .sandn _ _ _ | .sshl _ _ _ | .sshr _ _ _ | .ssra _ _ _ | .srot _ _ _ | .smin _ _ _ | .smax _ _ _
  | .sminn _ _ _ | .smaxn _ _ _ | .sclz _ _ | .spopc _ _ | .scmp _ _ _ _ | .smov _ _ | .sadd64 _ _ _ | .ssub64 _ _ _
  | .sshl64 _ _ _ | .sshr64 _ _ _ | .saddi _ _ _ | .sandi _ _ _ | .sori _ _ _ | .sxori _ _ _ | .sshli _ _ _
  | .sshri _ _ _ | .ssrai _ _ _ | .scmpi _ _ _ | .slil _ _ | .slih _ _ | .sget _ _ | .sset _ _ | .ssetSet _ _
  | .ssetClr _ _ | .yieldp _ | .trap _ | .tret | .kand _ _ _ | .kor _ _ _ | .kxor _ _ _ | .kandn _ _ _ | .knot _ _
  | .kmovsToMask _ _ | .kmovsToScalar _ _ | .kset _ _ | .waitc _ _ _ _ | .waitt _ | .sld _ _ _ | .sst _ _ _ | .fence _ _
  | .pfence _ | .barinit _ _ | .bararr _ _ | .bararrN _ _ _ | .bartx _ _ | .bartxArr _ _ _ | .barwait _ _ _
  | .bartry _ _ _ _ | .tsync _ => true
  | _ => false

/-! ## Instructions of R218 -/

/-- One slice executes an instruction of R218 at its position: poison, results, last use (R27, R28, R217). -/
def State.runLong (i : Instr) (cs : Assoc Word) (pos : Nat) (s : State) (k : Nat) : State :=
  let x := s.sl k
  let m := x.lanesOn (predOf i).1 (predOf i).2
  s.withPoison k (srcPoison i x (readLanes i m)) (fun t => t.modSl k (fun y =>
    let mode := modeOf i y.fpmode
    let fpm := y.fpmode.extractLsb' 0 10
    let gs := encode i
    let ins := fun l => laneIn i x cs l
    let r : Replay := ⟨gs.getD 0 0, gs.getD 1 0, gs.getD 2 0, BitVec.ofNat 3 pos, fpm, BitVec.ofNat 3 mode, m,
      Quad.ofFn (fun l => if (readLanes i m).getLsbD l then laneWords i x cs l else []), dueOf i s.cycle, undoOf i mode m x⟩
    let z := runLanes i m mode fpm pos ins (killAll i y m)
    { z with pc := z.pc + 12, inflight := y.queue s.cycle ++ [r] }))

/-- A gang executes an instruction of R218. -/
def State.execLane (i : Instr) (s : State) : State :=
  let ms := s.members s.cur
  ((s.issuedFor ms (figures i).1).charge i ms).withConsts 0 i ms (fun cs t =>
    (ms.foldl (fun u k => u.runLong i cs (posIn k ms) k) t).partFrom s ms)

/-! ## Tokens (R173, R388) -/

/-- A token of a team finishes with an error code, 0 for none; the watchdog count restarts. -/
def State.finishToken (s : State) (t j : Nat) (e : BitVec 8) : State :=
  s.modTm t (fun x => { x.modToken j (fun c => c.finish e) with wdCount := 0 })

/-- A token of a team is bound. -/
def State.bindToken (s : State) (t j : Nat) : State := s.modTm t (fun x => x.modToken j Token.bind)

/-! ## Fences (R177 to R179) -/

/-- Is a SYS scope clamped to JOB in the slice's partition (R179, R377)? -/
def State.clamps (s : State) (k : Nat) (scope : BitVec 3) : Bool :=
  decide (scope = 6) && (s.pt (s.tm (s.sl k).team).part).sclamp

/-- Does the clamped fence trap (R179, R23, R224)? -/
def State.clampTraps (s : State) (k : Nat) (scope : BitVec 3) : Bool :=
  s.clamps k scope && ((s.sl k).trapOn teFenceClamp || (s.pt (s.tm (s.sl k).team).part).ctrap)

/-- The clamp of an ordered instruction at issue (R179): it traps FENCE_CLAMP or sets FENCE_CLAMPED and goes on. -/
def State.withClamp (s : State) (k : Nat) (scope : BitVec 3) (info : Word) (go : State → State) : State :=
  if s.clampTraps k scope then s.trapAt k causeFenceClamp 0 0xF info 0
  else if s.clamps k scope then go (s.modSl k (fun x => x.stick stFenceClamped))
  else go s

/-- Has a release something to wait for (R178)? Local accesses of the model are performed when they issue. -/
def State.relWaits (s : State) (k : Nat) : Bool := decide ((s.sl k).fl ≠ 0 ∨ (s.sl k).fs ≠ 0)

/-- The slice performs a release: the open denial records of its team close first (R289). -/
def State.release (s : State) (k : Nat) : State := s.closeDenialsOf (s.sl k).team

/-- The slice performs an acquire: later memory instructions wait for its far loads (R178). -/
def State.acquire (s : State) (k : Nat) : State := s.modSl k (fun x => { x with acqHold := decide (x.fl ≠ 0) })

end Sys2Proof.Machine
end

