-- ==== Sys2Proof/Machine/Scalar.lean ====
section
/-! DEFINITION. The slice-scalar and mask instructions (spec R100 to R107). -/

namespace Sys2Proof.Machine

open Sys2Proof

/-- Poison that s registers show, in order (R28). -/
def Slice.sPoisons (x : Slice) (rs : List Nat) : List Poison := rs.filterMap x.sPoison

/-- A slice-scalar instruction: it reads the s registers named, changes its slice, and goes on 4 bytes further (R100). -/
def State.scalar (s : State) (srcs : List Nat) (go : Slice → Slice) : State :=
  s.perSlice (fun t k => t.withPoison k ((t.sl k).sPoisons srcs)
    (fun u => (u.modSl k go).finishSlice k ((u.sl k).pc + 4)))

/-- One result from two registers. -/
def State.scalar2 (s : State) (d a b : BitVec 6) (f : Word → Word → Word) : State :=
  s.scalar [a.toNat, b.toNat] (fun x => x.sPut d.toNat (f (x.sVal a.toNat) (x.sVal b.toNat)))

/-- One result from one register. -/
def State.scalar1 (s : State) (d a : BitVec 6) (f : Word → Word) : State :=
  s.scalar [a.toNat] (fun x => x.sPut d.toNat (f (x.sVal a.toNat)))

/-- SADD (R101). Scalar 32-bit wrapping add of two s registers. -/
def execSadd (d a b : BitVec 6) (s : State) : Host.Outcome State Fault Refusal :=
  .next (s.scalar2 d a b (fun x y => x + y))

/-- SSUB (R101). Scalar 32-bit wrapping subtract. -/
def execSsub (d a b : BitVec 6) (s : State) : Host.Outcome State Fault Refusal :=
  .next (s.scalar2 d a b (fun x y => x - y))

/-- SMUL (R101). Scalar 32-bit wrapping multiply. -/
def execSmul (d a b : BitVec 6) (s : State) : Host.Outcome State Fault Refusal :=
  .next (s.scalar2 d a b (fun x y => x * y))

/-- SMULH (R101). High word of the signed 64-bit scalar product. -/
def execSmulh (d a b : BitVec 6) (s : State) : Host.Outcome State Fault Refusal :=
  .next (s.scalar2 d a b (fun x y => (wrap (sext x * sext y) 64).extractLsb' 32 32))

/-- SMULHN (R101). High word of the unsigned 64-bit scalar product. -/
def execSmulhn (d a b : BitVec 6) (s : State) : Host.Outcome State Fault Refusal :=
  .next (s.scalar2 d a b (fun x y => (BitVec.ofNat 64 (x.toNat * y.toNat)).extractLsb' 32 32))

/-- SAND (R101). Scalar bitwise and. -/
def execSand (d a b : BitVec 6) (s : State) : Host.Outcome State Fault Refusal :=
  .next (s.scalar2 d a b (fun x y => x &&& y))

/-- SOR (R101). Scalar bitwise or. -/
def execSor (d a b : BitVec 6) (s : State) : Host.Outcome State Fault Refusal :=
  .next (s.scalar2 d a b (fun x y => x ||| y))

/-- SXOR (R101). Scalar bitwise exclusive or. -/
def execSxor (d a b : BitVec 6) (s : State) : Host.Outcome State Fault Refusal :=
  .next (s.scalar2 d a b (fun x y => x ^^^ y))

/-- SANDN (R101). Scalar and-not. -/
def execSandn (d a b : BitVec 6) (s : State) : Host.Outcome State Fault Refusal :=
  .next (s.scalar2 d a b (fun x y => x &&& ~~~y))

/-- SSHL (R101). Scalar shift left by a register count. -/
def execSshl (d a b : BitVec 6) (s : State) : Host.Outcome State Fault Refusal :=
  .next (s.scalar2 d a b (fun x y => BitVec.ofNat 32 (shlElem 32 x.toNat y.toNat)))

/-- SSHR (R101). Scalar logical shift right. -/
def execSshr (d a b : BitVec 6) (s : State) : Host.Outcome State Fault Refusal :=
  .next (s.scalar2 d a b (fun x y => BitVec.ofNat 32 (shrElem 32 x.toNat y.toNat)))

/-- SSRA (R101). Scalar arithmetic shift right. -/
def execSsra (d a b : BitVec 6) (s : State) : Host.Outcome State Fault Refusal :=
  .next (s.scalar2 d a b (fun x y => BitVec.ofNat 32 (sraElem 32 x.toNat y.toNat)))

/-- SROT (R101). Scalar rotate left. -/
def execSrot (d a b : BitVec 6) (s : State) : Host.Outcome State Fault Refusal :=
  .next (s.scalar2 d a b (fun x y => BitVec.ofNat 32 (rotElem 32 x.toNat y.toNat)))

/-- SMIN (R101). Signed scalar minimum. -/
def execSmin (d a b : BitVec 6) (s : State) : Host.Outcome State Fault Refusal :=
  .next (s.scalar2 d a b (fun x y => if x.toInt ≤ y.toInt then x else y))

/-- SMAX (R101). Signed scalar maximum. -/
def execSmax (d a b : BitVec 6) (s : State) : Host.Outcome State Fault Refusal :=
  .next (s.scalar2 d a b (fun x y => if x.toInt ≤ y.toInt then y else x))

/-- SMINN (R101). Unsigned scalar minimum. -/
def execSminn (d a b : BitVec 6) (s : State) : Host.Outcome State Fault Refusal :=
  .next (s.scalar2 d a b (fun x y => if x.toNat ≤ y.toNat then x else y))

/-- SMAXN (R101). Unsigned scalar maximum. -/
def execSmaxn (d a b : BitVec 6) (s : State) : Host.Outcome State Fault Refusal :=
  .next (s.scalar2 d a b (fun x y => if x.toNat ≤ y.toNat then y else x))

/-- SCLZ (R101). Counts the leading zeros of a scalar register. -/
def execSclz (d a : BitVec 6) (s : State) : Host.Outcome State Fault Refusal :=
  .next (s.scalar1 d a (fun x => BitVec.ofNat 32 (clzNat 32 x.toNat)))

/-- SPOPC (R101). Counts the ones in a scalar register. -/
def execSpopc (d a : BitVec 6) (s : State) : Host.Outcome State Fault Refusal :=
  .next (s.scalar1 d a (fun x => BitVec.ofNat 32 (popNat 32 x.toNat)))

/-- SMOV (R101). Copies a scalar register. -/
def execSmov (d a : BitVec 6) (s : State) : Host.Outcome State Fault Refusal :=
  .next (s.scalar1 d a (fun x => x))

/-- SCMP (R102). Scalar compare under an FN6 condition, writing 1 or 0. -/
def execScmp (cond d a b : BitVec 6) (s : State) : Host.Outcome State Fault Refusal :=
  .next (s.scalar2 d a b (fun x y => if scmpHolds cond.toNat x y then 1 else 0))

/-- SADD64 (R103). 64-bit scalar add on even/odd pairs. -/
def execSadd64 (d a b : BitVec 6) (s : State) : Host.Outcome State Fault Refusal :=
  .next (s.scalar [a.toNat, a.toNat + 1, b.toNat, b.toNat + 1]
    (fun z => let x := z.sPair a.toNat; let y := z.sPair b.toNat; z.sPutPair d.toNat (x + y)))

/-- SSUB64 (R103). 64-bit scalar subtract on pairs. -/
def execSsub64 (d a b : BitVec 6) (s : State) : Host.Outcome State Fault Refusal :=
  .next (s.scalar [a.toNat, a.toNat + 1, b.toNat, b.toNat + 1]
    (fun z => let x := z.sPair a.toNat; let y := z.sPair b.toNat; z.sPutPair d.toNat (x - y)))

/-- SSHL64 (R103). 64-bit scalar shift left. -/
def execSshl64 (d a b : BitVec 6) (s : State) : Host.Outcome State Fault Refusal :=
  .next (s.scalar [a.toNat, a.toNat + 1, b.toNat]
    (fun z => let x := z.sPair a.toNat; let n := (z.sVal b.toNat).toNat; z.sPutPair d.toNat (BitVec.ofNat 64 (shlElem 64 x.toNat n))))

/-- SSHR64 (R103). 64-bit scalar logical shift right. -/
def execSshr64 (d a b : BitVec 6) (s : State) : Host.Outcome State Fault Refusal :=
  .next (s.scalar [a.toNat, a.toNat + 1, b.toNat]
    (fun z => let x := z.sPair a.toNat; let n := (z.sVal b.toNat).toNat; z.sPutPair d.toNat (BitVec.ofNat 64 (shrElem 64 x.toNat n))))

/-- SADDI (R104). Scalar add of a sign-extended 12-bit immediate. -/
def execSaddi (d a : BitVec 6) (imm : BitVec 12) (s : State) : Host.Outcome State Fault Refusal :=
  .next (s.scalar1 d a (fun x => x + imm.signExtend 32))

/-- SANDI (R104). Scalar and with an immediate. -/
def execSandi (d a : BitVec 6) (imm : BitVec 12) (s : State) : Host.Outcome State Fault Refusal :=
  .next (s.scalar1 d a (fun x => x &&& imm.signExtend 32))

/-- SORI (R104). Scalar or with an immediate. -/
def execSori (d a : BitVec 6) (imm : BitVec 12) (s : State) : Host.Outcome State Fault Refusal :=
  .next (s.scalar1 d a (fun x => x ||| imm.signExtend 32))

/-- SXORI (R104). Scalar exclusive or with an immediate. -/
def execSxori (d a : BitVec 6) (imm : BitVec 12) (s : State) : Host.Outcome State Fault Refusal :=
  .next (s.scalar1 d a (fun x => x ^^^ imm.signExtend 32))

/-- SSHLI (R104). Scalar shift left by an unsigned immediate 0 to 31. -/
def execSshli (d a : BitVec 6) (imm : BitVec 5) (s : State) : Host.Outcome State Fault Refusal :=
  .next (s.scalar1 d a (fun x => BitVec.ofNat 32 (x.toNat * 2 ^ imm.toNat)))

/-- SSHRI (R104). Scalar logical shift right by an immediate. -/
def execSshri (d a : BitVec 6) (imm : BitVec 5) (s : State) : Host.Outcome State Fault Refusal :=
  .next (s.scalar1 d a (fun x => BitVec.ofNat 32 (x.toNat / 2 ^ imm.toNat)))

/-- SSRAI (R104). Scalar arithmetic shift right by an immediate. -/
def execSsrai (d a : BitVec 6) (imm : BitVec 5) (s : State) : Host.Outcome State Fault Refusal :=
  .next (s.scalar1 d a (fun x => wrap (sext x / 2 ^ imm.toNat) 32))

/-- SCMPI (R104). Writes 1 when a scalar is signed-less than an immediate. -/
def execScmpi (d a : BitVec 6) (imm : BitVec 12) (s : State) : Host.Outcome State Fault Refusal :=
  .next (s.scalar1 d a (fun x => if sext x < sext imm then 1 else 0))

/-- SLIL (R105). Loads a sign-extended 18-bit immediate into a scalar register. -/
def execSlil (d : BitVec 6) (imm : BitVec 18) (s : State) : Host.Outcome State Fault Refusal :=
  .next (s.scalar [] (fun x => x.sPut d.toNat (imm.signExtend 32)))

/-- SLIH (R105). Replaces the high 14 bits of a scalar register. -/
def execSlih (d : BitVec 6) (imm : BitVec 14) (s : State) : Host.Outcome State Fault Refusal :=
  .next (s.scalar1 d d (fun x => imm ++ x.extractLsb' 0 18))

/-- A mask instruction: it reads no s register (R106). -/
def State.maskOp (s : State) (d : BitVec 6) (f : Slice → BitVec 4) : State :=
  s.scalar [] (fun x => x.kPut d.toNat (f x))

/-- KAND (R106). Ands two masks. -/
def execKand (d a b : BitVec 6) (s : State) : Host.Outcome State Fault Refusal :=
  .next (s.maskOp d (fun x => x.kGet a.toNat &&& x.kGet b.toNat))

/-- KOR (R106). Ors two masks. -/
def execKor (d a b : BitVec 6) (s : State) : Host.Outcome State Fault Refusal :=
  .next (s.maskOp d (fun x => x.kGet a.toNat ||| x.kGet b.toNat))

/-- KXOR (R106). Exclusive-ors two masks. -/
def execKxor (d a b : BitVec 6) (s : State) : Host.Outcome State Fault Refusal :=
  .next (s.maskOp d (fun x => x.kGet a.toNat ^^^ x.kGet b.toNat))

/-- KANDN (R106). And-not of two masks. -/
def execKandn (d a b : BitVec 6) (s : State) : Host.Outcome State Fault Refusal :=
  .next (s.maskOp d (fun x => x.kGet a.toNat &&& ~~~(x.kGet b.toNat)))

/-- KNOT (R106). Inverts a mask. -/
def execKnot (d a : BitVec 6) (s : State) : Host.Outcome State Fault Refusal := .next (s.maskOp d (fun x => ~~~(x.kGet a.toNat)))

/-- KSET (R106). Sets a mask to a 4-bit immediate. -/
def execKset (d : BitVec 6) (imm : BitVec 4) (s : State) : Host.Outcome State Fault Refusal := .next (s.maskOp d (fun _ => imm))

/-- KMOVS_TO_MASK (R107). Moves the low four bits of a scalar register into a mask. -/
def execKmovsToMask (d a : BitVec 6) (s : State) : Host.Outcome State Fault Refusal :=
  .next (s.scalar [a.toNat] (fun x => x.kPut d.toNat ((x.sVal a.toNat).extractLsb' 0 4)))

/-- KMOVS_TO_SCALAR (R107). Moves a mask into a scalar register. -/
def execKmovsToScalar (d a : BitVec 6) (s : State) : Host.Outcome State Fault Refusal :=
  .next (s.scalar [] (fun x => x.sPut d.toNat ((x.kGet a.toNat).setWidth 32)))

/-- NOP (R74). Does nothing except advance the PC by 4. -/
def execNop (s : State) : Host.Outcome State Fault Refusal := .next (s.scalar [] (fun x => x))

end Sys2Proof.Machine
end

