-- ==== Sys2Proof/Machine/Grid.lean ====
section
/-! DEFINITION. Launch headers and work identifiers (spec R326 to R329), what a core admits (R157, R182, R191, R209), and
how a team starts (R31, R338, R341). -/

namespace Sys2Proof.Machine

open Sys2Proof

/-! ## The launch header (R327) -/

/-- A header from its 128 bytes. -/
def Header.ofBytes (bs : List Byte) : Header :=
  { entry := fieldW bs 0, shape := fieldW bs 4, widths := fieldD bs 8
    ext := (List.range 5).map (fun i => fieldD bs (0x10 + 8 * i))
    depw := (List.range 4).map (fun i => fieldD bs (0x38 + 8 * i))
    ctl := fieldW bs 0x58, fair := fieldW bs 0x5C, regang := fieldW bs 0x60, trapvec := fieldW bs 0x64
    param := fieldD bs 0x68, mcast := fieldD bs 0x70, clear := fieldD bs 0x78 }

/-- The 128 bytes of a header. -/
def Header.bytes (h : Header) : List Byte :=
  natLe 4 h.entry.toNat ++ natLe 4 h.shape.toNat ++ natLe 8 h.widths.toNat ++
    ((List.range 5).flatMap (fun i => natLe 8 (h.ext.getD i 0).toNat)) ++
    ((List.range 4).flatMap (fun i => natLe 8 (h.depw.getD i 0).toNat)) ++
    natLe 4 h.ctl.toNat ++ natLe 4 h.fair.toNat ++ natLe 4 h.regang.toNat ++ natLe 4 h.trapvec.toNat ++
    natLe 8 h.param.toNat ++ natLe 8 h.mcast.toNat ++ natLe 8 h.clear.toNat

def Header.nslices (h : Header) : Nat := bits h.shape 0 5 + 1
/-- N, registers per lane (R10). -/
def Header.regs (h : Header) : Nat := 32 * (bits h.shape 5 3 + 1)
def Header.ntiles (h : Header) : Nat := bits h.shape 8 5
def Header.scratch (h : Header) : Nat := 64 * bits h.shape 19 13
def Header.width (h : Header) (i : Nat) : Nat := bits h.widths (7 * i) 7
/-- Extent Ei of field i, 1 to 5 (R326). -/
def Header.extent (h : Header) (i : Nat) : Nat := (h.ext.getD (i - 1) 0).toNat + 1
def Header.ndeps (h : Header) : Nat := bits h.ctl 0 3
def Header.escope (h : Header) : BitVec 3 := h.ctl.extractLsb' 3 3
def Header.prio (h : Header) : BitVec 3 := h.ctl.extractLsb' 6 3
def Header.token (h : Header) : Nat := bits h.ctl 9 3
def Header.progress (h : Header) : Bool := h.ctl.getLsbD 12
def Header.restartable (h : Header) : Bool := h.ctl.getLsbD 13
def Header.urgent (h : Header) : Bool := h.ctl.getLsbD 14
def Header.clusters (h : Header) : BitVec 16 := h.ctl.extractLsb' 16 16

/-- The entries d1 to d5 of the first NDEPS dependence vectors. -/
def Header.deps (h : Header) : List (List Int) :=
  (h.depw.take h.ndeps).map (fun w => (List.range 5).map (fun i => (w.extractLsb' (8 * i) 8).toInt))

/-- Teams of the grid. -/
def Header.count (h : Header) : Nat := ([1, 2, 3, 4, 5].map h.extent).foldl (· * ·) 1

/-- Coordinates t1 to t5 of a linear index, field 1 fastest (R326). -/
def coordsFrom (h : Header) : List Nat → Nat → List Nat
  | [], _ => []
  | i :: r, n => (n % h.extent i) :: coordsFrom h r (n / h.extent i)

def Header.coords (h : Header) (n : Nat) : List Nat := coordsFrom h [1, 2, 3, 4, 5] n

/-- The linear index of coordinates t1 to t5. -/
def linearFrom (h : Header) : List Nat → List Nat → Nat
  | i :: r, t :: ts => t + h.extent i * linearFrom h r ts
  | _, _ => 0

def Header.linear (h : Header) (ts : List Nat) : Nat := linearFrom h [1, 2, 3, 4, 5] ts

/-- b(i), the first bit of field i (R326). -/
def Header.fieldBase (h : Header) (i : Nat) : Nat := ((List.range i).map h.width).foldl (· + ·) 0

/-- The work identifier of a lane number within the team of linear index n (R326). -/
def Header.wid (h : Header) (n lane : Nat) : DWord :=
  BitVec.ofNat 64 (lane + (([1, 2, 3, 4, 5].map (fun i => (h.coords n).getD (i - 1) 0 * 2 ^ h.fieldBase i)).foldl (· + ·) 0))

/-- Predecessors of linear index n inside the grid (R329). -/
def Header.preds (h : Header) (n : Nat) : List Nat :=
  h.deps.filterMap (fun d =>
    let p := (List.range 5).map (fun i => ((h.coords n).getD i 0 : Int) - d.getD i 0)
    if (List.range 5).all (fun i => decide (0 ≤ p.getD i 0 ∧ p.getD i 0 < h.extent (i + 1))) then
      some (h.linear (p.map Int.toNat)) else none)

/-- Lexicographically positive: the last non-zero entry is positive (R329). -/
def lexPositive (d : List Int) : Bool :=
  match (d.reverse.find? (fun x => decide (x ≠ 0))) with
  | none => false
  | some x => decide (0 < x)

/-- Is the header cyclic (R329)? -/
def Header.cyclic (h : Header) : Bool := !h.deps.all lexPositive

/-- Clusters of a partition, as its current job may use them (R353, R377, R381): its own that the current entry grants,
and borrowed ones. -/
def State.jobClusters (s : State) (p : Nat) : List Nat :=
  (List.range 16).filter (fun c => s.holdsCluster p c &&
    ((s.pt p).grant.getLsbD c || (decide ((s.cl c).lent ≠ 0) && !(s.pt p).inRange c)))

/-- Clusters that a header selects out of a list (R327). -/
def Header.pick (h : Header) (cs : List Nat) : List Nat := cs.filter (fun c => decide (h.clusters = 0) || h.clusters.getLsbD c)

/-- Reserved fields of R327 and ENTRY [1:0]. -/
def Header.reservedClear (h : Header) : Bool :=
  decide (bits h.entry 0 2 = 0) && decide (bits h.shape 13 6 = 0) && decide (bits h.widths 42 22 = 0) &&
    !h.ctl.getLsbD 15 && decide (bits h.fair 16 16 = 0) &&
    (List.range 4).all (fun i => decide (bits (h.depw.getD i 0) 40 24 = 0) &&
      (decide (i < h.ndeps) || decide (h.depw.getD i 0 = 0)))

/-- Is the header ill-formed for a partition (R328)? -/
def State.illFormed (s : State) (p : Nat) (h : Header) : Bool :=
  !h.reservedClear || decide (16 < h.ntiles) || decide (6144 < bits h.shape 19 13) ||
    (List.range 6).any (fun i => decide (64 < h.width i)) || decide (64 < h.fieldBase 6) ||
    decide (2 ^ h.width 0 < 4 * h.nslices) ||
    [1, 2, 3, 4, 5].any (fun i => (decide (h.width i = 0) && decide (h.extent i ≠ 1)) ||
      (decide (h.width i ≠ 0) && decide (2 ^ h.width i < h.extent i))) ||
    decide (4 < h.ndeps) ||
    h.deps.any (fun d => [1, 2, 3, 4, 5].any (fun i => decide (h.width i = 0 ∧ d.getD (i - 1) 0 ≠ 0))) ||
    decide (h.escope = 7) ||
    decide (h.pick ((List.range 16).filter (fun c => s.holdsCluster p c)) = [])

/-! ## What a core admits (R209) -/

/-- Keys of the teams resident on a core. -/
def State.teamsOn (s : State) (core : Nat) : List Nat := (s.teams.map Prod.fst).filter (fun t => decide (coreOfTeam t = core))

/-- Units of 3,072 bytes that so many bytes take. -/
def unitsFor (n : Nat) : Nat := (n + 3071) / 3072

/-- Scratchpad units in use on a core. -/
def State.unitsUsed (s : State) (core : Nat) : List Nat :=
  (s.teamsOn core).flatMap (fun t => (List.range (unitsFor ((s.tm t).splimit - (s.tm t).spbase))).map
    (fun i => (s.tm t).spbase / 3072 + i))

/-- The lowest run of free units that is long enough (R341). -/
def State.freeRun (s : State) (core need : Nat) : Option Nat :=
  let used := s.unitsUsed core
  (List.range (129 - need)).find? (fun u => (List.range need).all (fun i => !used.contains (u + i)))

/-- The lowest free numbers below a limit. -/
def lowestFree (used : List Nat) (limit : Nat) : List Nat := (List.range limit).filter (fun i => !used.contains i)

def State.freeSlots (s : State) (core : Nat) : List Nat := lowestFree ((s.teamsOn core).map slotOfTeam) 16
def State.freeSlices (s : State) (core : Nat) : List Nat :=
  lowestFree ((s.teamsOn core).flatMap (fun t => (s.tm t).slices.map (· % 64))) 64
def State.freeTiles (s : State) (core : Nat) : List Nat :=
  lowestFree ((s.teamsOn core).flatMap (fun t => (s.tm t).tiles)) 16

/-- Vector-file blocks in use (R209). -/
def State.blocksUsed (s : State) (core : Nat) : Nat :=
  ((s.teamsOn core).map (fun t => (s.tm t).header.nslices * ((s.tm t).header.regs / 32))).foldl (· + ·) 0

/-- Does the core admit a team of this header that holds so many frames (R209)? -/
def State.admits (s : State) (core : Nat) (h : Header) (permits : Nat) : Bool :=
  decide ((s.freeSlots core) ≠ []) && decide (h.nslices ≤ (s.freeSlices core).length) &&
    decide (s.blocksUsed core + h.nslices * (h.regs / 32) ≤ 256) && (s.freeRun core (unitsFor h.scratch)).isSome &&
    decide (h.ntiles ≤ (s.freeTiles core).length) && decide (s.permitsUsed core + permits ≤ 8)

/-! ## Starting a team -/

/-- A slice as R31 starts it; each lane's LFSR starts from its own WID. -/
def freshSlice (h : Header) (t n idx : Nat) (gangHead : Nat) : Slice :=
  ({ Slice.absent with
      team := t, idx := idx, active := 0xF, pc := h.entry, fair := fairWrite (h.fair.extractLsb' 0 16)
      lfsr := Quad.ofFn (fun l => lfsrFix (loWord (h.wid n (4 * idx + l)) ^^^ hiWord (h.wid n (4 * idx + l)) ^^^ 0x5A5A5A5A))
      gang := gangHead, done := false }).sPutPair 0 h.param
    |>.sPut 2 (BitVec.ofNat 32 idx) |>.sPut 3 (BitVec.ofNat 32 h.nslices)

/-- Tiles that pass between jobs are cleared (R182). -/
def State.claimTile (s : State) (core : Nat) (who : BitVec 16 × Nat) (t : Nat) : State :=
  let clean := decide (aget who (s.co core).tileJob t = who)
  let s1 := s.modCo core (fun c => { c with tileJob := aput c.tileJob t who })
  if clean then s1 else s1.putMem (tileKey core t 0) (List.replicate 4096 0)

/-- The fields of a team that is placed on a core, its records aside. -/
def State.seatTeam (s : State) (core : Nat) (tm : Team) : Nat × Team :=
  let h := tm.header
  let t := 16 * core + (s.freeSlots core).headD 0
  let base := 3072 * ((s.freeRun core (unitsFor h.scratch)).getD 0)
  (t, { tm with
    slices := ((s.freeSlices core).take h.nslices).map (fun i => 64 * core + i)
    spbase := base, splimit := base + h.scratch
    tiles := (s.freeTiles core).take h.ntiles, since := s.nsWord })

/-- A new team of linear index n of a grid. -/
def newTeam (p : Nat) (j : Job) (grid n : Nat) (h : Header) : Team :=
  { Team.absent with
    part := p, job := j.job, gen := j.gen, grid := grid, index := n, header := h
    trapvec := h.trapvec &&& ~~~3#32, prio := h.prio, launchPrio := h.prio }

/-- A team starts on a core (R31, R338, R341). A clamped edge scope sets FENCE_CLAMPED in a team with a predecessor. -/
def State.startTeam (s : State) (p grid n : Nat) (h : Header) (core : Nat) : State :=
  let (t, tm) := s.seatTeam core (newTeam p (s.jobOf p) grid n h)
  let clamped := decide (h.escope = 6) && (s.pt p).sclamp && decide (h.preds n ≠ [])
  let slice (i k : Nat) : Nat × Slice :=
    let x := freshSlice h t n i (tm.slices.getD (i / 8 * 8) 0)
    (k, if clamped then x.stick stFenceClamped else x)
  let s1 := { s with
    teams := aput s.teams t tm
    slices := ((List.range tm.slices.length).map (fun i => slice i (tm.slices.getD i 0))).foldl
      (fun m e => aput m e.1 e.2) s.slices }
  tm.tiles.foldl (fun u x => u.claimTile core (tm.job, p) x) s1

end Sys2Proof.Machine
end

