-- ==== Sys2Proof/Machine/WaitTable.lean ====
section
/-! DEFINITION. The wait-for tables (spec R306 to R309, R316 to R325): keys and homes, entries, holders, blocked teams, walks
and priority inheritance. -/

namespace Sys2Proof.Machine

open Sys2Proof

/-! ## Keys (R306) -/

/-- The key of a byte of a core's scratchpad. -/
def localKey (core off : Nat) : DWord :=
  BitVec.ofNat 64 (2 ^ 62 + dieOfCore core * 2 ^ 37 + clusterOfCore core % 2 * 2 ^ 34 + core % 256 * 2 ^ 19 + off % 2 ^ 19)

/-- The key of a team's barrier. -/
def tsyncKey (t : Nat) : DWord := localKey (coreOfTeam t) (0x7FF00 + 16 * slotOfTeam t)

/-- Where a key's entries are kept: a die of this package and the key there, another package, or nowhere with the failure
that R306 and R399 give. -/
inductive Home where
  | here (die : Nat) (key : DWord)
  | away
  | fail (bit : Nat)
  deriving DecidableEq, Repr

/-- The home of a key of SPACE 00 or 01. -/
def homeHere (key : DWord) : Home :=
  match bits key 62 2 with
  | 0 => .here (bits key 45 3) key
  | 1 => .here (bits key 37 3) key
  | _ => .fail farFault

/-- The home of a key for a partition's job. -/
def State.homeOf (s : State) (p : Nat) (key : DWord) : Home :=
  if bits key 62 2 = 2 then
    let peer := key.extractLsb' 42 20
    if !s.peerReachable peer then .fail farNoPeer
    else if peer = s.selfPeer then match windowAddr (s.jobOf p) (key.extractLsb' 0 42) with
      | none => .fail farFault
      | some a => homeHere a
    else .away
  else homeHere key

/-- The die of this package on which a key is homed; 8 for a key homed in another package. -/
def objDie (o : DWord) : Nat :=
  match homeHere o with
  | .here d _ => d
  | _ => 8

/-! ## Teams, resident or swapped out -/

/-- The key by which table entries name a team that is swapped out. -/
def savedKey (id : Nat) : Nat := 2 ^ 24 + id

/-- The slices of a team, in core-slice order, with their keys; a swapped-out team is judged by its saved state (R318). -/
def State.teamSlices (s : State) (t : Nat) : List (Nat × Slice) :=
  if t < 2 ^ 24 then ((s.tm t).slices.map (fun k => (k, s.sl k)))
  else match s.saved.find? (fun x => decide (savedKey x.id = t)) with
    | none => []
    | some x => (x.team.slices.zip x.slices)

/-- The team itself. -/
def State.anyTeam (s : State) (t : Nat) : Team :=
  if t < 2 ^ 24 then s.tm t
  else match s.saved.find? (fun x => decide (savedKey x.id = t)) with
    | none => Team.absent
    | some x => x.team

/-- The number under which the table holds a team of another package: its holder word with its package above (R306). -/
def foreignTeam (peer : BitVec 20) (word : Word) : Nat := 2 ^ 52 + peer.toNat * 2 ^ 32 + word.toNat

/-- The holder word of a team (R227). -/
def State.holderWord (s : State) (t : Nat) : Word :=
  if 2 ^ 52 ≤ t then BitVec.ofNat 32 t else
  let (core, slot) := if t < 2 ^ 24 then (coreOfTeam t, slotOfTeam t)
    else match s.saved.find? (fun x => decide (savedKey x.id = t)) with
      | none => (0, 0)
      | some x => (x.core, x.slot)
  (s.anyTeam t).job ++ (BitVec.ofNat 4 slot ++ (BitVec.ofNat 8 core ++ (BitVec.ofNat 1 (clusterOfCore core) ++
    BitVec.ofNat 3 (dieOfCore core))))

/-! ## Entries (R307, R308) -/

/-- The die of this package that keeps an entry. -/
def WftEntry.die (e : WftEntry) : Option Nat :=
  match homeHere e.obj with
  | .here d _ => some d
  | _ => none

/-- Does an entry stand on its die, and not in the spill area? -/
def WftEntry.onDie (e : WftEntry) : Bool := e.spilled.isNone

/-- Entries on a die, apart from spilled ones. -/
def State.wftUsed (s : State) (die : Nat) : Nat :=
  (s.wft.filter (fun e => decide (e.die = some die) && e.onDie)).length

/-- WFTSTAT as it reads (R324). -/
def State.wftstatWord (s : State) (die : Nat) : DWord :=
  (s.di die).wftstat ||| BitVec.ofNat 64 (min 4096 (s.wftUsed die))

/-- Entries that a partition's spill area on a die takes (R308). -/
def spillCap (w : DWord) : Nat := min (bits w 43 21) 1048576

/-- Places of a partition's spill area that are taken. -/
def State.spillUsed (s : State) (die p : Nat) : List Nat :=
  (s.wft.filter (fun e => decide (e.die = some die ∧ e.part = p))).filterMap WftEntry.spilled

/-- The lowest place of the area that is free (DEDUCED, log entry 38). -/
def State.spillPlace (s : State) (die p : Nat) : Option Nat :=
  let used := s.spillUsed die p
  let cap := spillCap (aget 0 (s.di die).wftspill p)
  if cap ≤ used.length then none else (List.range (used.length + 1)).find? (fun n => !used.contains n)

/-- Key of a place of the area: die physical memory from BASE on, 32 bytes for each entry. -/
def State.spillKey (s : State) (die p n : Nat) : Nat :=
  hbmKey die ((bits (aget 0 (s.di die).wftspill p) 12 25 * 4096 + 32 * n) % 2 ^ 37)

/-- The 32 bytes of an entry under a key (R307). -/
def State.entryBits (s : State) (e : WftEntry) (obj : DWord) : BitVec 256 :=
  obj ++ (s.holderWord e.team ++ (e.kind ++ (e.src ++ (BitVec.ofNat 6 (e.slice % 64) ++ (0#5 ++ (BitVec.ofNat 16 e.count ++
    (e.time ++ (e.torem ++ 0#32))))))))

/-- One entry changed. -/
def State.modEntry (s : State) (id : Nat) (f : WftEntry → WftEntry) : State :=
  { s with wft := s.wft.map (fun e => if e.id = id then f e else e) }

/-- An entry is read: poison in it is found once (R292). It lies at no far address and no agent of R289 reads it but the device
(DEDUCED, log entry 26). -/
def State.entryRead (s : State) (die : Nat) (e : WftEntry) : State :=
  if e.unfound then (s.modEntry e.id (fun x => { x with unfound := false })).memEventJob e.part die 0 0 8 3 s.selfPeer else s

/-- The entries of a die are read. -/
def State.readEntries (s : State) (die : Nat) : State :=
  (s.wft.filter (fun e => decide (e.die = some die) && e.unfound)).foldl (fun u e => u.entryRead die e) s

/-- An entry written to a place of the spill area. -/
def State.spillOut (s : State) (die : Nat) (e : WftEntry) (n : Nat) : State :=
  ((s.entryRead die e).putMem (s.spillKey die e.part n) (recBytes (s.entryBits e e.obj))).modEntry e.id (fun x =>
    { x with spilled := some n })

/-- What has changed of a team's spilled entries is written to their places in HBM too (R308). -/
def State.syncSpilled (s : State) (t : Nat) : State :=
  (s.wft.filter (fun e => decide (e.team = t))).foldl (fun u e => match e.spilled, e.die with
    | some n, some d => u.putMem (u.spillKey d e.part n) (recBytes (u.entryBits e e.obj))
    | _, _ => u) s

/-- An entry read back from its place. -/
def State.spillIn (s : State) (die : Nat) (e : WftEntry) (n : Nat) : State :=
  let r : BitVec 256 := BitVec.ofNat 256 (s.num (s.spillKey die e.part n) 32)
  s.modEntry e.id (fun x =>
    { x with
      spilled := none, obj := r.extractLsb' 192 64, count := bits r 128 16, time := r.extractLsb' 64 64
      torem := r.extractLsb' 32 32 })

/-- The least recently touched on-die entry of a partition. -/
def oldestTouched : List WftEntry → Option WftEntry
  | [] => none
  | e :: r => match oldestTouched r with
    | none => some e
    | some x => if x.touched < e.touched then some x else some e

/-- Room for one more entry of a partition on a die: in the table, from which the partition's least recently touched entry moves to
its spill area when the die is full; or, when the partition has none there, a place of that area for the new entry itself. None when
neither has room. -/
def State.makeRoom (s : State) (die p : Nat) : Option (State × Option Nat) :=
  if s.wftUsed die < 4096 then some (s, none)
  else (s.spillPlace die p).map (fun n =>
    match oldestTouched (s.wft.filter (fun e => decide (e.die = some die ∧ e.part = p) && e.onDie)) with
    | none => (s, some n)
    | some o => (s.spillOut die o n, none))

/-- An entry put into the table under a new number, touched now, with a time. -/
def State.putEntry (s : State) (e : WftEntry) (time : DWord) : State :=
  { s with
    nextId := s.nextId + 1, nextSeq := s.nextSeq + 1
    wft := s.wft ++ [{ e with id := s.nextId, touched := s.nextSeq, time := time, spilled := none }] }

/-- A new entry with its time: the state and the entry's number. An entry homed in another package takes no room here. -/
def State.newEntry (s : State) (e : WftEntry) (time : DWord) : Option (State × Nat) :=
  match e.die with
  | none => some (s.putEntry e time, s.nextId)
  | some d => (s.makeRoom d e.part).map (fun r =>
      let t := r.1.putEntry e time
      (match r.2, t.wft.getLast? with | some n, some x => t.spillOut d x n | _, _ => t, r.1.nextId))

def State.addEntry (s : State) (e : WftEntry) : Option (State × Nat) := s.newEntry e s.nsWord

/-- OVF of a die rises (R317, R324). -/
def State.wftOverflow (s : State) (die : Nat) : State :=
  s.modDi die (fun d => { d with wftstat := satInc (d.wftstat.extractLsb' 48 16) ++ d.wftstat.extractLsb' 0 48 })
def State.wftCut (s : State) (die : Nat) : State :=
  s.modDi die (fun d => { d with wftstat := setBits d.wftstat 32 16 (satInc (d.wftstat.extractLsb' 32 16)).toNat })
def State.wftDlk (s : State) (die : Nat) : State :=
  s.modDi die (fun d => { d with wftstat := setBits d.wftstat 16 16 (satInc (d.wftstat.extractLsb' 16 16)).toNat })

/-- A blank entry of a team. -/
def State.entryOf (s : State) (t : Nat) (obj : DWord) (kind : BitVec 2) (src : BitVec 3) (slice : Nat) : WftEntry :=
  { id := 0, part := (s.tm t).part, job := (s.tm t).job, obj := obj, team := t, kind := kind, src := src, slice := slice
    count := 1, time := 0, torem := 0, spilled := none, touched := 0, unfound := false }

/-- The hold or will of a team on a key. -/
def State.regOf (s : State) (t : Nat) (obj : DWord) (kind : BitVec 2) : Option WftEntry :=
  s.wft.find? (fun e => decide (e.team = t ∧ e.obj = obj ∧ e.kind = kind))

/-- One entry changed, touched, and brought back from the spill area (R308). -/
def State.touchEntry (s : State) (id : Nat) (f : WftEntry → WftEntry) : State :=
  { s with
    nextSeq := s.nextSeq + 1
    wft := s.wft.map (fun e => if e.id = id then { f e with touched := s.nextSeq } else e) }

/-- A spilled entry comes back to its die. When the die is full it changes places with the partition's least recently touched entry
there; without one it stays where it is. -/
def State.bringBack (s : State) (id : Nat) : State :=
  match s.wft.find? (fun e => decide (e.id = id)) with
  | none => s
  | some e => match e.spilled, e.die with
    | some n, some d =>
      if s.wftUsed d < 4096 then s.spillIn d e n
      else match oldestTouched (s.wft.filter (fun x => decide (x.die = some d ∧ x.part = e.part) && x.onDie)) with
        | none => s
        | some o => (s.spillIn d e n).spillOut d o n
    | _, _ => s

/-- The spilled entries of a job on an object come back (R308). -/
def State.bringObj (s : State) (p : Nat) (job : BitVec 16) (obj : DWord) : State :=
  (s.wft.filter (fun e => decide (e.part = p ∧ e.job = job ∧ e.obj = obj) && !e.onDie)).foldl (fun t e => t.bringBack e.id) s

/-- A hold or will added: the count after, or nothing when no entry can be created (R311). -/
def State.addReg (s : State) (t : Nat) (obj : DWord) (kind : BitVec 2) (src : BitVec 3) : Option (State × Nat) :=
  match s.regOf t obj kind with
  | some e =>
    let n := if e.count = 65535 then 65535 else e.count + 1
    some ((s.bringBack e.id).touchEntry e.id (fun x => { x with count := n }), n)
  | none => (s.addEntry (s.entryOf t obj kind src 0)).map (fun r => (r.1, 1))

/-- A hold or will lowered by 1; an entry at 0 goes (R312). -/
def State.dropReg (s : State) (t : Nat) (obj : DWord) (kind : BitVec 2) : State × Nat :=
  match s.regOf t obj kind with
  | none => (s, 0)
  | some e =>
    if e.count ≤ 1 then ({ s with wft := s.wft.filter (fun x => decide (x.id ≠ e.id)) }, 0)
    else ((s.bringBack e.id).touchEntry e.id (fun x => { x with count := e.count - 1 }), e.count - 1)

/-- So many entries of a blank one's team, object, kind and slice from now on: those beyond go, those that lack are made. -/
def State.haveEntries (s : State) (die : Nat) (e : WftEntry) (n : Nat) : State :=
  let same (x : WftEntry) : Bool := decide (x.team = e.team ∧ x.obj = e.obj ∧ x.kind = e.kind ∧ x.src = e.src ∧ x.slice = e.slice)
  let old := (s.wft.filter same).map WftEntry.id
  let gone := old.drop n
  (List.range (n - old.length)).foldl (fun u _ => match u.addEntry e with
    | some r => r.1
    | none => u.wftOverflow die) { s with wft := s.wft.filter (fun x => !gone.contains x.id) }

/-- A registration that another package forwards for a word of this package's windows (R306): from now on a team of that package has so
many registrations of a kind on it, its waits one entry for each slice (R307), or with none its entry goes. The key is the address that
the word has here; where it cannot be formed nothing is registered. Without room nothing is registered either (DEDUCED, log
entry 39). -/
def State.peerEntry (s : State) (p : Nat) (woff : BitVec 42) (kind : BitVec 2) (src : BitVec 3) (peer : BitVec 20) (word : Word)
    (slice : BitVec 6) (n : Nat) : State :=
  match windowAddr (s.jobOf p) woff with
  | none => s
  | some obj =>
    let t := foreignTeam peer word
    let die := objDie obj
    let e : WftEntry := { s.entryOf t obj kind src slice.toNat with part := p, job := (s.jobOf p).job }
    if 8 ≤ die then s
    else if kind = 0 ∨ kind = 3 then s.haveEntries die e n
    else match s.regOf t obj kind with
      | some x =>
        if n = 0 then { s with wft := s.wft.filter (fun y => decide (y.id ≠ x.id)) }
        else (s.bringBack x.id).touchEntry x.id (fun y => { y with count := min n 65535 })
      | none =>
        if n = 0 then s
        else match s.addEntry { e with slice := 0, count := min n 65535 } with
          | some r => r.1
          | none => s.wftOverflow die

/-- An uncorrectable error in a granule of 64 bits of an entry on its die: two of its words read as POISON_WORD from now on (R292,
R307). An entry whose TEAMW is lost names a team that is none of this package's. -/
def State.upsetWft (s : State) (id g : Nat) : State :=
  s.modEntry id (fun e =>
    if !e.onDie then e
    else
      let x : WftEntry := match g % 4 with
        | 0 => { e with torem := poisonWord }
        | 1 => { e with time := poisonWord ++ poisonWord }
        | 2 => { e with
            team := foreignTeam s.selfPeer poisonWord, job := poisonWord.extractLsb' 16 16, kind := poisonWord.extractLsb' 30 2
            src := poisonWord.extractLsb' 27 3, slice := bits poisonWord 21 6, count := bits poisonWord 0 16 }
        | _ => { e with obj := poisonWord ++ poisonWord }
      { x with unfound := true })

/-! ## Holders, blocked teams (R307, R318) -/

/-- Entries sorted by the time they were made, earliest first. -/
def insertTime (e : WftEntry) : List WftEntry → List WftEntry
  | [] => [e]
  | x :: r => if e.time.toNat < x.time.toNat then e :: x :: r else x :: insertTime e r

def sortTime (es : List WftEntry) : List WftEntry := es.foldl (fun m e => insertTime e m) []

/-- Holders of an object for a job of a partition, by TIME (R307, R320). Of an object that is homed in another package these are the
teams of this one: only edges between teams of different packages are terminal. -/
def State.holders (s : State) (p : Nat) (job : BitVec 16) (obj : DWord) : List Nat :=
  firsts ((sortTime (s.wft.filter (fun e => decide (e.part = p ∧ e.job = job ∧ e.obj = obj ∧ (e.kind = 1 ∨ e.kind = 2))))).map
    WftEntry.team)

/-- Posted waits of a team's receives bound to a token of a mask on which a slice still stalls: one in error holds it no more. -/
def State.postedOn (s : State) (t : Nat) (mask : BitVec 8) : List WftEntry :=
  (s.recvs.filter (fun r => decide (r.team = t) && r.posted && (match r.tok with
    | some j => mask.getLsbD j && !((s.anyTeam t).token j).err
    | none => false))).filterMap (fun r => r.wft.bind (fun id => s.wft.find? (fun e => decide (e.id = id))))

/-- The objects a slice waits on in a registered wait (R318). -/
def State.sliceObjs (s : State) (t : Nat) (x : Slice) : List DWord :=
  match x.wait with
  | none => []
  | some w => match w with
    | .waitt m => (s.postedOn t m).map WftEntry.obj
    | .yieldt m _ => (s.postedOn t m).map WftEntry.obj
    | _ => match w.entry with
      | none => []
      | some id => ((s.wft.find? (fun e => decide (e.id = id))).map WftEntry.obj).toList

/-- Is the team blocked (R318)? -/
def State.blocked (s : State) (t : Nat) : Bool :=
  let live := (s.teamSlices t).filter (fun e => !e.2.done)
  decide (live ≠ []) && live.all (fun e => decide (s.sliceObjs t e.2 ≠ []))

/-! ## Walks (R319 to R322) -/

/-- Waits on objects of a die, for a job of a partition: team, slice and object, the teams resident and swapped out. -/
def State.waitsOn (s : State) (die p : Nat) (job : BitVec 16) : List (Nat × Nat × DWord) :=
  (firsts ((s.wft.filter (fun e => decide (e.part = p ∧ e.job = job))).map WftEntry.team)).flatMap (fun t =>
    ((s.teamSlices t).filter (fun e => !e.2.done)).flatMap (fun e =>
      ((s.sliceObjs t e.2).filter (fun o => decide (objDie o = die))).map (fun o => (t, e.1, o))))

/-- Holders of objects of a die, for a job of a partition, earliest first. -/
def State.holdsOn (s : State) (die p : Nat) (job : BitVec 16) : List (DWord × Nat) :=
  firsts ((sortTime (s.wft.filter (fun e => decide (e.part = p ∧ e.job = job ∧ (e.kind = 1 ∨ e.kind = 2) ∧ e.die = some die)))).map
    (fun e => (e.obj, e.team)))

/-- The objects a slice waits on, as a walk sees them: those of its own die as they stood when it began, others as they stand (R321). -/
def State.walkObjs (s : State) (w : Walk) (t : Nat) (e : Nat × Slice) : List DWord :=
  ((w.waits.filter (fun x => decide (x.1 = t ∧ x.2.1 = e.1))).map (fun x => x.2.2)) ++
    (s.sliceObjs t e.2).filter (fun o => decide (objDie o ≠ w.die))

/-- Is a team blocked, as a walk sees it? -/
def State.walkBlocked (s : State) (w : Walk) (t : Nat) : Bool :=
  let live := (s.teamSlices t).filter (fun e => !e.2.done)
  decide (live ≠ []) && live.all (fun e => decide (s.walkObjs w t e ≠ []))

/-- A team entered by a walk, its objects in core-slice order, those of slice `first` before the others (R320). -/
def State.walkStop (s : State) (w : Walk) (t : Nat) (first : Option Nat) : WalkStop :=
  let live : List (Nat × Slice) := (s.teamSlices t).filter (fun e => !e.2.done)
  let mine (e : Nat × Slice) : Bool := decide (some e.1 = first)
  ⟨t, firsts ((live.filter mine ++ live.filter (fun e => !mine e)).flatMap (s.walkObjs w t)), []⟩

/-- The edges from an object to its holders, as a walk reads them. -/
def State.walkEdges (s : State) (w : Walk) (o : DWord) : List (DWord × Nat) :=
  if objDie o = w.die then w.holds.filter (fun x => decide (x.1 = o))
  else (s.holders (s.anyTeam w.team).part (s.anyTeam w.team).job o).map (fun h => (o, h))

/-- Does a team still wait on an object of another die, and is it still blocked, when that die is read (R321)? -/
def State.walkWaits (s : State) (w : Walk) (t : Nat) (o : DWord) : Bool :=
  s.walkBlocked w t && (s.teamSlices t).any (fun e => !e.2.done && (s.sliceObjs t e.2).contains o)

/-- The depth-first walk (R320) as far as it comes: to its end, or to an object of another die whose probe is still to be answered;
`probe` names the die and the team of an answer. Entries it needs come back from the spill areas. Fuel bounds its moves. -/
def State.walkGo (s : State) (probe : Option (Nat × Nat)) : Nat → Walk → State × Walk
  | 0, w => (s, w)
  | fuel + 1, w =>
    match w.path with
    | [] => (s, w)
    | p :: below => match p.edges with
      | (o, h) :: es =>
        let w1 : Walk := { w with path := { p with edges := es } :: below }
        if h = w.team then
          (s, { w with path := [], cycle := ((o, h) :: w.via).reverse.map (fun e => (e.1, s.holderWord e.2)) })
        else if w.path.any (fun q => decide (q.team = h)) || !s.walkBlocked w h then s.walkGo probe fuel w1
        else if 64 ≤ w.entered ∨ 16 ≤ w.path.length then (s, { w with path := [], cut := true })
        else s.walkGo probe fuel
          { w1 with path := s.walkStop w h none :: w1.path, via := (o, h) :: w.via, entered := w.entered + 1 }
      | [] => match p.objs with
        | [] => s.walkGo probe fuel { w with path := below, via := w.via.tail }
        | o :: os =>
          if objDie o ≠ w.die ∧ !s.walkWaits w p.team o then s.walkGo probe fuel { w with path := { p with objs := os } :: below }
          else if objDie o = w.die ∨ 8 ≤ objDie o ∨ probe = some (objDie o, p.team) then
            let s1 := s.bringObj (s.anyTeam w.team).part (s.anyTeam w.team).job o
            s1.walkGo probe fuel { w with path := { p with objs := os, edges := s1.walkEdges w o } :: below }
          else (s, w)

/-- Moves that a walk can take. -/
def State.walkFuel (s : State) (w : Walk) : Nat := 65 * (2 * (s.wft.length + w.waits.length + w.holds.length) + 4)

/-- The walk kept under its slice. -/
def State.putWalk (s : State) (r : State × Walk) : State :=
  { r.1 with walks := s.walks.filter (fun x => decide (x.slice ≠ r.2.slice)) ++ [r.2] }

/-- A walk from a team at the change that may close a cycle (R320, R321): it begins at once, and is kept until it is reported. The entries of its die are read. The
slice is the one in which DEADLOCK would be raised. -/
def State.startWalk (s0 : State) (t : Nat) (k die : Nat) (first : Option Nat) : State :=
  if !s0.blocked t then s0
  else
    let s := s0.readEntries die
    let tm := s.anyTeam t
    let w : Walk := ⟨k, die, t, [], [], 1, s.waitsOn die tm.part tm.job, s.holdsOn die tm.part tm.job, [], false⟩
    s.putWalk (s.walkGo none (s.walkFuel w) { w with path := [s.walkStop w t first] })

/-! ## Priority inheritance (R323) -/

/-- Teams that wait on an object of which the team is a holder. -/
def State.waitersOf (s : State) (t : Nat) : List Nat :=
  let objs := (s.wft.filter (fun e => decide (e.team = t ∧ (e.kind = 1 ∨ e.kind = 2)))).map WftEntry.obj
  let tm := s.anyTeam t
  ((s.wft.filter (fun e => decide (e.part = tm.part ∧ e.job = tm.job ∧ e.team ≠ t) && objs.contains e.obj &&
    (decide (e.kind = 0) || (decide (e.kind = 3) &&
      (s.teamSlices e.team).any (fun x => !x.2.done && (s.sliceObjs e.team x.2).contains e.obj))))).map WftEntry.team).dedup

/-- Effective priority over chains of so many holders. -/
def State.effPrioFrom (s : State) : Nat → Nat → Nat
  | 0, t => (s.anyTeam t).prio.toNat
  | n + 1, t => (s.waitersOf t).foldl (fun m w => max m (s.effPrioFrom n w)) (s.anyTeam t).prio.toNat

def State.effPrio (s : State) (t : Nat) : Nat := s.effPrioFrom 16 t

/-! ## Conditions recorded after issue (R33) -/

/-- A condition is recorded against a slice for its next instruction boundary, when its TRAPEN bit is set now. -/
def State.boundaryCond (s : State) (k bit : Nat) (i : TrapInfo) : State :=
  if (s.sl k).done ∨ !(s.sl k).trapOn bit then s else s.modSl k (fun x => { x with boundary := x.boundary ++ [i] })

/-- A far failure of a slice after issue: its FARSTAT bit and count, and FAR_ERR under R33 (R170, R433). -/
def State.farFailed (s : State) (k bit : Nat) (lns : BitVec 4) : State :=
  let s1 := s.modSl k (fun x => x.farFail bit s.cycle)
  s1.boundaryCond k teFarErr ⟨causeFarErr, 0, lns, (s1.sl k).farstat, 0, 0⟩

end Sys2Proof.Machine
end

