-- ==== Sys2Proof/Machine/Special.lean ====
section
/-! DEFINITION. The special registers and the instructions that read and write them (spec R15 to R24, R32, R34). -/

namespace Sys2Proof.Machine

open Sys2Proof

/-- STATUS as it reads (R19). -/
def State.statusWord (s : State) (k : Nat) : Word :=
  let x := s.sl k
  let b (i : Nat) (c : Bool) : Word := if c then BitVec.ofNat 32 (2 ^ i) else 0
  (x.sticky &&& 0x27) ||| b 3 (x.poison.getLsbD 10) ||| b 4 (decide (bits x.farstat 0 4 ≠ 0)) ||| b 6 x.trapMode |||
    b 7 (s.parted k) ||| b 8 (s.tm x.team).header.progress

/-- PRIO as it reads (R16). -/
def State.prioWord (s : State) (t : Nat) : Word :=
  BitVec.ofNat 32 ((s.tm t).prio.toNat + 16 * s.effPrio t + 256 * (s.tm t).launchPrio.toNat)

/-- TOKSTAT (R16, R173). -/
def State.tokstatWord (s : State) (k : Nat) : Word :=
  let x := s.sl k
  let tm := s.tm x.team
  BitVec.ofNat 32 (((List.range 8).map (fun j =>
    (if (tm.token j).count = 0 then 2 ^ j else 0) + (if (tm.token j).err then 2 ^ (8 + j) else 0))).foldl (· + ·) 0 +
    65536 * x.stack.length)

/-- The value of a special register (R16). -/
def State.srWord (s : State) (k : Nat) (sel : Nat) : Word :=
  let x := s.sl k
  let tm := s.tm x.team
  let core := coreOfSlice k
  match sel with
  | 0x00 => loWord (tm.header.wid tm.index (4 * x.idx))
  | 0x01 => hiWord (tm.header.wid tm.index (4 * x.idx))
  | 0x02 => BitVec.ofNat 32 (x.idx + 32 * (k % 64))
  | 0x03 => s.gangWord k
  | 0x04 => BitVec.ofNat 32 (slotOfTeam x.team)
  | 0x05 => BitVec.ofNat 32 (core % 256)
  | 0x06 => BitVec.ofNat 32 (clusterOfCore core)
  | 0x07 => BitVec.ofNat 32 (dieOfCore core)
  | 0x08 => s.selfPeer.setWidth 32
  | 0x09 => tm.job.setWidth 32
  | 0x0A => tm.gen.setWidth 32
  | 0x0B => loWord s.nsWord
  | 0x0C => x.timehi.getD (hiWord s.nsWord)
  | 0x0D => if s.preq tm.part then 1 else 0
  | 0x0E => x.fpmode
  | 0x0F => s.statusWord k
  | 0x10 => x.farstat
  | 0x11 => x.poison
  | 0x12 => x.trapen
  | 0x13 => tm.trapvec
  | 0x14 => x.fairCount ++ x.fair
  | 0x15 => s.prioWord x.team
  | 0x16 => s.tokstatWord k
  | 0x17 => BitVec.ofNat 32 (x.fl + 64 * x.fs + 4096 * x.cp + 262144 * x.tl)
  | 0x18 => BitVec.ofNat 32 tm.spbase
  | 0x19 => BitVec.ofNat 32 tm.splimit
  | 0x1A => BitVec.ofNat 32 (s.pt tm.part).shadowExp
  | _ => x.lfsr.get 0

/-- What reading a special register changes: TIMELO latches, TIMEHI uses up the latch (R17). -/
def Slice.srRead (x : Slice) (now : DWord) (sel : Nat) : Slice :=
  if sel = 0x0B then { x with timehi := some (hiWord now) } else if sel = 0x0C then { x with timehi := none } else x

/-- SGET (R15). Reads a special register into a scalar register. -/
def execSget (d : BitVec 6) (sel : BitVec 8) (s : State) : Host.Outcome State Fault Refusal :=
  .next (s.perSlice (fun t k =>
    (t.modSl k (fun x => (x.srRead t.nsWord sel.toNat).sPut d.toNat (t.srWord k sel.toNat))).finishSlice k
      ((t.sl k).pc + 4)))

/-- The bits under a mask taken from w, the others from old (R15). -/
def mergeBits (mask old w : Word) : Word := (old &&& ~~~mask) ||| (w &&& mask)

/-- The writable fields of a special register written with w (R15, R16, R20): what the hardware has set in FARSTAT and POISON
in this cycle stands over the write (R24), and TRAPVEC and PRIO are seen from the fourth cycle on (R16). The LFSRs are written
apart. -/
def State.srWrite (s : State) (k sel : Nat) (w : Word) : State :=
  let t := (s.sl k).team
  match sel with
  | 0x0E => s.modSl k (fun x => { x with fpmode := fpmodeWrite w })
  | 0x0F => s.modSl k (fun x => { x with sticky := w &&& 0x27 })
  | 0x10 => s.modSl k (fun x =>
      let h := x.hwAt s.cycle
      let base := mergeBits 0x00FF000F h.farBase w
      { x with farstat := raiseCount (base ||| h.far) h.count, hw := { h with farBase := base } })
  | 0x11 => s.modSl k (fun x =>
      let h := x.hwAt s.cycle
      let base := mergeBits 0x0000FDFF h.poisonBase w
      { x with
        poison := match h.poison with | some r => if !h.held ∨ !base.getLsbD 10 then r else base | none => base
        hw := { h with poisonBase := base, wrote := s.cycle + 1 } })
  | 0x12 => s.modSl k (fun x => { x with trapen := w &&& 0x3F })
  | 0x13 => s.modTm t (fun y => { y with pend := y.pend ++ [(s.cycle + 4, true, w &&& ~~~3#32)] })
  | 0x14 => s.modSl k (fun x => { x with fair := fairWrite (w.extractLsb' 0 16) })
  | 0x15 => s.modTm t (fun y =>
      { y with pend := y.pend ++ [(s.cycle + 4, false,
          (if y.launchPrio.toNat < bits w 0 3 then y.launchPrio else w.extractLsb' 0 3).setWidth 32)] })
  | _ => s

/-- What an SSET finds in a special register: what the hardware sets in its cycle comes after it (R24). -/
def State.srBefore (s : State) (k sel : Nat) : Word :=
  if sel = 0x10 then ((s.sl k).hwAt s.cycle).farBase
  else if sel = 0x11 then ((s.sl k).hwAt s.cycle).poisonBase
  else s.srWord k sel

/-- A special register written: `op` combines its value and the operand, `lane` gives the operand of a lane's LFSR (R18). -/
def State.srSet (s : State) (sel : BitVec 8) (a : BitVec 6) (op : Word → Word → Word) (lane : Nat → Word → Word) : State :=
  s.perSlice (fun t k => t.withPoison k ((t.sl k).sPoisons [a.toNat]) (fun u =>
    let w := (u.sl k).sVal a.toNat
    let v := if sel = 0x1B then
        u.modSl k (fun x => { x with lfsr := Quad.ofFn (fun l => lfsrFix (op (x.lfsr.get l) (lane l w))) })
      else u.srWrite k sel.toNat (op (u.srBefore k sel.toNat) w)
    v.finishSlice k ((v.sl k).pc + 4)))

/-- SSET (R15). Writes the writable fields of a special register. -/
def execSset (sel : BitVec 8) (a : BitVec 6) (s : State) : Host.Outcome State Fault Refusal :=
  .next (s.srSet sel a (fun _ w => w) (fun l w => w ^^^ BitVec.ofNat 32 (l * 0x01010101)))

/-- SSET_SET (R15). Ors a scalar into a special register. -/
def execSsetSet (sel : BitVec 8) (a : BitVec 6) (s : State) : Host.Outcome State Fault Refusal :=
  .next (s.srSet sel a (fun r w => r ||| w) (fun _ w => w))

/-- SSET_CLR (R15). Clears the bits of a scalar from a special register. -/
def execSsetClr (sel : BitVec 8) (a : BitVec 6) (s : State) : Host.Outcome State Fault Refusal :=
  .next (s.srSet sel a (fun r w => r &&& ~~~w) (fun _ w => w))

end Sys2Proof.Machine
end

