-- ==== Sys2Proof/Machine/Control.lean ====
section
/-! DEFINITION. Control flow: branches, tokens, exit, gangs and regang, yields, traps and their return (spec R58, R133 to
R148, R217 to R226, R359, R360). -/

namespace Sys2Proof.Machine

open Sys2Proof

/-! ## Regang (R147) -/

/-- The waiting slices of a launch gang go on: those at one REGANG form one gang, and slices of other launch gangs that stood in a
gang with them keep it. -/
def State.endRegang (s : State) (t g : Nat) : State :=
  let ms := (s.launchGang t g).filter (fun k => decide ((s.sl k).wait = some .regang))
  let s1 := ((s.leftBehind t ms).modSls ms (fun x => { x with wait := none })).modTm t (fun y =>
    { y with rgDue := adel y.rgDue g })
  s1.modSls ms (fun x => { x with gang := s.firstAt ms x.pc, ahead := false })

/-- The wait ends when every non-exited slice of the launch gang waits: its condition is met, which restarts the watchdog count
(R388). -/
def State.tryRegang (s : State) (t g : Nat) : State :=
  let ms := s.launchGang t g
  if ms ≠ [] ∧ ms.all (fun k => decide ((s.sl k).wait = some .regang)) then
    (s.endRegang t g).modTm t (fun y => { y with wdCount := 0 })
  else s

/-! ## Slice exit (R142, R320) -/

/-- The slice whose wait is the lowest-numbered of its team. -/
def State.firstWaiting (s : State) (t : Nat) : Option Nat :=
  (((s.teamSlices t).filter (fun e => !e.2.done && decide (s.sliceObjs t e.2 ≠ []))).head?).map Prod.fst

/-- What follows when slice k has exited: its launch gang may re-form, and a walk starts when its team is blocked now. -/
def State.sliceExited (s : State) (k : Nat) : State :=
  let t := (s.sl k).team
  let s1 := s.tryRegang t ((s.sl k).idx / 8)
  match s1.firstWaiting t with
  | none => s1
  | some j => s1.startWalk t j (dieOfCore (coreOfTeam t)) none

/-- After a change that may have ended slices of a list. -/
def State.exits (s : State) (ms : List Nat) : State := (ms.filter (fun k => (s.sl k).done)).foldl State.sliceExited s

/-! ## Gang-wide control (R136) -/

/-- In trap mode the fairness count stays as it is (R224). -/
def Slice.keepCount (x y : Slice) : Slice := if x.trapMode then { y with fairCount := x.fairCount } else y

/-- A control instruction of the gang: each slice reads the s registers named and changes by `go`; then the gang parts. -/
def State.control (s : State) (srcs : List Nat) (go : Slice → Slice) : State :=
  let ms := s.members s.cur
  let s1 := ms.foldl (fun t k => t.withPoison k ((t.sl k).sPoisons srcs) (fun u => u.modSl k (fun x => x.keepCount (go x))))
    (s.issued ms)
  (s1.partFrom s ms).exits ms

/-- Target of a branch: the address of the branch and 4 × offset (R59). -/
def branchTo {w : Nat} (pc : Word) (off : BitVec w) : Word := wrap (pc.toNat + 4 * sext off) 32

/-- BR (R137). Unconditional branch for the whole gang. -/
def execBr (off : BitVec 22) (s : State) : Host.Outcome State Fault Refusal :=
  .next (s.control [] (fun x => { x with pc := branchTo x.pc off }))

/-- BRZ (R141). Branches each slice whose scalar register is zero. -/
def execBrz (d : BitVec 6) (off : BitVec 18) (s : State) : Host.Outcome State Fault Refusal :=
  .next (s.control [d.toNat] (fun x =>
    { x with pc := if x.sVal d.toNat = 0 then branchTo x.pc off else x.pc + 4 }))

/-- BRNZ (R141). Branches each slice whose scalar register is non-zero. -/
def execBrnz (d : BitVec 6) (off : BitVec 18) (s : State) : Host.Outcome State Fault Refusal :=
  .next (s.control [d.toNat] (fun x =>
    { x with pc := if x.sVal d.toNat = 0 then x.pc + 4 else branchTo x.pc off }))

/-- CALL (R141). Writes the link address and branches. -/
def execCall (d : BitVec 6) (off : BitVec 18) (s : State) : Host.Outcome State Fault Refusal :=
  .next (s.control [] (fun x => { x.sPut d.toNat (x.pc + 4) with pc := branchTo x.pc off }))

/-- An indirect jump to s[a], bits [1:0] read as zero. -/
def Slice.jumpTo (x : Slice) (a : Nat) : Slice := { x with pc := x.sVal a &&& ~~~3#32 }

/-- RET (R141). Returns to the address in a scalar register. -/
def execRet (a : BitVec 6) (s : State) : Host.Outcome State Fault Refusal :=
  .next (s.control [a.toNat] (fun x => x.jumpTo a.toNat))

/-- JMPI (R141). Indirect jump to the address in a scalar register. -/
def execJmpi (a : BitVec 6) (s : State) : Host.Outcome State Fault Refusal :=
  .next (s.control [a.toNat] (fun x => x.jumpTo a.toNat))

/-- BRP (R359). Branches when a pre-emption request is pending. -/
def execBrp (_hint : BitVec 2) (off : BitVec 22) (s : State) : Host.Outcome State Fault Refusal :=
  let p := (s.tm (s.sl s.cur).team).part
  .next (s.control [] (fun x => { x with pc := if s.preq p then branchTo x.pc off else x.pc + 4 }))

/-! ## Tokens and divergence -/

/-- A gang acts slice by slice where a slice may trap: `go` answers the changed slice, or none for TOKEN_OVF. -/
def State.pushing (s : State) (ms : List Nat) (go : Slice → Option Slice) : State :=
  ms.foldl (fun t k =>
    match go (t.sl k) with
    | some y => t.modSl k (fun x => x.keepCount y)
    | none => t.trapAt k causeTokenOvf 0 0xF 8 0) s

/-- PTOKEN (R138). Pushes a reconvergence token, trapping at depth 8. -/
def execPtoken (off : BitVec 22) (s : State) : Host.Outcome State Fault Refusal :=
  let ms := s.members s.cur
  .next (((s.issued ms).pushing ms (fun x =>
    if 8 ≤ x.stack.length then none
    else some { x with stack := x.stack ++ [tokenEntry (branchTo x.pc off) 0], pc := x.pc + 4 })).partFrom s ms)

/-- MERGE (R139). Adds the current lanes to the matching token's arrivals and resumes other lanes. -/
def execMerge (s : State) : Host.Outcome State Fault Refusal :=
  .next (s.control [] (fun x =>
    match arrive x.pc x.active x.stack.reverse with
    | none => { x with pc := x.pc + 4 }
    | some top => ({ x with stack := top.reverse } : Slice).nextPath))

/-- Lanes of a slice that take a BRC: the condition over its own mask, or over the whole gang (R140). -/
def brcTakes (cond : BitVec 2) (all : Bool) (active ka : BitVec 4) : BitVec 4 :=
  match cond.toNat with
  | 0 => active &&& ka
  | 1 => if all then active else 0
  | 2 => active &&& ~~~ka
  | _ => if all then 0 else active

/-- What one slice does at a BRC whose first side is decided; none for TOKEN_OVF. -/
def Slice.brcSide (x : Slice) (f o : BitVec 4) (firstPc otherPc : Word) : Option Slice :=
  if f = 0 then some { x with pc := otherPc }
  else if o = 0 then some { x with active := f, pc := firstPc }
  else match arrive otherPc o x.stack.reverse with
    | some top => some { x with stack := top.reverse, active := f, pc := firstPc, fairCount := 0 }
    | none =>
      if 8 ≤ x.stack.length then none
      else some { x with stack := x.stack ++ [parkedEntry otherPc o], active := f, pc := firstPc, fairCount := 0 }

/-- BRC (R140). Lane-wise or gang-wise conditional branch that may diverge lanes and park a side. -/
def execBrc (hint : BitVec 2) (k : BitVec 3) (cond : BitVec 2) (off : BitVec 17) (s : State) :
    Host.Outcome State Fault Refusal :=
  let ms := s.members s.cur
  let at_ := (s.sl s.cur).pc
  let all := ms.all (fun j => decide ((s.sl j).active &&& ~~~((s.sl j).kGet k.toNat) = 0))
  let tk (x : Slice) := brcTakes cond all x.active (x.kGet k.toNat)
  let nTk := (ms.map (fun j => popMask (tk (s.sl j)))).foldl (· + ·) 0
  let nNt := (ms.map (fun j => popMask ((s.sl j).active &&& ~~~(tk (s.sl j))))).foldl (· + ·) 0
  let miss := decide (nTk ≠ 0 ∧ nNt ≠ 0 ∧ hint = 3)
  let taken := decide (nNt = 0) || (decide (nTk ≠ 0) &&
    (decide (hint = 1) || (decide (hint ≠ 2) && decide (nNt ≤ nTk))))
  let target := branchTo at_ off
  let next := at_ + 4
  let s1 := s.issued ms
  let s2 := if miss then s1.modSls ms (fun x => x.stick stUniformMiss) else s1
  let side (x : Slice) : Option Slice :=
    if taken then x.brcSide (tk x) (x.active &&& ~~~(tk x)) target next
    else x.brcSide (x.active &&& ~~~(tk x)) (tk x) next target
  let s3 := s2.pushing ms side
  let s4 := if miss then (ms.filter (fun j => (side (s.sl j)).isSome)).foldl (fun t j =>
      t.boundaryCond j teUniformMiss ⟨causeUniformMiss, 0, 0xF, at_, 0, 0⟩) s3 else s3
  .next (s4.partFrom s ms)

/-- YIELD (R144). Switches to the switch target at once when there is one. -/
def execYield (s : State) : Host.Outcome State Fault Refusal :=
  .next (s.control [] (fun x => { x.switchPath (x.pc + 4) with fairCount := 0 }))

/-- The lanes of the active mask end (R142). In trap mode every lane ends, and the frame and permit are given up (R224). -/
def Slice.exitLanes (x : Slice) : Slice :=
  if x.trapMode then { x with exited := 0xF, active := 0, stack := [], frame := none, done := true }
  else
    let ex := x.exited ||| x.active
    ({ x with exited := ex, stack := x.stack.map (fun e => { e with mask := e.live ex }) } : Slice).nextPath

/-- EXIT (R142). Ends the active lanes and resumes other paths or exits the slice. -/
def execExit (s : State) : Host.Outcome State Fault Refusal := .next (s.control [] Slice.exitLanes)

/-- REGANG (R147). Waits until the launch gang can be re-formed; in trap mode it only advances the PC. -/
def execRegang (s : State) : Host.Outcome State Fault Refusal :=
  let ms := s.members s.cur
  let t := (s.sl s.cur).team
  let s1 := (s.issued ms).modSls ms (fun x =>
    if x.trapMode then { x with pc := x.pc + 4 } else { x with pc := x.pc + 4, wait := some .regang })
  .next (ms.foldl (fun u k =>
    if (u.sl k).wait ≠ some .regang then u
    else
      let g := (u.sl k).idx / 8
      let v := u.modTm t (fun y =>
        if y.header.regang = 0 ∨ (afind y.rgDue g).isSome then y
        else { y with rgDue := aput y.rgDue g (u.cycle + y.header.regang.toNat) })
      v.tryRegang t g) s1)

/-- REGANG_TIMER_EXPIRY (R147). The regang timer expires and the waiting slices form a gang. -/
def execRegangTimerExpiry (team gang : Nat) (s : State) : Host.Outcome State Fault Refusal :=
  .next (match afind (s.tm team).rgDue gang with
    | none => s
    | some due =>
      if due ≤ s.cycle ∧ s.teamRuns team ∧
        (s.launchGang team gang).any (fun k => decide ((s.sl k).wait = some .regang)) then s.endRegang team gang
      else s)

/-! ## Compaction and fairness (R143, R146) -/

/-- FAIRNESS_SWITCH (R143). The fairness count reaches F and the slice switches to its switch target. -/
def execFairnessSwitch (slice : Nat) (s : State) : Host.Outcome State Fault Refusal :=
  let ms := s.members slice
  if (s.slice? slice).isNone ∨ (s.sl slice).done ∨ !s.fairDue slice ∨ (s.sl slice).wait ≠ none ∨
      ms.any (fun j => (s.sl j).midway) ∨ !s.teamRuns (s.sl slice).team then .next s
  else .next ((s.modSl slice (fun x => { x.switchPath x.pc with fairCount := 0, granule := none })).part ms)

/-! ## Traps -/

/-- TRAP (R225). Raises a SOFTWARE trap carrying an immediate. -/
def execTrap (imm : BitVec 18) (s : State) : Host.Outcome State Fault Refusal :=
  .next (s.perSlice (fun t k => t.trap k ⟨causeSoftware, 0, 0xF, imm.setWidth 32, 0, (t.sl k).pc + 4⟩ false []))

/-- TRET (R226). Returns from trap mode, re-injecting replay entries and restoring state from the frame. -/
def execTret (s : State) : Host.Outcome State Fault Refusal :=
  .next (s.perSlice (fun t k =>
    match (t.sl k).frame with
    | none => t.trapAt k causeSoftware 1 0xF 0 0
    | some f => (t.returnTrap k f).tryRegang (t.sl k).team ((t.sl k).idx / 8)))

/-- The PC that a boundary trap's frame names: the next instruction, or the wait instruction the slice stands on. -/
def TrapInfo.atPc (i : TrapInfo) (pc : Word) : TrapInfo := { i with pc := pc }

/-- A boundary condition is taken as a trap; the rest of the gang goes on. -/
def State.takeBoundary (s : State) (k : Nat) (i : TrapInfo) : State :=
  let rest := (s.members k).filter (fun j => decide (j ≠ k))
  (s.trap k (i.atPc (s.sl k).pc) true []).settleGang rest

/-- Has the slice a condition to take at the boundary where it stands (R33)? -/
def Slice.atBoundary (x : Slice) : Bool :=
  decide (x.boundary ≠ []) && !x.done && !x.trapMode && (match x.wait with
    | some (.backoff _ _ _) | some .yieldp | some .stopped => false
    | _ => true)

/-- The oldest condition of slice k is taken. -/
def State.takeOldest (s : State) (k : Nat) : State :=
  match (s.sl k).boundary with
  | [] => s
  | i :: r => (s.modSl k (fun y => { y with boundary := r })).takeBoundary k i

/-- BOUNDARY_TRAP (R33). A condition recorded after issue is taken as a trap at the next instruction boundary. The slices of a gang that
have one take theirs together, and each frame shows the gang as it stood (R145, R220). -/
def execBoundaryTrap (slice : Nat) (s : State) : Host.Outcome State Fault Refusal :=
  if !(s.sl slice).atBoundary ∨ !s.teamRuns (s.sl slice).team then .next s
  else
    let ms := (s.members slice).filter (fun j => (s.sl j).atBoundary)
    .next ((ms.foldl State.takeOldest s).reframe s ms)

/-- TRAP_BACKOFF_EXPIRY (R219). A back-off without a free permit expires and the trap is attempted again. -/
def execTrapBackoffExpiry (slice : Nat) (s : State) : Host.Outcome State Fault Refusal :=
  match (s.sl slice).wait with
  | some (.backoff till held rg) =>
    if s.cycle < till ∨ !s.teamRuns (s.sl slice).team then .next s
    else
      let s0 := s.modSl slice (fun x => { x with wait := none })
      let s1 := match rg with
        | none => s0
        | some left => s0.resumeRegang slice left
      match held with
      | none => .next s1
      | some i => .next (s1.takeBoundary slice i)
  | _ => .next s

/-! ## YIELDP (R360) -/

/-- The live part of a yielding slice. -/
def Slice.yieldLive (x : Slice) (w : Word) : Slice :=
  { x with
    v := x.v.filter (fun e => decide (e.1 < 4 * bits w 0 9))
    bad := x.bad.filter (fun e => e.1 || decide (e.2.1 < bits w 0 9))
    slive := some (BitVec.ofNat 32 (bits w 9 13)), wait := some .yieldp, pc := x.pc + 4 }

/-- YIELDP (R360). Yields the slice under a pending pre-emption, recording its live registers and scratchpad. -/
def execYieldp (a : BitVec 6) (s : State) : Host.Outcome State Fault Refusal :=
  .next (s.perSlice (fun t k => t.withPoison k ((t.sl k).sPoisons [a.toNat]) (fun u =>
    if u.preq (u.tm (u.sl k).team).part then
      (u.leave k).modSl k (fun x => x.yieldLive (x.sVal a.toNat))
    else u.finishSlice k ((u.sl k).pc + 4))))

end Sys2Proof.Machine
end

