-- ==== Sys2Proof/Machine/CrossLane.lean ====
section
/-! DEFINITION. The cross-lane instructions (spec R148 to R155). -/

namespace Sys2Proof.Machine

open Sys2Proof

/-- A participant: its virtual lane, its slice and its lane. -/
structure Part1 where
  vl : Nat
  k : Nat
  l : Nat
  deriving DecidableEq, Repr

/-- The participants of an instruction in increasing virtual lane (R149). -/
def State.participants (s : State) (i : Instr) (ms : List Nat) : List Part1 :=
  ms.flatMap (fun k => (lanes.filter (fun l => ((s.sl k).lanesOn (predOf i).1 (predOf i).2).getLsbD l)).map
    (fun l => ⟨4 * posIn k ms + l, k, l⟩))

/-- The lane at a virtual number, unless it is absent (R149). -/
def State.laneAt (s : State) (ms : List Nat) (v : Int) : Option (Nat × Nat) :=
  if v < 0 ∨ 4 * ms.length ≤ v then none
  else
    let k := ms.getD (v.toNat / 4) 0
    if (s.sl k).exited.getLsbD (v.toNat % 4) then none else some (k, v.toNat % 4)

/-- What an instruction gives one participant: the lanes in which it reads operand A, whether it read an absent lane, its
value or mask bit, and its LFSR after. -/
structure CrossOut where
  reads : List (Nat × Nat)
  absent : Bool
  val : DWord
  bit : Bool
  lfsr : Word
  deriving DecidableEq, Repr

/-- Operand A of an instruction in a lane of a slice. -/
def State.operandA (s : State) (i : Instr) (cs : Assoc Word) (e : Nat × Nat) : DWord := srcAt i (s.sl e.1) cs e.2 0

/-- How operand A reads in a lane, register by register: dead, and in error. -/
def State.aRead (s : State) (o : Src) (n : Nat) (e : Nat × Nat) : Rd :=
  match o.kind with
  | .v => (s.sl e.1).vRd (o.idx + n) e.2
  | .s => (s.sl e.1).sRd (o.idx + n)
  | _ => ⟨0, false, false⟩

/-- The poison that operand A shows to the participants of one slice (R149). -/
def State.crossPoison (s : State) (i : Instr) (outs : List (Part1 × CrossOut)) (k : Nat) : List Poison :=
  match (sources i).find? (fun o => decide (o.pos = 0)) with
  | none => []
  | some o => (List.range o.regs).filterMap (fun n =>
      let hits := outs.filter (fun e => decide (e.1.k = k) && e.2.reads.any (fun r => (s.aRead o n r).dead))
      let m := maskOf (fun l => hits.any (fun e => decide (e.1.l = l)))
      if m = 0 then none
      else some ⟨decide (o.kind = .s), o.idx + n, if o.kind = .s then 0xF else m,
        hits.any (fun e => e.2.reads.any (fun r => (s.aRead o n r).err))⟩)

/-- Errors that the reads of operand A found: the registers are dead from then on (R29). -/
def State.settleReads (s : State) (i : Instr) (outs : List (Part1 × CrossOut)) : State :=
  match (sources i).find? (fun o => decide (o.pos = 0)) with
  | none => s
  | some o =>
    (outs.flatMap (fun e => e.2.reads)).foldl (fun t r =>
      (List.range o.regs).foldl (fun u n =>
        if (u.aRead o n r).err then
          u.modSl r.1 (fun x => if o.kind = .s then x.sKill (o.idx + n) else x.vKill (o.idx + n) r.2)
        else u) t) s

/-- One slice completes a cross-lane instruction, or traps POISON. `report` is the report mask (R149).
STATUS.ABSENT stands at once, so that an SGET that follows always reads it, where R34 leaves open whether it does (DESIGN CHOICE, log entry
66). -/
def State.crossSlice (i : Instr) (report : Nat) (outs : List (Part1 × CrossOut)) (s0 s : State) (k : Nat) : State :=
  let x := s0.sl k
  let m := x.lanesOn (predOf i).1 (predOf i).2
  let others := ((sources i).filter (fun o => decide (o.pos ≠ 0))).flatMap (fun o => (List.range o.regs).filterMap (fun n =>
      match o.kind with
      | .v => x.vPoison (o.idx + n) m
      | .s => if m = 0 then none else x.sPoison (o.idx + n)
      | _ => none))
  let ps := s0.crossPoison i outs k ++ others
  let mine := outs.filter (fun e => decide (e.1.k = k))
  let note (y : Slice) : Slice := match ps with
    | [] => y
    | p :: _ => others.foldl Slice.settle (y.notePoison p.lanes p.err (if p.scalar then 1 else 0) (BitVec.ofNat 8 p.reg))
  let s1 := s.modSl k note
  if ps ≠ [] ∧ x.trapOn tePoison then
    (s1.trapAt k causePoison 0 ((ps.map Poison.lanes).headD 0) (s1.sl k).poison 0).poisonEvent k (ps.any Poison.err)
  else
    let s2 := s1.modSl k (fun y =>
      let z := mine.foldl (fun w e =>
        let w1 := putLane (destOf i) e.1.l ⟨e.2.val, e.2.bit, e.2.lfsr⟩ w
        if report = 0 then w1 else w1.kPutBit report e.1.l e.2.absent) (killAll i y m)
      { (if mine.any (fun e => e.2.absent) then z.stick stAbsent else z) with pc := z.pc + 12 })
    s2.errEvent k ps

/-- Pipe cycles of a cross-lane instruction (R155). -/
def crossCycles (i : Instr) : Nat :=
  match i with
  | .reduce _ | .scan _ => 2
  | .shfl _ | .shflx _ | .bcast _ | .bcastFirst _ => if wide64 i then 2 else 1
  | _ => 1

/-- A cross-lane instruction: what each participant receives is computed from the state before it (R149). -/
def State.cross (s : State) (i : Instr) (report : Nat)
    (f : State → Assoc Word → List Nat → List Part1 → Part1 → CrossOut) : State :=
  let ms := s.members s.cur
  ((s.issuedFor ms (crossCycles i)).charge i ms).withConsts 0 i ms (fun cs t =>
    let ps := t.participants i ms
    let outs := ps.map (fun p => (p, f t cs ms ps p))
    let t1 := t.settleReads i outs
    (ms.foldl (fun u k => State.crossSlice i report outs t u k) t1).partFrom s ms)

/-- A value that reads no other lane. -/
def State.own (s : State) (p : Part1) (val : Nat) : CrossOut :=
  ⟨[], false, BitVec.ofNat 64 val, false, (s.sl p.k).lfsr.get p.l⟩

/-- A value moved from a source lane, zero when it is absent. -/
def State.moved (s : State) (i : Instr) (cs : Assoc Word) (p : Part1) (src : Option (Nat × Nat)) : CrossOut :=
  match src with
  | none => ⟨[], true, 0, false, (s.sl p.k).lfsr.get p.l⟩
  | some e => ⟨[e], false, s.operandA i cs e, false, (s.sl p.k).lfsr.get p.l⟩

/-- A word with a bit for each virtual lane of a list. -/
def laneBits (vs : List Nat) : Nat := (vs.map (fun v => 2 ^ v)).foldl (· + ·) 0

/-- LANEID (R150). Writes the virtual lane, gang lane count or participant mask. -/
def execLaneid (f : Long) (s : State) : Host.Outcome State Fault Refusal :=
  .next (s.cross (.laneid f) 0 (fun t _ ms ps p => t.own p (match f.xw.toNat with
    | 0 => p.vl
    | 1 => 4 * ms.length
    | _ => laneBits (ps.map Part1.vl))))

/-- PLANE (R150). Writes the lane's fixed number within the team. -/
def execPlane (f : Long) (s : State) : Host.Outcome State Fault Refusal :=
  .next (s.cross (.plane f) 0 (fun t _ _ _ p => t.own p (4 * (t.sl p.k).idx + p.l)))

/-- The virtual lane that a route word names (R151). -/
def routeLane (xw : Nat) (n : Nat) (u : Nat) (w : Word) : Int :=
  let c : Int := ((Nat.xor (if w.getLsbD 11 then 0 else u) (bits w 6 5) : Nat) : Int) + sext (w.extractLsb' 0 6)
  match xw with
  | 0 => c
  | 1 => c % (4 * n)
  | _ => min (max c 0) (4 * n - 1)

/-- SHFL (R151). Moves an operand from a routed source lane. -/
def execShfl (f : Long) (s : State) : Host.Outcome State Fault Refusal :=
  .next (s.cross (.shfl f) (bits f.ext8 0 3) (fun t cs ms _ p =>
    t.moved (.shfl f) cs p (t.laneAt ms (routeLane f.xw.toNat ms.length p.vl
      (loWord (srcAt (.shfl f) (t.sl p.k) cs p.l 1))))))

/-- The participants whose bit of a mask register is 1. -/
def State.voters (s : State) (j : Nat) (ps : List Part1) : List Part1 :=
  ps.filter (fun p => ((s.sl p.k).kGet j).getLsbD p.l)

/-- SHFLX (R151). Compacts the lanes selected by a mask. -/
def execShflx (f : Long) (s : State) : Host.Outcome State Fault Refusal :=
  .next (s.cross (.shflx f) (bits f.ext8 0 3) (fun t cs _ ps p =>
    let r := (ps.filter (fun q => decide (q.vl < p.vl))).length
    t.moved (.shflx f) cs p (((t.voters (bits f.ext8 3 3) ps)[r]?).map (fun q => (q.k, q.l)))))

/-- BCAST (R152). Broadcasts an operand from a named virtual lane. -/
def execBcast (f : Long) (s : State) : Host.Outcome State Fault Refusal :=
  .next (s.cross (.bcast f) 0 (fun t cs ms _ p => t.moved (.bcast f) cs p (t.laneAt ms (bits f.ext8 0 5))))

/-- BCAST_FIRST (R152). Broadcasts an operand from the lowest participant. -/
def execBcastFirst (f : Long) (s : State) : Host.Outcome State Fault Refusal :=
  .next (s.cross (.bcastFirst f) 0 (fun t cs _ ps p => t.moved (.bcastFirst f) cs p (ps.head?.map (fun q => (q.k, q.l)))))

/-- The conditions of VOTE.test on the size of V and the number of participants (R153). -/
def voteHolds (c : Nat) (v n : Nat) : Bool :=
  match c with
  | 0 => decide (v ≠ 0)
  | 1 => decide (v = n)
  | 2 => decide (v = 0 ∨ v = n)
  | 3 => decide (v = 0)
  | _ => decide (v ≠ 0 ∧ v ≠ n)

/-- VOTE (R153). Ballot, count, rank or test over a mask across the gang. -/
def execVote (f : Long) (s : State) : Host.Outcome State Fault Refusal :=
  .next (s.cross (.vote f) 0 (fun t _ _ ps p =>
    let v := t.voters (bits f.ext8 0 3) ps
    match f.xw.toNat with
    | 0 => t.own p (laneBits (v.map Part1.vl))
    | 1 => t.own p v.length
    | 2 => t.own p (v.filter (fun q => decide (q.vl < p.vl))).length
    | _ => { t.own p 0 with bit := voteHolds (bits f.ext8 3 3) v.length ps.length }))

/-- A reduction of words (R154): F32 sums round once and step the LFSR, an empty list gives the identity. -/
def reduceWords (f : Long) (mode : Nat) (fpm : BitVec 10) (lfsr : Word) (xs : List Nat) : Nat × Word :=
  let fl := decide (f.ty = .f32)
  let sg := decide (f.ty = .i32)
  let pick (greater : Bool) (a b : Nat) : Nat :=
    if fl then minMax .f32 fpm greater a b
    else
      let ia := elemInt f.ty (BitVec.ofNat 64 a) 0
      let ib := elemInt f.ty (BitVec.ofNat 64 b) 0
      if greater then (if ia ≤ ib then b else a) else (if ia ≤ ib then a else b)
  match bits f.ext8 0 3 with
  | 0 =>
    if fl then
      if xs = [] then (0x80000000, lfsr)
      else fround .f32 mode fpm (xsum (decide (mode = 3)) (xs.map (fread .f32 fpm))) lfsr
    else (finishInt f.sat sg 32 ((xs.map (fun x => elemInt f.ty (BitVec.ofNat 64 x) 0)).foldl (· + ·) 0), lfsr)
  | 1 => (match xs with
    | [] => if fl then 0x7F800000 else if sg then 0x7FFFFFFF else 0xFFFFFFFF
    | x :: r => r.foldl (pick false) (pick false x x), lfsr)
  | 2 => (match xs with
    | [] => if fl then 0xFF800000 else if sg then 0x80000000 else 0
    | x :: r => r.foldl (pick true) (pick true x x), lfsr)
  | 3 => (xs.foldl Nat.land 0xFFFFFFFF, lfsr)
  | 4 => (xs.foldl Nat.lor 0, lfsr)
  | _ => (xs.foldl Nat.xor 0, lfsr)

/-- What a participant receives from a reduction over a list of participants, under the FPMODE of its own slice (DEDUCED, log
entry 53). -/
def State.reduced (s : State) (i : Instr) (f : Long) (cs : Assoc Word) (p : Part1) (qs : List Part1) : CrossOut :=
  let x := s.sl p.k
  let es := qs.map (fun q => (q.k, q.l))
  let r := reduceWords f (modeOf i x.fpmode) (x.fpmode.extractLsb' 0 10) (x.lfsr.get p.l)
    (es.map (fun e => (s.operandA i cs e).toNat % 2 ^ 32))
  ⟨es, false, BitVec.ofNat 64 r.1, false, r.2⟩

/-- REDUCE (R154). Reduction over all participants. -/
def execReduce (f : Long) (s : State) : Host.Outcome State Fault Refusal :=
  .next (s.cross (.reduce f) 0 (fun t cs _ ps p => t.reduced (.reduce f) f cs p ps))

/-- SCAN (R154). Inclusive or exclusive prefix reduction. -/
def execScan (f : Long) (s : State) : Host.Outcome State Fault Refusal :=
  .next (s.cross (.scan f) 0 (fun t cs _ ps p =>
    t.reduced (.scan f) f cs p (ps.filter (fun q => decide (q.vl < p.vl ∨ (f.xw = 0 ∧ q.vl = p.vl))))))

end Sys2Proof.Machine
end

