-- ==== Sys2Proof/Machine/LocalMem.lean ====
section
/-! DEFINITION. Memory-instruction fields and the local loads, stores and atomics (spec R158 to R165, R172, R177, R179, R223,
R292). -/

namespace Sys2Proof.Machine

open Sys2Proof

/-! ## Fields and operands (R159, R162) -/

/-- Access width of a SIZE code. -/
def sizeBytes (z : BitVec 3) : Nat :=
  match z.toNat with
  | 0 | 1 => 1
  | 2 | 3 => 2
  | 4 => 4
  | 5 => 8
  | _ => 16

/-- The words of a source position in a lane. -/
def srcWords (i : Instr) (x : Slice) (cs : Assoc Word) (l p : Nat) : List Word :=
  match (sources i).find? (fun o => decide (o.pos = p)) with
  | none => []
  | some o => if o.kind = .imm then wordsOf o.regs (immVal i o.regs)
      else (List.range o.regs).map (fun n => match o.kind with
        | .v => (x.vRd (o.idx + n) l).val
        | .s => (x.sRd (o.idx + n)).val
        | _ => aget 0 cs (o.idx + n))

/-- The number that words hold, low word first (R5). -/
def wordsNat : List Word → Nat
  | [] => 0
  | w :: r => w.toNat + 2 ^ 32 * wordsNat r

/-- n words of a number, low word first. -/
def natWords (n x : Nat) : List Word := (List.range n).map (fun i => BitVec.ofNat 32 (x / 2 ^ (32 * i)))

/-- The displacement in bytes (R159). -/
def dispOf (f : Long) (w : Nat) : Int := if f.hasImm then 0 else sext f.ext8b * w

/-- A lane's local address. -/
def localAddr (i : Instr) (f : Long) (x : Slice) (cs : Assoc Word) (w l : Nat) : Word :=
  wrap ((loWord (srcAt i x cs l 0)).toNat + dispOf f w) 32

/-- A lane's far address. -/
def farAddr (i : Instr) (f : Long) (x : Slice) (cs : Assoc Word) (w l : Nat) : DWord :=
  wrap ((srcAt i x cs l 0).toNat + dispOf f w) 64

/-- The words that a load of a SIZE code writes for the value read (R160). -/
def loadWords (z : BitVec 3) (x : Nat) : List Word :=
  match z.toNat with
  | 1 => [(BitVec.ofNat 8 x).signExtend 32]
  | 3 => [(BitVec.ofNat 16 x).signExtend 32]
  | 5 => natWords 2 x
  | 6 => natWords 4 x
  | _ => natWords 1 x

/-- The new memory value of an atomic (R162); c is the compare value of .cas. -/
def atomNew (op : Nat) (ty : Ty) (m b c : Nat) : Nat :=
  let w := elemWidth ty
  let mi := elemInt ty (BitVec.ofNat 64 m) 0
  let bi := elemInt ty (BitVec.ofNat 64 b) 0
  match op with
  | 0 => if ty = .f32 then roundMx (xsum false [fval .f32 m, fval .f32 b]) else (m + b) % 2 ^ w
  | 1 => if mi ≤ bi then m else b
  | 2 => if mi ≤ bi then b else m
  | 3 => Nat.land m b
  | 4 => Nat.lor m b
  | 5 => Nat.xor m b
  | 6 => b
  | 7 => if m = c then b else m
  | _ => if b ≤ m then 0 else m + 1

/-! ## Deliveries (R342, R387) -/

/-- The core whose scratchpad holds the byte of a key. -/
def scratchCore (key : Nat) : Option Nat := if 2 ^ 40 ≤ key ∧ key < 2 ^ 41 then some ((key - 2 ^ 40) / 2 ^ 19) else none

/-- Bytes delivered at a key by an engine. A core that holds no team begins its idle time anew with a delivery; one that is
power-gated keeps nothing of it. -/
def State.deliver (s : State) (key : Nat) (bs : List Byte) : State :=
  match scratchCore key with
  | none => s.putMem key bs
  | some c =>
    if (s.co c).gated then s
    else if s.teams.any (fun e => decide (coreOfTeam e.1 = c)) then s.putMem key bs
    else (s.putMem key bs).modCo c (fun x => { x with idleSince := s.nsWord })

/-! ## Checks (R164, R172) -/

/-- Bytes that a far request of a kind touches in each lane. -/
def FarKind.width : FarKind → Nat
  | .load z _ => sizeBytes z
  | .store z => sizeBytes z
  | .atomic _ ty _ => if ty.regs = 2 then 8 else 4

/-- Has the slice an earlier far request, not yet performed, to one of n bytes of its own core's scratchpad (R172)? -/
def State.farPending (s : State) (k key n : Nat) : Bool :=
  s.fars.any (fun f => decide (f.slice = k) && f.ops.any (fun o => !o.done &&
    (match s.resolve (s.teamAsker (s.sl k).team) o.addr false false false with
      | .key q => decide (q < key + n ∧ key < q + f.kind.width)
      | _ => false)))

/-- The lanes, with their addresses, in which slice k makes local accesses. -/
def State.localLanes (s : State) (i : Instr) (f : Long) (cs : Assoc Word) (w k : Nat) : List (Nat × Word) :=
  let x := s.sl k
  (lanes.filter (fun l => (x.lanesOn f.pk f.pn).getLsbD l)).map (fun l => (l, localAddr i f x cs w l))

/-- The lanes of a list for which a test fails, as a mask, with the lowest failing lane's address. -/
def failing (as : List (Nat × Word)) (bad : Word → Bool) : Option (BitVec 4 × Word) :=
  match as.filter (fun e => bad e.2) with
  | [] => none
  | e :: r => some (maskOf (fun l => (e :: r).any (fun x => decide (x.1 = l))), e.2)

/-- The checks of R164 for accesses of w bytes: alignment, then bounds; a slice that passes goes on. -/
def State.withLocal (s : State) (k w : Nat) (as : List (Nat × Word)) (go : State → State) : State :=
  let tm := s.tm (s.sl k).team
  match failing as (fun a => decide (a.toNat % w ≠ 0)) with
  | some (m, a) => s.trapAt k causeMisalign 0 m a 0
  | none => match failing as (fun a => decide (a.toNat < tm.spbase ∨ tm.splimit < a.toNat + w)) with
    | some (m, a) => s.trapAt k causeLocalBounds 0 m a 0
    | none => go s

/-- Poisoned words that a lane load finds (R292): the event of the first read, the record naming the destination register,
and POISON when it is enabled. -/
def State.withMemPoison (s : State) (k w vd : Nat) (as : List (Nat × Word)) (go : State → State) : State :=
  let core := coreOfSlice k
  let hit := as.filter (fun e => (List.range w).any (fun n => s.isPoisoned (coreKey core (e.2.toNat + n))))
  if hit = [] then go s
  else
    let m := maskOf (fun l => hit.any (fun e => decide (e.1 = l)))
    let s1 := hit.foldl (fun t e => t.noteFound (s.sl k).team 0 (localKey core e.2.toNat) (coreKey core e.2.toNat) w) s
    let s2 := s1.modSl k (fun x => x.notePoison m true 0 (BitVec.ofNat 8 vd))
    if (s.sl k).trapOn tePoison then (s2.trapAt k causePoison 0 m (s2.sl k).poison 0).poisonEvent k true else go s2

/-! ## Local instructions of the gang -/

def isLocalAtom : Instr → Bool
  | .atom _ | .atomCas _ => true
  | _ => false

/-- Issue cycles of a local access (R158): the greatest number of lines that the lanes touch in one of the 48 banks, of lanes for an
atomic; at least one. -/
def bankCycles (atomic : Bool) (as : List Word) : Nat :=
  let ls := as.map (fun a => a.toNat / 64)
  let us := if atomic then ls else ls.dedup
  max 1 ((us.map (fun n => (us.filter (fun m => decide (m % 48 = n % 48))).length)).foldl max 0)

/-- Has an engine work that may take ports of the core's scratchpad: an entry of the core that updates its accumulator, a tile move of
the core, or landings that may come to it (R158)? -/
def State.portsTaken (s : State) (core : Nat) : Bool :=
  s.entries.any (fun e => e.started && decide (coreOfTeam e.team = core)) || s.moves.any (fun m => decide (coreOfTeam m.team = core)) ||
    s.copies.any (fun c => decide (c.state = .running)) || s.recvs.any (fun r => !r.posted && decide (coreOfTeam r.team = core)) ||
    s.fars.any (fun f => f.formed && decide (coreOfSlice f.slice ≠ core)) || decide (s.inbox ≠ [])

/-- Issue cycles that an access of the core's scratchpad loses to accumulator updates and engine landings (R158): a free value while
there are any. -/
def State.portCycles (s : State) (core : Nat) : Nat := if s.portsTaken core then Config.portCycles s.freeNo core else 0

/-- ORD ‖ SCOPE, as FENCE_CLAMP reports it (R227). -/
def ordInfo (ord : BitVec 2) (scope : BitVec 3) : Word := (ord ++ scope).setWidth 32

/-- A slice that only waits for its release has its scope clamped already (R179). -/
def State.markClamp (s : State) (k : Nat) (scope : BitVec 3) : State :=
  if s.clamps k scope then s.modSl k (fun x => x.stick stFenceClamped) else s

/-- While slices of the gang wait for a release, the clamp of each of the slices `ks` is done: one whose clamp traps takes its trap, the
others have their scope clamped (R179). -/
def State.clampFirst (s : State) (i : Instr) (f : Long) (scope : BitVec 3) (ks : List Nat) : State :=
  let traps := ks.filter (fun k => s.clampTraps k scope)
  let s1 := traps.foldl (fun u k => u.withPoison k (srcPoison i (u.sl k) ((u.sl k).lanesOn f.pk f.pn)) (fun u1 =>
    u1.withClamp k scope (ordInfo f.xw scope) id)) (s.issuedFor traps 1)
  let s2 := (ks.filter (fun k => !traps.contains k)).foldl (fun u k => u.markClamp k scope) s1
  if traps = [] then s2 else s2.partFrom s (s.members s.cur)

/-- Does a local instruction of the gang wait for the release of one of its slices (R177), or for an earlier far request of one to the
bytes of its access (R172)? A slice whose clamp traps waits for nothing. -/
def State.localWaits (s : State) (f : Long) (scope : BitVec 3) (w : Nat) (acts : List (Nat × List (Nat × Word))) : Bool :=
  acts.any (fun e => decide (e.2 ≠ []) && !s.clampTraps e.1 scope && ((f.xw.getLsbD 1 && s.relWaits e.1) ||
    e.2.any (fun a => s.farPending e.1 (coreKey (coreOfSlice e.1) a.2.toNat) w)))

/-- A local memory instruction of the gang: ORD and SCOPE act as R177 says, the checks are those of R164, and `act` does the
access of one slice and writes its registers. -/
def State.localGang (s : State) (i : Instr) (f : Long) (scope : BitVec 3) (w : Nat)
    (act : Assoc Word → State → Nat → List (Nat × Word) → State) : State :=
  let ms := s.members s.cur
  let rel := f.xw.getLsbD 1
  s.withConsts 1 i ms (fun cs t =>
    let acts := ms.map (fun k => (k, t.localLanes i f cs w k))
    if t.localWaits f scope w acts then
      t.clampFirst i f scope ((acts.filter (fun e => decide (e.2 ≠ []))).map Prod.fst)
    else
      (acts.foldl (fun u e =>
        let k := e.1
        if e.2 = [] then u.modSl k (fun x => { x with pc := x.pc + 12 })
        else u.withPoison k (srcPoison i (u.sl k) ((u.sl k).lanesOn f.pk f.pn)) (fun u1 =>
          u1.withClamp k scope (ordInfo f.xw scope) (fun u2 =>
            u2.withLocal k w e.2 (fun u3 =>
              let u4 := act cs (if rel then u3.release k else u3) k e.2
              if f.xw.getLsbD 0 ∧ (u4.sl k).frame = (u3.sl k).frame ∧ (u4.sl k).wait = none then u4.acquire k else u4))))
        ((t.issuedFor ms (bankCycles (isLocalAtom i) (acts.flatMap (fun e => e.2.map Prod.snd)) + t.portCycles (coreOfSlice s.cur))).charge i ms)).partFrom s ms)

/-- Words written to consecutive v registers of a lane. -/
def Slice.vPutWords (x : Slice) (r l : Nat) : List Word → Slice
  | [] => x
  | w :: ws => (x.vPut r l w).vPutWords (r + 1) l ws

/-- A slice's results written after its sources have died (R27), and its PC moved past the instruction. -/
def State.land (s : State) (i : Instr) (f : Long) (k : Nat) (rs : List (Nat × List Word)) : State :=
  s.modSl k (fun x =>
    let y := rs.foldl (fun z e => z.vPutWords f.vd.toNat e.1 e.2) (killAll i x (x.lanesOn f.pk f.pn))
    { y with pc := y.pc + 12 })

/-- LD (R160). Local scratchpad load. -/
def execLd (f : Long) (s : State) : Host.Outcome State Fault Refusal :=
  let w := sizeBytes f.size
  .next (s.localGang (.ld f) f f.ldScope w (fun _ t k as =>
    t.withMemPoison k w f.vd.toNat as (fun u =>
      u.land (.ld f) f k (as.map (fun e => (e.1, loadWords f.size (u.num (coreKey (coreOfSlice k) e.2.toNat) w)))))))

/-- ST (R161). Local scratchpad store. -/
def execSt (f : Long) (s : State) : Host.Outcome State Fault Refusal :=
  let w := sizeBytes f.size
  .next (s.localGang (.st f) f f.ldScope w (fun cs t k as =>
    let x := t.sl k
    (as.foldl (fun u e => u.putMem (coreKey (coreOfSlice k) e.2.toNat)
      (natLe w (wordsNat (srcWords (.st f) x cs e.1 1)))) t).land (.st f) f k []))

/-- The atomic of a slice, lane by lane in increasing virtual lane (R163): each lane's old value. -/
def State.atomLanes (s : State) (i : Instr) (f : Long) (cs : Assoc Word) (x : Slice) (k w : Nat) :
    List (Nat × Word) → List (Nat × List Word) → State × List (Nat × List Word)
  | [], acc => (s, acc)
  | e :: r, acc =>
    let key := coreKey (coreOfSlice k) e.2.toNat
    let m := s.num key w
    let new := atomNew f.atomOp.toNat f.ty m (wordsNat (srcWords i x cs e.1 1)) (wordsNat (srcWords i x cs e.1 2))
    (s.putMem key (natLe w new)).atomLanes i f cs x k w r (acc ++ [(e.1, natWords f.ty.regs m)])

/-- The shared effect of ATOM and ATOM.cas. -/
def State.atomGang (s : State) (i : Instr) (f : Long) : State :=
  let w := if f.ty.regs = 2 then 8 else 4
  s.localGang i f f.atomScope w (fun cs t k as =>
    t.withMemPoison k w f.vd.toNat as (fun u =>
      let r := u.atomLanes i f cs (u.sl k) k w as []
      r.1.land i f k r.2))

/-- ATOM (R162). Local atomic read-modify-write. -/
def execAtom (f : Long) (s : State) : Host.Outcome State Fault Refusal := .next (s.atomGang (.atom f) f)

/-- ATOM_CAS (R162). Local compare-and-swap. -/
def execAtomCas (f : Long) (s : State) : Host.Outcome State Fault Refusal := .next (s.atomGang (.atomCas f) f)

/-! ## SLD and SST (R165, R223) -/

/-- The bits of a frame word that a handler may rewrite (R220, R222, R223). -/
def frameEdit (f : Frame) (n : Nat) (w : Word) : Word :=
  let old := f.word n
  let nrep := bits (f.word 0) 20 4
  if n = 1 then w &&& ~~~3#32
  else if n = 4 then w
  else if n = 7 then mergeBits 0x000000F0 old w
  else if n = 11 then mergeBits 0x0000FFFF old w
  else if 12 ≤ n ∧ n < 16 then lfsrFix w
  else if 16 ≤ n ∧ n < 32 then w &&& (if n % 2 = 0 then 0x3FFFFFFF else 0xFC000000)
  else if 32 ≤ n ∧ (n - 32) / 28 < nrep ∧ (n - 32) % 28 = 3 then mergeBits 0x8000000F old (w &&& (old ||| 0xFFFFFFF0))
  else old

/-- The word of the slice's frame that an address names in trap mode. -/
def frameIndex (x : Slice) (a : Word) : Option Nat :=
  if x.trapMode ∧ 0xFFFFFC00 ≤ a.toNat then some ((a.toNat - 0xFFFFFC00) / 4) else none

/-- The address of SLD or SST. -/
def slAddr (x : Slice) (a : BitVec 6) (imm : BitVec 12) : Word := x.sVal a.toNat + BitVec.ofInt 32 (4 * sext imm)

/-- Does SLD or SST wait for an earlier far request of the slice to its word (R172)? -/
def State.slWaits (s : State) (a : BitVec 6) (imm : BitVec 12) : Bool :=
  s.farPending s.cur (coreKey (coreOfSlice s.cur) (slAddr (s.sl s.cur) a imm).toNat) 4

/-- A word access of the slice: to its frame, or to scratchpad with the checks of R164. -/
def State.slAccess (s : State) (srcs : List Nat) (a : BitVec 6) (imm : BitVec 12)
    (frame : Slice → Frame → Nat → Slice) (mem : State → Nat → Nat → State) : State :=
  let addr (x : Slice) : Word := slAddr x a imm
  if s.slWaits a imm then s
  else (s.issuedFor [s.cur] (s.portCycles (coreOfSlice s.cur))).perSlice (fun t k => t.withPoison k ((t.sl k).sPoisons srcs) (fun u =>
    let ad := addr (u.sl k)
    if ad.toNat % 4 ≠ 0 then u.trapAt k causeMisalign 0 0xF ad 0
    else match frameIndex (u.sl k) ad with
      | some n => (u.modSl k (fun x => frame x (x.frame.getD []) n)).finishSlice k ((u.sl k).pc + 4)
      | none =>
        let tm := u.tm (u.sl k).team
        if ad.toNat < tm.spbase ∨ tm.splimit < ad.toNat + 4 then u.trapAt k causeLocalBounds 0 0xF ad 0
        else (mem u k (coreKey (coreOfSlice k) ad.toNat)).finishSlice k ((u.sl k).pc + 4)))

/-- SLD (R165). Loads one word from the scratchpad, or from the frame in trap mode, into a scalar register. -/
def execSld (d a : BitVec 6) (imm : BitVec 12) (s : State) : Host.Outcome State Fault Refusal :=
  .next (s.slAccess [a.toNat] a imm (fun x f n => x.sPut d.toNat (f.word n))
    (fun t k key => (t.noteFound (t.sl k).team 0 (localKey (coreOfSlice k) (key % 2 ^ 19)) key 4).modSl k
      (fun x => x.sPut d.toNat (t.word key))))

/-- SST (R165). Stores one scalar word to the scratchpad or the frame. POISON names SD before SA (DESIGN CHOICE, log entry 54). -/
def execSst (d a : BitVec 6) (imm : BitVec 12) (s : State) : Host.Outcome State Fault Refusal :=
  .next (s.slAccess [d.toNat, a.toNat] a imm
    (fun x f n => { x with frame := some (f.setWord n (frameEdit f n (x.sVal d.toNat))) })
    (fun t k key => t.putWord key ((t.sl k).sVal d.toNat)))

end Sys2Proof.Machine
end

