-- ==== Sys2Proof/Machine/Packets.lean ====
section
/-! DEFINITION. Packets, streams and flits as they are sent (spec R397, R400, R401, R403 to R406, R411, R412), and the
requests that wait for a peer's answer. -/

namespace Sys2Proof.Machine

open Sys2Proof

/-! ## Classes (R405) -/

def clsMgmt : BitVec 4 := 0
def clsMsg : BitVec 4 := 1
def clsRts : BitVec 4 := 2
def clsPstore : BitVec 4 := 3
def clsPcopyw : BitVec 4 := 4
def clsPload : BitVec 4 := 5
def clsPatom : BitVec 4 := 6
def clsPull : BitVec 4 := 7
def clsAns : BitVec 4 := 8
def clsNack : BitVec 4 := 9

/-- The group of a class. -/
def groupOf (c : BitVec 4) : Nat :=
  match c.toNat with
  | 0 => 0
  | 1 | 2 => 1
  | 3 | 4 | 5 | 6 | 7 => 2
  | _ => 3

/-- The 256 header bits of a packet (R404). -/
def pktBits (p : Packet) : BitVec 256 :=
  p.dstPeer ++ (p.dstDie ++ (p.srcPeer ++ (p.srcDie ++ (p.cls ++ (BitVec.ofBool p.det ++ (BitVec.ofBool p.so ++ (p.gen ++
    (p.job ++ (p.seq ++ (p.txid ++ (p.tag ++ (p.stat ++ (BitVec.ofNat 12 p.payload.length ++ (p.op ++ (p.addr ++
    (p.dline ++ 0#2))))))))))))))))

/-- The bytes of a packet. -/
def pktBytes (p : Packet) : List Byte := recBytes (pktBits p) ++ p.payload

/-- The payload length that a header names. -/
def headerLen (bs : List Byte) : Nat := field bs 0 32 / 2 ^ 92 % 2 ^ 12

/-- A packet from its bytes, header first; the bytes beyond LEN are not taken. -/
def pktOfBytes (bs : List Byte) : Packet :=
  let h : BitVec 256 := BitVec.ofNat 256 (field bs 0 32)
  { dstPeer := h.extractLsb' 236 20, dstDie := h.extractLsb' 233 3, srcPeer := h.extractLsb' 213 20
    srcDie := h.extractLsb' 210 3, cls := h.extractLsb' 206 4, det := h.getLsbD 205, so := h.getLsbD 204
    gen := h.extractLsb' 192 12, job := h.extractLsb' 176 16, seq := h.extractLsb' 144 32, txid := h.extractLsb' 128 16
    tag := h.extractLsb' 108 20, stat := h.extractLsb' 104 4, op := h.extractLsb' 84 8, addr := h.extractLsb' 42 42
    dline := h.extractLsb' 2 40, payload := (bs.drop 32).take (headerLen bs) }

/-- The stream of a packet (R405). -/
def pktStream (p : Packet) : StreamId := ⟨p.srcPeer, p.srcDie, p.dstPeer, p.dstDie, groupOf p.cls⟩

/-! ## Flits (R400, R401) -/

/-- One bit into the CRC register, polynomial 0x800063. -/
def crcBit (r : BitVec 24) (b : Bool) : BitVec 24 :=
  if (r.getLsbD 23).xor b then (r <<< 1) ^^^ 0x800063#24 else r <<< 1

/-- One byte, least significant bit first. -/
def crcByte (r : BitVec 24) (b : Byte) : BitVec 24 := (List.range 8).foldl (fun x i => crcBit x (b.getLsbD i)) r

/-- The CRC of a flit's first 125 bytes. -/
def flitCrc (f : Flit) : BitVec 24 :=
  (f.payload ++ natLe 2 f.fseq.toNat ++ natLe 2 f.fack.toNat ++ [f.ftype]).foldl crcByte (BitVec.allOnes 24)

/-- A flit with its CRC. -/
def sealFlit (f : Flit) : Flit := { f with crc := flitCrc f }

/-- The bytes of a packet cut into flit payloads of 120 bytes; fuel is the length. The last one is filled with bytes that begin no
packet, since the two lowest bits of a header are zero (DESIGN CHOICE, log entry 15). -/
def cutFlits : Nat → List Byte → List (List Byte)
  | 0, _ => []
  | n + 1, bs => if bs = [] then [] else (bs.take 120 ++ List.replicate (120 - bs.length) 0xFF) :: cutFlits n (bs.drop 120)

/-- Flits of the retry buffer at most (R401). -/
def retryBufferFlits : Nat := 512

/-- A flit leaves: it takes the next FSEQ and stands in the retry buffer until FACK covers it; a link that is up carries it. -/
def Port.emit (p : Port) (e : WaitFlit) : Port :=
  let f := sealFlit ⟨e.payload, p.sendSeq.setWidth 16, p.recvSeq.setWidth 16, e.ftype, 0⟩
  { p with sendSeq := p.sendSeq + 1, buffer := p.buffer ++ [f], wire := if p.state = 2 then f :: p.wire else p.wire }

/-- The flits that wait leave as far as the retry buffer has room (R401). -/
def Port.drain (p : Port) : Port :=
  let n := retryBufferFlits - p.buffer.length
  (p.waiting.take n).foldl Port.emit { p with waiting := p.waiting.drop n }

/-- The flits of one packet wait: behind all others, or, for an answer, before the first packet that is none and of which no flit has
left (R412). -/
def Port.queue (p : Port) (fs : List WaitFlit) : Port :=
  let early (f : WaitFlit) : Bool := f.more || f.ans
  if fs.any WaitFlit.ans then { p with waiting := p.waiting.takeWhile early ++ fs ++ p.waiting.dropWhile early }
  else { p with waiting := p.waiting ++ fs }

/-- The flits of one packet, or one control flit, handed to a port. -/
def State.sendFlits (s : State) (port : Nat) (ftype : BitVec 8) (ans : Bool) (pls : List (List Byte)) : State :=
  s.modPo port (fun p => (p.queue (((List.range pls.length).zip pls).map (fun e => ⟨ans, decide (e.1 ≠ 0), ftype, e.2⟩))).drain)

/-- The flits of the retry buffer go out again, in FSEQ order (R401, R402). -/
def Port.replay (p : Port) : Port := { p with wire := p.buffer.reverse ++ p.wire }

/-- Is a packet of the management class a PTP message? No other message of that class has as many bytes (log entry 16). -/
def isPtp (p : Packet) : Bool := decide (p.cls = clsMgmt ∧ 44 ≤ p.payload.length)

/-- A packet sent on a port, in flits of type 1, or of type 2 where it is a PTP message (R413). -/
def State.transmit (s : State) (port : Nat) (p : Packet) : State :=
  s.sendFlits port (if isPtp p then 2 else 1) (decide (p.cls = clsAns)) (cutFlits (pktBytes p).length (pktBytes p))

/-! ## Datagrams (R411) -/

/-- A field of SOCFG, n bytes from byte b on. -/
def State.socfgField (s : State) (b n : Nat) : Nat := leNat ((List.range n).map (fun i => aget (0 : Byte) s.socfg (b + i)))

/-- The IPv6 address of a package. -/
def State.peerAddress (s : State) (peer : BitVec 20) : BitVec 128 := BitVec.ofNat 96 (s.socfgField 0 12) ++ peer.setWidth 32

/-- The MTU in force: a value out of its range acts as 1,500. -/
def State.mtu (s : State) : Nat :=
  let m := s.socfgField 0xE 2
  if 1500 ≤ m ∧ m ≤ 9216 then m else 1500

/-- The numbers of a stream as one number. -/
def streamNumber (i : StreamId) : Nat :=
  (((i.srcPeer.toNat * 8 + i.srcDie.toNat) * 2 ^ 20 + i.dstPeer.toNat) * 8 + i.dstDie.toNat) * 4 + i.group

/-- What a stream uses over scale-out, one number for the port and the UDP source port, fixed while the set of enabled ports that are
up does not change. -/
def State.flow (s : State) (i : StreamId) : Nat := Config.flow (streamNumber i) ((s.ethOk.map (fun j => 2 ^ j)).foldl (· + ·) 0)

/-- The sum of 16-bit words, big-endian. -/
def sum16 : List Byte → Nat
  | a :: b :: r => 256 * a.toNat + b.toNat + sum16 r
  | [a] => 256 * a.toNat
  | [] => 0

/-- The UDP checksum over IPv6: the complement of the ones' complement sum of the pseudo-header, the header and the data, never 0. -/
def udpChecksum (src dst : BitVec 128) (sport dport : BitVec 16) (data : List Byte) : BitVec 16 :=
  let n := 8 + data.length
  let sum := sum16 (natBe 16 src.toNat ++ natBe 16 dst.toNat ++ natBe 4 n ++ natBe 4 17 ++ natBe 2 sport.toNat ++ natBe 2 dport.toNat ++
    natBe 2 n ++ data)
  BitVec.ofNat 16 (if sum % 65535 = 0 then 65535 else 65535 - sum % 65535)

/-- The IPv6 packets that carry n bytes under an MTU: one, or fragments behind a fragment header. Fuel is n. -/
def fragments (mtu : Nat) : Nat → Nat → List Nat
  | 0, _ => []
  | f + 1, n =>
    let m := (mtu - 48) / 8 * 8
    if 48 + n ≤ mtu then [48 + n] else (48 + m) :: fragments mtu f (n - m)

def ipParts (mtu n : Nat) : List Nat := if 40 + n ≤ mtu then [40 + n] else fragments mtu n n

/-- The datagram that carries a packet; each carries one packet (DESIGN CHOICE, log entry 15). -/
def State.datagramFor (s : State) (p : Packet) : Datagram :=
  let n := s.flow (pktStream p)
  let sport := BitVec.ofNat 16 (49152 + n % 16384)
  let dport := BitVec.ofNat 16 (s.socfgField 0xC 2)
  let src := s.peerAddress p.srcPeer
  let dst := s.peerAddress p.dstPeer
  { port := s.ethOk.getD (n / 16384 % s.ethOk.length) 0, src := src, dst := dst, sport := sport, dport := dport
    parts := ipParts s.mtu (8 + (pktBytes p).length), checksum := udpChecksum src dst sport dport (pktBytes p) }

/-- Is a datagram with a packet taken: does it come from the packet's source and to this package's UDP port, and does its checksum
hold? -/
def State.datagramOk (s : State) (p : Packet) (d : Datagram) : Bool :=
  decide (d.src = s.peerAddress p.srcPeer ∧ d.dport = BitVec.ofNat 16 (s.socfgField 0xC 2) ∧
    d.checksum = udpChecksum d.src d.dst d.sport d.dport (pktBytes p))

/-! ## Streams (R406) -/

/-- The sending end of a stream. -/
def State.txOf (s : State) (i : StreamId) : TxStream :=
  ((s.txStreams.find? (fun t => decide (t.id = i)))).getD ⟨i, 0, [], none, []⟩

/-- Packets of the stream are sent now. -/
def TxStream.mark (t : TxStream) (qs : List Packet) (now : Nat) : TxStream :=
  { t with sent := qs.foldl (fun m q => aput m q.seq.toNat now) t.sent }

/-- The times of the packets that are still kept. -/
def TxStream.tidy (t : TxStream) : TxStream :=
  { t with sent := t.sent.filter (fun e => t.unacked.any (fun q => decide (q.seq.toNat = e.1))) }

def State.putTx (s : State) (t : TxStream) : State :=
  { s with txStreams := s.txStreams.filter (fun x => decide (x.id ≠ t.id)) ++ [t] }

/-- A packet of a stream put on its present path (R397, R403, R411); without a path it waits at the source. A PTP message is never
detoured (R413). -/
def State.putOnPath (s : State) (p : Packet) : State :=
  match s.route p.dstPeer with
  | .direct n => let q := { p with det := false, so := false }; ({ s with outbox := q :: s.outbox }).transmit n q
  | .via k =>
    let q := { p with det := true, so := false }
    if isPtp p then s else ({ s with outbox := q :: s.outbox }).transmit k q
  | .scaleOut =>
    let q := { p with det := false, so := true }
    if isPtp p then s else { s with outbox := q :: s.outbox, datagrams := s.datagramFor q :: s.datagrams }
  | _ => s

/-- A packet handed to the fabric: it takes the next SEQ of its stream and is kept until it is acknowledged (R406). A stream
that waits after a NACK only keeps it (R407). A packet for this package goes through the crossbar to its engine (R399). -/
def State.sendPacket (s : State) (p : Packet) : State × Word :=
  let t := s.txOf (pktStream p)
  let q := { p with seq := t.nextSeq }
  if p.dstPeer = s.selfPeer then
    let s1 := s.putTx { t with nextSeq := t.nextSeq + 1 }
    ({ s1 with inbox := s1.inbox ++ [q] }, t.nextSeq)
  else
    let s1 := s.putTx (({ t with nextSeq := t.nextSeq + 1, unacked := t.unacked ++ [q] } : TxStream).mark [q] s.ns)
    (if t.nacked.isSome then s1 else s1.putOnPath q, t.nextSeq)

/-- A packet of the management class, from this package's host die to another's. -/
def State.mgmtPacket (s : State) (dst : BitVec 20) (payload : List Byte) : Packet :=
  { dstPeer := dst, dstDie := 0, srcPeer := s.selfPeer, srcDie := 0, cls := clsMgmt, det := false, so := false, gen := 0, job := 0
    seq := 0, txid := 0, tag := 0, stat := 0, op := 0, addr := 0, dline := 0, payload := payload }

/-- Is a sequence number at or before another, modulo 2^32? -/
def seqLe (a b : Word) : Bool := decide ((b - a).toNat < 2 ^ 31)

/-- A packet of a stream is acknowledged, and with it every earlier one (R406). -/
def State.ackStream (s : State) (i : StreamId) (seq : Word) : State :=
  let t := s.txOf i
  if t.unacked = [] then s else s.putTx ({ t with unacked := t.unacked.filter (fun p => !seqLe p.seq seq) } : TxStream).tidy

/-! ## Peer requests (R404, R412) -/

/-- The die at the target that a request names: the DIE field of a scratchpad window offset; 0 for the HBM window, whose
owning die only the target knows (DESIGN CHOICE, log entry 15). -/
def windowDie (woff : BitVec 42) : BitVec 3 := if woff.getLsbD 41 then woff.extractLsb' 37 3 else 0

/-- The global time at which the far timeout of a request that a partition issues now is over (R170, R377, R412). -/
def State.farDue (s : State) (p : Nat) : Nat := s.ns + (s.pt p).farTimeoutNs

/-- Has a deadline passed (R412)? -/
def linePassed (now : Nat) (d : BitVec 40) : Bool := decide ((BitVec.ofNat 40 now - d).toNat < 2 ^ 39)

/-- A request sent to a die of a package for a job, answered in time until `due`: the state after, and the request's number. -/
def State.sendRequestTo (s : State) (dstDie : BitVec 3) (p : Nat) (die : Nat) (peer : BitVec 20) (woff : BitVec 42)
    (cls : BitVec 4) (op : BitVec 8) (payload : List Byte) (due src : Nat) (kind : BitVec 2) (off : Nat) : State × BitVec 16 :=
  let j := s.jobOf p
  let d := BitVec.ofNat 40 due
  let pkt : Packet :=
    { dstPeer := peer, dstDie := dstDie, srcPeer := s.selfPeer, srcDie := BitVec.ofNat 3 die, cls := cls, det := false
      so := false, gen := j.gen, job := j.job, seq := 0, txid := s.nextTxid, tag := 0, stat := 0, op := op, addr := woff
      dline := d, payload := payload }
  let r := s.sendPacket pkt
  ({ r.1 with
      nextTxid := s.nextTxid + 1
      peerReqs := r.1.peerReqs ++ [⟨s.nextTxid, src, kind, d, pktStream pkt, r.2, off, false⟩] }, s.nextTxid)

/-- A request for a window of a peer. -/
def State.sendRequest (s : State) (p : Nat) (die : Nat) (peer : BitVec 20) (woff : BitVec 42) (cls : BitVec 4) (op : BitVec 8)
    (payload : List Byte) (due src : Nat) (kind : BitVec 2) (off : Nat) : State × BitVec 16 :=
  s.sendRequestTo (windowDie woff) p die peer woff cls op payload due src kind off

/-- A 64-byte line with bytes laid at an offset. -/
def lineWith (off : Nat) (bs : List Byte) : List Byte :=
  (List.range 64).map (fun i => if off ≤ i ∧ i < off + bs.length then bs.getD (i - off) 0 else 0)

/-- What follows the line of a PATOM packet (DESIGN CHOICE, log entry 15): a compare value, and a code for what OP does not say: 0 to
3 the types I32 (and B32), N32, I64 and F32, 4 an element of a COPYR. -/
def atomTail (cmp code : Nat) : List Byte := natLe 8 cmp ++ [BitVec.ofNat 8 code]

/-- The byte mask of n bytes at an offset of a line. -/
def lineMask (off n : Nat) : Nat := (2 ^ n - 1) * 2 ^ off

end Sys2Proof.Machine
end

