-- ==== Sys2Proof/Machine/Far.lean ====
section
/-! DEFINITION. Far accesses: their issue, the coalescer, responses and failures (spec R159, R166 to R172, R177, R278 to R289,
R304, R399, R410, R412). -/

namespace Sys2Proof.Machine

open Sys2Proof

/-! ## Issue (R167) -/

/-- The lanes, with their addresses, in which slice k makes far accesses. -/
def State.farLanes (s : State) (i : Instr) (f : Long) (cs : Assoc Word) (w k : Nat) : List (Nat × DWord) :=
  let x := s.sl k
  (lanes.filter (fun l => (x.lanesOn f.pk f.pn).getLsbD l)).map (fun l => (l, farAddr i f x cs w l))

/-- Is the request counted by the far-store counter (R171)? -/
def FarKind.isStore : FarKind → Bool
  | .store _ => true
  | _ => false

/-- The class counter that a request of a kind raises. -/
def Slice.farCount (x : Slice) (kind : FarKind) : Nat := if kind.isStore then x.fs else x.fl

/-- The lines of 64 bytes that lanes name, in the order of the lanes. -/
def linesOf (as : List DWord) : List Nat := firsts (as.map (fun a => a.toNat / 64))

/-- Entries of a core's far-access queue that are taken, or kept for requests still to be formed (R168). -/
def State.farUsed (s : State) (core : Nat) : Nat :=
  ((s.fars.filter (fun f => decide (coreOfSlice f.slice = core))).map (fun f =>
    if f.formed then 1 else (linesOf (f.ops.map LaneOp.addr)).length)).foldl (· + ·) 0

/-- Does a far instruction of the gang stall for want of room under its class counter or in its core's queue (R168, R171)? Each slice is
listed with its lanes. -/
def State.farStall (s : State) (kind : FarKind) (acts : List (Nat × List (Nat × DWord))) : Bool :=
  acts.any (fun e => decide (e.2 ≠ []) && decide (63 ≤ (s.sl e.1).farCount kind)) ||
    decide (64 < s.farUsed (coreOfSlice s.cur) + (acts.map (fun e => (linesOf (e.2.map Prod.snd)).length)).foldl (· + ·) 0)

/-- Does a far instruction of the gang wait for the release of one of its slices (R177)? A slice whose clamp traps waits for nothing. -/
def State.farWaits (s : State) (f : Long) (scope : BitVec 3) (acts : List (Nat × List (Nat × DWord))) : Bool :=
  acts.any (fun e => decide (e.2 ≠ []) && !s.clampTraps e.1 scope && f.xw.getLsbD 1 && s.relWaits e.1)

/-- A far instruction of the gang: `kind` and the operand words of a lane go into its record. -/
def State.farGang (s : State) (i : Instr) (f : Long) (scope : BitVec 3) (kind : FarKind)
    (data : Assoc Word → Slice → Nat → Nat × Nat) : State :=
  let ms := s.members s.cur
  let w := kind.width
  let rel := f.xw.getLsbD 1
  s.withConsts 1 i ms (fun cs t =>
    let acts := ms.map (fun k => (k, t.farLanes i f cs w k))
    if t.farWaits f scope acts then
      t.clampFirst i f scope ((acts.filter (fun e => decide (e.2 ≠ []))).map Prod.fst)
    else if t.farStall kind acts then t
    else
      (acts.foldl (fun u e =>
        let k := e.1
        if e.2 = [] then u.modSl k (fun x => { x with pc := x.pc + 12 })
        else u.withPoison k (srcPoison i (u.sl k) ((u.sl k).lanesOn f.pk f.pn)) (fun u1 =>
          u1.withClamp k scope (ordInfo f.xw scope) (fun u2 =>
            match e.2.filter (fun a => decide (a.2.toNat % w ≠ 0)) with
            | b :: r => u2.trapAt k causeMisalign 0 (maskOf (fun l => (b :: r).any (fun a => decide (a.1 = l)))) (loWord b.2)
                (hiWord b.2)
            | [] =>
              let x := u2.sl k
              let ops : List LaneOp := e.2.map (fun a =>
                let d := data cs x a.1
                ⟨a.1, a.2, BitVec.ofNat 64 d.1, BitVec.ofNat 64 (d.1 / 2 ^ 64), BitVec.ofNat 64 d.2, false⟩)
              let u3 := (if rel then u2.release k else u2).modSl k (fun y =>
                let z := killAll i y (y.lanesOn f.pk f.pn)
                { z with
                  pc := z.pc + 12
                  fl := if kind.isStore then z.fl else z.fl + 1
                  fs := if kind.isStore then z.fs + 1 else z.fs })
              let u4 := { u3 with
                nextId := u3.nextId + 1, nextSeq := u3.nextSeq + 1
                fars := u3.fars ++ [⟨u3.nextId, k, kind, ops, false, u3.nextSeq, u3.nextId, t.nextId, u3.farDue (u3.tm x.team).part, false, 0, none, []⟩] }
              if f.xw.getLsbD 0 then u4.acquire k else u4)))
        ((t.issued ms).charge i ms)).partFrom s ms)

/-- FLD (R167). Issues a far load, leaving destinations pending. -/
def execFld (f : Long) (s : State) : Host.Outcome State Fault Refusal :=
  .next (s.farGang (.fld f) f f.ldScope (.load f.size f.vd) (fun _ _ _ => (0, 0)))

/-- FST (R167). Issues a far store. -/
def execFst (f : Long) (s : State) : Host.Outcome State Fault Refusal :=
  .next (s.farGang (.fst f) f f.ldScope (.store f.size) (fun cs x l => (wordsNat (srcWords (.fst f) x cs l 1), 0)))

/-- FATOM (R167). Issues a far atomic. -/
def execFatom (f : Long) (s : State) : Host.Outcome State Fault Refusal :=
  .next (s.farGang (.fatom f) f f.atomScope (.atomic f.atomOp f.ty f.vd) (fun cs x l =>
    (wordsNat (srcWords (.fatom f) x cs l 1), wordsNat (srcWords (.fatom f) x cs l 2))))

/-! ## Requests (R168, R169) -/

/-- The data of a lane of a store or atomic. -/
def LaneOp.value (o : LaneOp) : Nat := o.data.toNat + 2 ^ 64 * o.data2.toNat

/-- The permissions a request needs (R283). -/
def FarKind.perms : FarKind → Bool × Bool × Bool
  | .load _ _ => (true, false, false)
  | .store _ => (false, true, false)
  | .atomic _ _ _ => (true, true, true)

/-- The agent of its memory events (R289). -/
def FarKind.agent : FarKind → BitVec 4
  | .load _ _ => 0
  | .store _ => 1
  | .atomic _ _ _ => 2

/-- The registers it lands in: the first, and how many. -/
def FarKind.dest : FarKind → Option (Nat × Nat)
  | .load z vd => some (vd.toNat, sizeRegs z)
  | .store _ => none
  | .atomic _ ty vd => some (vd.toNat, ty.regs)

/-- Where a lane of a request leads. -/
def State.farTarget (s : State) (f : Far) (addr : DWord) : Target :=
  let p := f.kind.perms
  s.resolve (s.teamAsker (s.sl f.slice).team) addr p.1 p.2.1 p.2.2

/-- Do n bytes at one place and m bytes at another share a byte? -/
def placesMeet (a b : Target) (n m : Nat) : Bool :=
  match a, b with
  | .key x, .key y => decide (x < y + m ∧ y < x + n)
  | .peer p x, .peer q y => decide (p = q ∧ x.toNat < y.toNat + m ∧ y.toNat < x.toNat + n)
  | _, _ => false

/-- Do two lane accesses touch a common byte? -/
def State.farOverlap (s : State) (f g : Far) (a b : LaneOp) : Bool :=
  placesMeet (s.farTarget f a.addr) (s.farTarget g b.addr) f.kind.width g.kind.width

/-- Do two loads land in a common register of a common lane? -/
def sharedDest (f g : Far) : Bool :=
  match f.kind.dest, g.kind.dest with
  | some (a, n), some (b, m) => decide (a < b + m ∧ b < a + n) && f.ops.any (fun x => g.ops.any (fun y => decide (x.lane = y.lane)))
  | _, _ => false

/-- Is the request a load? -/
def FarKind.isLoad : FarKind → Bool
  | .load _ _ => true
  | _ => false

/-- Do two requests touch a common byte? -/
def State.farMeet (s : State) (f g : Far) : Bool := f.ops.any (fun a => g.ops.any (fun b => !b.done && s.farOverlap f g a b))

/-- Does a far request go on after a halt? Loads of a team that is saved stand still (R181, R362); stores and atomics go on. -/
def State.farGoes (s : State) (f : Far) : Bool :=
  let t := (s.sl f.slice).team
  !f.kind.isLoad || s.teamGoes (s.tm t).part t

/-- Must request f wait for an earlier one to a common byte: of its slice (R172), or, when they store, of its gang's instruction
(R163)? A load that stands still for a save holds nothing back (R181). -/
def State.farOrdered (s : State) (f : Far) : Bool :=
  s.fars.any (fun g => decide (g.seq < f.seq ∧ (g.slice = f.slice ∨ (g.gangNo = f.gangNo ∧ !f.kind.isLoad))) && s.farGoes g &&
    s.farMeet f g)

/-- Those of some requests that are joined to the ones of a list by bytes in common, themselves or through others. Fuel is the
number of requests. -/
def State.joined (s : State) : Nat → List Far → List Far → List Far
  | 0, found, _ => found
  | n + 1, found, rest =>
    let new := rest.filter (fun g => found.any (s.farMeet g))
    if new = [] then found else s.joined n (found ++ new) (rest.filter (fun g => !found.any (s.farMeet g)))

/-- The other loads of the same gang's instruction that are performed with it, since they read common bytes and find the same value
there (R163). -/
def State.loadMates (s : State) (f : Far) : List Far :=
  if f.kind.isLoad then
    let rest := s.fars.filter (fun g => decide (g.gangNo = f.gangNo ∧ g.id ≠ f.id) && g.formed && !g.sent)
    (s.joined rest.length [f] rest).drop 1
  else []

/-- Must request f wait for an earlier one of its slice into a common register (R169)? -/
def State.destBlocked (s : State) (f : Far) : Bool :=
  s.fars.any (fun g => decide (g.slice = f.slice ∧ g.seq < f.seq) && s.farGoes g && sharedDest f g)

/-- Must request f wait for an earlier one: to a common byte, or into a common register? -/
def State.farBlocked (s : State) (f : Far) : Bool := s.farOrdered f || s.destBlocked f

/-- The request of a number. -/
def State.farOf (s : State) (id : Nat) : Option Far := s.fars.find? (fun f => decide (f.id = id))

def State.putFar (s : State) (f : Far) : State := { s with fars := s.fars.map (fun g => if g.id = f.id then f else g) }

/-- SIZE of an atomic's access (R159, R404). -/
def atomSize (ty : Ty) : Nat := if ty = .i64 then 5 else 4

/-- The code of an atomic's type behind the line of its packet (DESIGN CHOICE, log entry 15). -/
def atomCode (ty : Ty) : Nat :=
  match ty with
  | .n32 => 1
  | .i64 => 2
  | .f32 => 3
  | _ => 0

/-- The packet payload of a request's lanes (R404): the byte mask and the line; for an atomic what the line does not say. -/
def farPayload (kind : FarKind) (ops : List LaneOp) : List Byte :=
  let w := kind.width
  let mask := ops.foldl (fun m o => Nat.lor m (lineMask (o.addr.toNat % 64) w)) 0
  let line := (ops.foldl (fun (l : List Byte) o => (List.range 64).map (fun i =>
    if o.addr.toNat % 64 ≤ i ∧ i < o.addr.toNat % 64 + w then (natLe w o.value).getD (i - o.addr.toNat % 64) 0 else l.getD i 0))
    (List.replicate 64 0))
  match kind with
  | .load _ _ => []
  | .store _ => natLe 8 mask ++ line
  | .atomic _ ty _ => natLe 8 mask ++ line ++ atomTail ((ops.headD ⟨0, 0, 0, 0, 0, false⟩).cmp.toNat) (atomCode ty)

/-- The lanes whose request goes to a peer next: an atomic sends one lane at a time, so that a lane's operation follows the
one before it (R163). -/
def Far.nextOps (f : Far) : List LaneOp :=
  let left := f.ops.filter (fun o => !o.done)
  match f.kind with
  | .atomic _ _ _ => left.take 1
  | _ => left

/-- A line request sent to a peer (R399, R404). -/
def State.sendFar (s : State) (f : Far) (peer : BitVec 20) (woff : BitVec 42) : State :=
  let line : BitVec 42 := woff &&& ~~~63#42
  let (cls, op) : BitVec 4 × Nat := match f.kind with
    | .load z _ => (clsPload, z.toNat)
    | .store z => (clsPstore, z.toNat)
    | .atomic o ty _ => (clsPatom, 16 * o.toNat + atomSize ty)
  let r := s.sendRequest (s.tm (s.sl f.slice).team).part (dieOfCore (coreOfSlice f.slice)) peer line cls (BitVec.ofNat 8 op)
    (farPayload f.kind f.nextOps) f.due f.id 0 0
  r.1.putFar { f with sent := true, txid := r.2 }

/-- The lines of a far instruction in the order of its lanes. -/
def farLines (ops : List LaneOp) : List Nat := linesOf (ops.map LaneOp.addr)

/-- One line request formed (R168), sent when its place lies in another package and no earlier request stands before it. -/
def State.formLine (s : State) (f : Far) (line : Nat) : State :=
  let g : Far := { f with id := s.nextId, formed := true, ops := f.ops.filter (fun o => decide (o.addr.toNat / 64 = line)) }
  let s1 := { s with nextId := s.nextId + 1, fars := s.fars ++ [g] }
  match s1.farTarget g ((g.ops.headD ⟨0, 0, 0, 0, 0, false⟩).addr) with
  | .peer p w => if s1.farOrdered g then s1 else s1.sendFar g p w
  | _ => s1

/-- The coalescer takes the slices of a gang's far instruction when it is the oldest of its core, but for loads that stand still, and
its requests fit (R168). -/
def State.coalesce (s : State) (far : Nat) : State :=
  match s.farOf far with
  | none => s
  | some f =>
    let core := coreOfSlice f.slice
    let mine := s.fars.filter (fun g => decide (coreOfSlice g.slice = core))
    let fs := mine.filter (fun g => !g.formed && decide (g.gangNo = f.gangNo))
    let n := (fs.map (fun g => (farLines g.ops).length)).foldl (· + ·) 0
    if f.formed ∨ !s.farGoes f ∨ mine.any (fun g => !g.formed && decide (g.seq < f.seq ∧ g.gangNo ≠ f.gangNo) && s.farGoes g) ∨
        64 < (mine.filter (fun g => g.formed)).length + n then s
    else fs.foldl (fun u g => (farLines g.ops).foldl (fun t l => t.formLine g l) u)
      { s with fars := s.fars.filter (fun g => !fs.any (fun h => decide (h.id = g.id))) }

/-- The partition of a far request's slice. -/
def State.farPart (s : State) (far : Nat) : Nat :=
  match s.farOf far with
  | none => 0
  | some f => (s.tm (s.sl f.slice).team).part

/-- COALESCE_FAR_REQUESTS (R168). The coalescer forms line requests and places them in the far-access queue when room
exists. -/
def execCoalesceFarRequests (far : Nat) (s : State) : Host.Outcome State Fault Refusal :=
  if s.engineOn (s.farPart far) then .next (s.coalesce far) else .next s

/-! ## Landing and failure (R169, R170) -/

/-- A request is over: it leaves the queue, and the class count of its instruction is released with its last one (R171). -/
def State.farDone (s : State) (f : Far) : State :=
  let s1 := { s with fars := s.fars.filter (fun g => decide (g.id ≠ f.id)) }
  if s1.fars.any (fun g => decide (g.slice = f.slice ∧ g.parent = f.parent)) then s1
  else s1.modSl f.slice (fun x =>
    if f.kind.isStore then { x with fs := x.fs - 1 }
    else { x.landed (fun p => decide (p = f.parent)) with fl := x.fl - 1, acqHold := x.acqHold && decide (1 < x.fl) })

/-- A lane's words land in its destination registers, which become live; until the count is released a read finds the landed word
or the one before it, by a choice of its own for each register (R169). -/
def State.landLane (s : State) (f : Far) (l : Nat) (ws : List Word) : State :=
  match f.kind.dest with
  | none => s
  | some (r, _) => s.modSl f.slice (fun x => ((List.range ws.length).zip ws).foldl (fun y e =>
      y.landWord f.parent (r + e.1) l e.2 (Config.showsLanded s.freeNo (4096 * f.slice + 4 * (r + e.1) + l))) x)

/-- The lanes of some operations as a mask. -/
def opLanes (ops : List LaneOp) : BitVec 4 := maskOf (fun l => ops.any (fun o => decide (o.lane = l)))

/-- What a failure leaves (R170): the FARSTAT bit, the kind of its event (0: none), and whether the lanes read zeros. -/
def farErrInfo : FarErr → Nat × BitVec 4 × Bool
  | .timeout => (farTimeout, 0, false)
  | .noPeer => (farNoPeer, 0, false)
  | .partition => (farDenied, 8, false)
  | .denied => (farDenied, 1, true)
  | .fault => (farFault, 7, false)

/-- The target side's event of a denial or fault at this package's own windows (R410). -/
def State.windowEvent (s : State) (p : Nat) (addr : DWord) (kind : BitVec 4) (tag : BitVec 20) : State :=
  if bits addr 62 2 = 2 ∧ addr.extractLsb' 42 20 = s.selfPeer ∧ (kind = 1 ∨ kind = 7) then
    s.memEventJob p (windowPlaceDie (s.jobOf p) (addr.extractLsb' 0 42)) addr tag 7 kind s.selfPeer
  else s

/-- The event of a failure, combined when it is a denial (R289). A denial or fault at this package's own windows is
recorded by the target side too (R410). -/
def State.failEvent (s : State) (t : Nat) (agent : BitVec 4) (addr : DWord) (e : FarErr) (tag : BitVec 20) : State :=
  let s1 := s.windowEvent (s.tm t).part addr (farErrInfo e).2.1 tag
  match e with
  | .denied => s1.noteDenial t agent addr tag
  | .timeout | .noPeer => s1
  | _ => s1.memEvent t addr tag agent (farErrInfo e).2.1

/-- A far request fails (R170). -/
def State.farFails (s : State) (f : Far) (e : FarErr) (tag : BitVec 20) : State :=
  let left := f.ops.filter (fun o => !o.done)
  let info := farErrInfo e
  let n := match f.kind.dest with | some (_, n) => n | none => 0
  let fill : Word := if info.2.2 then 0 else 0xFFFFFFFF
  let s1 := left.foldl (fun t o => t.landLane f o.lane (List.replicate n fill)) s
  let s2 := s1.failEvent (s.sl f.slice).team f.kind.agent ((left.headD ⟨0, 0, 0, 0, 0, false⟩).addr) e tag
  (s2.farFailed f.slice info.1 (opLanes left)).farDone f

/-- Poison that a far load or atomic returned (R292, R33). -/
def State.farPoison (s : State) (f : Far) (m : BitVec 4) : State :=
  if m = 0 then s
  else match f.kind.dest with
    | none => s
    | some (r, _) =>
      let s1 := s.modSl f.slice (fun x => x.notePoisonHw s.cycle m true 0 (BitVec.ofNat 8 r))
      s1.boundaryCond f.slice tePoison ⟨causePoison, 0, m, (s1.sl f.slice).poison, 0, 0⟩

/-- One lane performed at a place of this package: the state, and the value that the lane receives (R160 to R163). -/
def State.farLane (s : State) (f : Far) (o : LaneOp) (key : Nat) : State × Nat :=
  let w := f.kind.width
  let old := s.num key w
  match f.kind with
  | .load _ _ => (s, old)
  | .store _ => (s.deliver key (natLe w o.value), 0)
  | .atomic op ty _ => (s.deliver key (natLe w (atomNew op.toNat ty old o.data.toNat o.cmp.toNat)), old)

/-- The words a lane receives for a value. -/
def FarKind.words (k : FarKind) (x : Nat) : List Word :=
  match k with
  | .load z _ => loadWords z x
  | .store _ => []
  | .atomic _ ty _ => natWords ty.regs x

/-- Every lane of a request performed in this package, lane by lane. -/
def State.farPerform (s : State) (f : Far) : State :=
  let w := f.kind.width
  let t := (s.sl f.slice).team
  let bad := f.ops.filter (fun o => match s.farTarget f o.addr with
    | .key k => !f.kind.isStore && (List.range w).any (fun n => s.isPoisoned (k + n))
    | _ => false)
  let s1 := f.ops.foldl (fun u o => match u.farTarget f o.addr with
    | .key k =>
      let u1 := if f.kind.isStore then u else u.noteFound t f.kind.agent o.addr k w
      let r := u1.farLane f o k
      r.1.landLane f o.lane (f.kind.words r.2)
    | _ => u) s
  (s1.farPoison f (opLanes bad)).farDone f

/-- The outcome that an answer's STAT names (R410). -/
def statErr (stat : BitVec 4) : Option FarErr :=
  match stat.toNat with
  | 0 => none
  | 1 => some .partition
  | 3 => some .timeout
  | 4 => some .denied
  | _ => some .fault

/-- The byte of a peer at an offset of the line of its lane, as a key among the bytes that loads have found. -/
def State.peerByteKey (s : State) (f : Far) (addr : DWord) (n : Nat) : Option Nat :=
  match s.farTarget f addr with
  | .peer p w => some (p.toNat * 2 ^ 42 + w.toNat + n)
  | _ => none

/-- The bytes that a lane of a load receives: those that another load of its gang's instruction has found there already, the others
as they came (R163). -/
def State.laneBytes (s : State) (f : Far) (line : List Byte) (o : LaneOp) : List Byte :=
  (List.range f.kind.width).map (fun n =>
    let came := line.getD (o.addr.toNat % 64 + n) 0
    match s.peerByteKey f o.addr n with
    | some q => (afind f.known q).getD came
    | none => came)

/-- What the lanes of a load have found at a peer is known to the other loads of its gang's instruction (R163). -/
def State.foundAt (s : State) (f : Far) (line : List Byte) : State :=
  if !f.kind.isLoad then s
  else
    let new := f.ops.flatMap (fun o => ((List.range f.kind.width).zip (s.laneBytes f line o)).filterMap (fun e =>
      (s.peerByteKey f o.addr e.1).map (fun q => (q, e.2))))
    { s with fars := s.fars.map (fun g =>
        if g.gangNo = f.gangNo ∧ g.id ≠ f.id then { g with known := g.known ++ new } else g) }

/-- An answer applied to the lanes that its request carried (R410). -/
def State.farAnswered (s : State) (f : Far) (pkt : Packet) : State :=
  match statErr pkt.stat with
  | some e => s.farFails f e pkt.tag
  | none =>
    let ops := f.nextOps
    let s1 := ops.foldl (fun t o => t.landLane f o.lane (f.kind.words (leNat (s.laneBytes f pkt.payload o)))) (s.foundAt f pkt.payload)
    let g : Far := { f with
      answer := none
      ops := f.ops.map (fun o => if ops.any (fun q => decide (q.lane = o.lane)) then { o with done := true } else o) }
    if g.ops.all (fun o => o.done) then s1.farDone g
    else match s1.farTarget g ((g.nextOps.headD ⟨0, 0, 0, 0, 0, false⟩).addr) with
      | .peer p w => (s1.putFar g).sendFar g p w
      | .fail e tag => s1.farFails g e tag
      | .key _ => s1.farFails g .fault 0

/-- Is the far timeout of a request of this package over (R170, R284)? -/
def State.farLate (s : State) (f : Far) : Bool := decide (f.due < s.ns)

/-- A request performed in this package, with its tag check. -/
def State.farHere (s : State) (f : Far) : State :=
  (s.checkedTag (s.sl f.slice).team f.kind.agent ((f.ops.headD ⟨0, 0, 0, 0, 0, false⟩).addr)).farPerform f

/-- A far request is performed, with the loads that find the same value, or its answer applied, when no earlier one stands before
it (R163, R169, R172). One past its timeout fails (R170). -/
def State.respond (s : State) (req : Nat) : State :=
  match s.farOf req with
  | none => s
  | some f =>
    let addr := (f.ops.headD ⟨0, 0, 0, 0, 0, false⟩).addr
    if !f.formed ∨ s.farBlocked f ∨ !s.farGoes f then s
    else match f.answer with
      | some pkt => s.farAnswered f pkt
      | none =>
        if f.sent then s
        else match s.farTarget f addr with
          | .key _ =>
            if s.farLate f then s.farFails f .timeout 0
            else if (s.loadMates f).any s.farBlocked then s
            else (s.loadMates f).foldl State.farHere (s.farHere f)
          | .peer p w => s.sendFar f p w
          | .fail e tag => (s.checkedTag (s.sl f.slice).team f.kind.agent addr).farFails f e tag

/-- A far request of this package that has had no response in time (R170): formed, and not sent to another package. It fails after an
earlier one into a common register, since they land in issue order (R169). -/
def State.farExpire (s : State) (req : Nat) : State :=
  match s.farOf req with
  | none => s
  | some f =>
    if f.formed ∧ !f.sent ∧ f.answer.isNone ∧ s.farGoes f ∧ s.farLate f ∧ !s.destBlocked f then s.farFails f .timeout 0 else s

/-- FAR_RESPONSE (R169). A far response or acknowledgement returns, landing lanes or releasing counts. -/
def execFarResponse (req : Nat) (s : State) : Host.Outcome State Fault Refusal := .next (s.respond req)

/-! ## Translation and denial records (R282, R284, R289) -/

/-- Does the walk of an address meet no poison that is still to be found? An access finds it, with its event (R292). -/
def State.walkSound (s : State) (part : Nat) (j : Job) (va : BitVec 48) : Bool :=
  (s.walkKeys ⟨part, j, none⟩ (va.setWidth 64)).all (fun k => decide (s.unreported k 8 = []))

/-- TRANSLATION_WALK (R282). The owning die walks the page tables for a missed translation. -/
def execTranslationWalk (part : Nat) (va : BitVec 48) (s : State) : Host.Outcome State Fault Refusal :=
  match (s.pt part).job with
  | none => .next s
  | some j =>
    if (s.cachedLeaf part j.job va.toNat).isSome ∨ !s.walkSound part j va then .next s
    else match s.walk j.rootw va.toNat with
      | .error _ => .next s
      | .ok m => .next (s.modDi (ownerDie va.toNat) (fun d =>
          { d with xlats := (⟨part, j.job, va.extractLsb' 12 36, BitVec.ofNat 37 (m.pa / 4096 * 4096), m.tag, m.r, m.w, m.a, m.size⟩ ::
              d.xlats).take 16384 }))

/-- DENIAL_RECORD_CLOSE (R289). A combined denial record closes after 1 us or 255 denials and is appended. -/
def execDenialRecordClose (record : Nat) (s : State) : Host.Outcome State Fault Refusal :=
  match s.denials.find? (fun d => decide (d.id = record)) with
  | none => .next s
  | some d => if d.time.toNat + 1000 ≤ s.ns ∨ 255 ≤ d.count then .next (s.closeDenial record) else .next s

end Sys2Proof.Machine
end

