-- ==== Sys2Proof/Machine/MatrixSum.lean ====
section
/-! DEFINITION. Tile descriptors and the arithmetic of the matrix engine and of its shadow check (spec R41, R53, R55 to R57,
R183, R184, R191, R194 to R197, R207). -/

namespace Sys2Proof.Machine

open Sys2Proof

/-! ## Descriptors (R183, R184) -/

abbrev Desc := DWord

def Desc.etype (d : Desc) : Nat := bits d 0 4
def Desc.rows (d : Desc) : Nat := bits d 4 6
def Desc.cols (d : Desc) : Nat := bits d 10 9
def Desc.blk (d : Desc) : Bool := d.getLsbD 19
def Desc.soff (d : Desc) : Nat := bits d 32 13
def Desc.valid (d : Desc) : Bool := d.getLsbD 31
/-- The block length of MMAS. -/
def Desc.block (d : Desc) : Nat := if d.blk then 32 else 64

/-- Bits of an element of a type code. -/
def etBits (e : Nat) : Nat :=
  match e with
  | 9 | 10 => 16
  | 14 | 15 => 4
  | _ => 8

/-- Does a descriptor meet R184? -/
def descOk (d : Desc) : Bool :=
  let e := d.etype
  [5, 9, 10, 12, 13, 14, 15].contains e && decide (1 ≤ d.rows ∧ d.rows ≤ 32 ∧ 1 ≤ d.cols ∧ d.cols ≤ 1024 / etBits e) &&
    (decide (etBits e ≠ 4) || decide (d.rows % 2 = 0 ∧ d.cols % 2 = 0))

/-- A descriptor as it is stored when a word is written to it: the writable fields, and VALID recomputed. -/
def descWrite (w : DWord) : Desc :=
  let d := w &&& 0x00001FFF000FFFFF
  setBit d 31 (descOk d)

/-- Bytes of so many elements. -/
def elemBytes (e n : Nat) : Nat := n * etBits e / 8

/-- Scale offsets of the units that an operand of MMAS uses (R196). -/
def Desc.scaleOffs (d : Desc) : List Nat :=
  let nb := (d.cols + d.block - 1) / d.block
  (List.range ((nb + 3) / 4)).map (fun u => d.soff + 128 * u)

/-- The byte of row r and block b in a list of scale units (R191). -/
def scaleByte (units : List Byte) (r b : Nat) : Byte := units.getD (128 * (b / 4) + 16 * (r % 8) + 4 * (r / 8) + b % 4) 0

/-! ## Elements -/

/-- Element k of a row's bytes as a number. -/
def rowElem (e : Nat) (row : List Byte) (k : Nat) : Nat :=
  match etBits e with
  | 16 => field row (2 * k) 2
  | 4 => (row.getD (k / 2) 0).toNat / 16 ^ (k % 2) % 16
  | _ => (row.getD k 0).toNat

/-- An element's exact value. -/
def mxVal (e x : Nat) : FVal :=
  match e with
  | 5 => fint (BitVec.ofNat 8 x).toInt
  | 9 => fval .f16 x
  | 10 => fval .bf16 x
  | 12 => fval .e4m3 x
  | 13 => fval .e5m2 x
  | 14 => fval .e2m1 x
  | _ => fint (BitVec.ofNat 4 x).toInt

/-- A value times an E8M0 scale; 0xFF makes it NaN (R41, R53). -/
def mxScale (x : FVal) (e : Byte) : FVal := if e = 0xFF then .nan else x.scale ((e.toNat : Int) - 127)

/-- May operands of these types be multiplied (R194)? -/
def mxPair (a b : Nat) : Bool := decide (a = b) || (decide (a = 12) && decide (b = 13)) || (decide (a = 13) && decide (b = 12))

/-! ## The product sum (R55, R56) -/

/-- Two rows of an operation: types, bytes, and the scale of each block when it is scaled. -/
structure MxRows where
  ea : Nat
  eb : Nat
  a : List Byte
  b : List Byte
  k : Nat
  block : Nat
  scaled : Bool
  sa : Nat → Byte
  sb : Nat → Byte

/-- The chunk length L. -/
def MxRows.chunk (m : MxRows) : Nat :=
  let l := match etBits m.ea with | 16 => 16 | 4 => 64 | _ => 32
  if m.scaled then min l m.block else l

def MxRows.product (m : MxRows) (k : Nat) : FVal := xmul (mxVal m.ea (rowElem m.ea m.a k)) (mxVal m.eb (rowElem m.eb m.b k))

/-- The rounded sum q of chunk c. -/
def MxRows.chunkSum (m : MxRows) (c : Nat) : FVal :=
  let k0 := c * m.chunk
  let p := xsum false ((List.range (min m.chunk (m.k - k0))).map (fun j => m.product (k0 + j)))
  rmx (if m.scaled then mxScale (mxScale p (m.sa (k0 / m.block))) (m.sb (k0 / m.block)) else p)

/-- The product sum s, as an F32 encoding. -/
def MxRows.sum (m : MxRows) : Nat :=
  let n := (m.k + m.chunk - 1) / m.chunk
  roundMx ((List.range (n - 1)).foldl (fun s c => rmx (xsum false [s, m.chunkSum (c + 1)])) (m.chunkSum 0))

/-- The accumulator word after an operation adds s to it. -/
def mxAccumulate (acc s : Word) : Word :=
  BitVec.ofNat 32 (roundMx (xsum false [fval .f32 acc.toNat, fval .f32 s.toNat]))

/-! ## The shadow check (R207) -/

/-- r, computed one element at a time. -/
def MxRows.shadow (m : MxRows) : FVal :=
  (List.range m.k).foldl (fun r k =>
    let x := mxVal m.ea (rowElem m.ea m.a k)
    let y := mxVal m.eb (rowElem m.eb m.b k)
    if m.scaled then rfma (rmx (mxScale x (m.sa (k / m.block)))) (rmx (mxScale y (m.sb (k / m.block)))) r
    else rfma (rmx x) (rmx y) r) (fval .f32 0)

def FVal.isInf : FVal → Bool
  | .inf _ => true
  | _ => false

def FVal.mag : FVal → FVal
  | .fin _ m e s => .fin false m e s
  | .inf _ => .inf false
  | .nan => .nan

/-- dev, as an F32 encoding (R207). Of two infinities of opposite signs R207 says nothing: dev is then NaN (DESIGN CHOICE, log entry
69). -/
def shadowDev (s r : FVal) : Nat :=
  if s.isNan ∨ r.isNan then qnanF32
  else if s.isInf ∧ r.isInf then (if s = r then 0 else qnanF32)
  else if s.isInf ∨ r.isInf then qnanF32
  else
    let tiny := FVal.fin false 1 (-126) false
    roundMx (xdiv (xsum false [s, r.negate]).mag (if r.mag.lt tiny then tiny else r.mag))

/-- Is the first deviation the greater, counting NaN as greatest? -/
def devAbove (x y : Nat) : Bool :=
  let a := fval .f32 x
  let b := fval .f32 y
  if b.isNan then false else if a.isNan then true else b.lt a

end Sys2Proof.Machine
end

