-- ==== Sys2Proof/Machine/Once.lean ====
section
/-! DEFINITION. Instructions that act once for the issuing gang (spec R186, R212, R310): operands from the lead slice, traps
and results in every slice. -/

namespace Sys2Proof.Machine

open Sys2Proof

/-- Every slice of the gang takes the same trap. -/
def State.gangTrap (s : State) (ms : List Nat) (cause detail : BitVec 8) (lns : BitVec 4) (info0 info1 : Word) : State :=
  (ms.foldl (fun t k => t.trapAt k cause detail lns info0 info1) s).partFrom s ms

/-- An instruction that acts once for the gang: the poison of the lead slice's s registers traps the gang or is recorded in
the lead slice; `go` has the gang and its lead slice. -/
def State.once (s : State) (srcs : List Nat) (go : State → List Nat → Nat → State) : State :=
  let ms := s.members s.cur
  let k := ms.headD 0
  let s1 := s.issued ms
  match (s1.sl k).sPoisons srcs with
  | [] => go s1 ms k
  | p :: r =>
    let s2 := s1.modSl k (fun x => x.recordPoison (p :: r))
    if (s1.sl k).trapOn tePoison then (s2.gangTrap ms causePoison 0 p.lanes (s2.sl k).poison 0).poisonEvent k ((p :: r).any Poison.err)
    else go (s2.errEvent k (p :: r)) ms k

/-- The gang goes on so many bytes further. -/
def State.advance (s : State) (ms : List Nat) (n : Word) : State := (s.modSls ms (fun x => { x with pc := x.pc + n })).part ms

/-- One result to s[d] of every slice of the gang, which goes on. -/
def State.answer (s : State) (ms : List Nat) (d : Nat) (w : Word) : State :=
  (s.modSls ms (fun x => x.sPut d w)).advance ms 4

/-- The clamp of a fence of the gang at issue (R179): the lead slice's TRAPEN or the partition's policy decides the trap. -/
def State.clampOnce (s : State) (ms : List Nat) (k : Nat) (scope : BitVec 3) (info : Word) (go : State → State) : State :=
  if s.clampTraps k scope then s.gangTrap ms causeFenceClamp 0 0xF info 0
  else if s.clamps k scope then go (s.modSls ms (fun x => x.stick stFenceClamped))
  else go s

/-- Every slice of the gang performs a release, or an acquire. -/
def State.releaseAll (s : State) (ms : List Nat) : State := ms.foldl State.release s
def State.acquireAll (s : State) (ms : List Nat) : State := ms.foldl State.acquire s

/-- Has the gang to wait for a release, its clamp done? -/
def State.gangRelWaits (s : State) (scope : BitVec 3) : Bool :=
  let ms := s.members s.cur
  !s.clampTraps (ms.headD 0) scope && ms.any s.relWaits

end Sys2Proof.Machine
end

