-- ==== Sys2Proof/Machine/Waits.lean ====
section
/-! DEFINITION. Waits on counters and tokens, fences, and the byte-counting and team barriers (spec R171, R175 to R180, R254
to R260, R304, R309, R317). -/

namespace Sys2Proof.Machine

open Sys2Proof

/-! ## The end of a wait -/

/-- A wait of the team has ended with its condition met: the watchdog count restarts (R388). -/
def State.waitMet (s : State) (t : Nat) : State := s.modTm t (fun x => { x with wdCount := 0 })

/-- A per-slice wait ends: the slice goes on after its instruction. -/
def State.waitEnds (s : State) (k : Nat) : State :=
  let s1 := ((s.waitOver k).modSl k (fun x => { x with wait := none })).waitMet (s.sl k).team
  s1.finishSlice k ((s1.sl k).pc + 4)

/-- Is the slice there, and does its team run? -/
def State.lives (s : State) (k : Nat) : Bool :=
  (s.slice? k).isSome && !(s.sl k).done && s.teamRuns (s.sl k).team

/-! ## Counters and tokens -/

/-- Every class counter is at or below its limit (R171). -/
def Slice.atLimits (x : Slice) (fl fs cp tl : Nat) : Bool := decide (x.fl ≤ fl ∧ x.fs ≤ fs ∧ x.cp ≤ cp ∧ x.tl ≤ tl)

/-- WAITC (R171). Stalls until each class counter is at or below its limit. -/
def execWaitc (fl fs cp tl : BitVec 6) (s : State) : Host.Outcome State Fault Refusal :=
  .next (s.perSlice (fun t k =>
    if (t.sl k).atLimits fl.toNat fs.toNat cp.toNat tl.toNat then t.finishSlice k ((t.sl k).pc + 4)
    else t.modSl k (fun x => { x with wait := some (.waitc fl.toNat fs.toNat cp.toNat tl.toNat) })))

/-- WAITC_END (R171). A WAITC stall ends when counters fall to their limits. -/
def execWaitcEnd (slice : Nat) (s : State) : Host.Outcome State Fault Refusal :=
  match (s.sl slice).wait with
  | some (.waitc fl fs cp tl) =>
    if s.lives slice ∧ (s.sl slice).atLimits fl fs cp tl then .next (s.waitEnds slice) else .next s
  | _ => .next s

/-- WAITT (R175). Stalls until the masked tokens are done or in error. -/
def execWaitt (mask : BitVec 8) (s : State) : Host.Outcome State Fault Refusal :=
  .next (s.perSlice (fun t k =>
    let tm := (t.sl k).team
    if (t.tm tm).tokensMet mask then t.finishSlice k ((t.sl k).pc + 4)
    else (t.modSl k (fun x => { x with wait := some (.waitt mask) })).startWalk tm k (dieOfCore (coreOfSlice k)) (some k)))

/-- WAITT_END (R175). A WAITT stall ends when its tokens are done or in error. -/
def execWaittEnd (slice : Nat) (s : State) : Host.Outcome State Fault Refusal :=
  match (s.sl slice).wait with
  | some (.waitt mask) =>
    if s.lives slice ∧ (s.tm (s.sl slice).team).tokensMet mask then .next (s.waitEnds slice) else .next s
  | _ => .next s

/-- YIELDT (R176). Leaves the scheduler until the masked tokens are met, then resumes at a label. -/
def execYieldt (mask : BitVec 8) (off : BitVec 12) (s : State) : Host.Outcome State Fault Refusal :=
  let ms := s.members s.cur
  let k := ms.headD 0
  let t := (s.sl s.cur).team
  if (s.tm t).tokensMet mask then .next (s.control [] (fun x => { x with pc := branchTo x.pc off }))
  else .next (((s.issued ms).modSls ms (fun x =>
    { x with wait := some (.yieldt mask (branchTo x.pc off)) })).startWalk t k (dieOfCore (coreOfSlice k)) (some k))

/-- YIELDT_RESUME (R176). A gang in YIELDT resumes at its label once its tokens are met. -/
def execYieldtResume (slice : Nat) (s : State) : Host.Outcome State Fault Refusal :=
  match (s.sl slice).wait with
  | some (.yieldt mask target) =>
    let ms := (s.members slice).filter (fun k => decide ((s.sl k).wait = some (.yieldt mask target)))
    if s.lives slice ∧ (s.tm (s.sl slice).team).tokensMet mask then
      .next (ms.foldl State.waitOver ((s.modSls ms (fun x => { x with wait := none, pc := target })).waitMet (s.sl slice).team))
    else .next s
  | _ => .next s

/-! ## Fences -/

/-- What a fence of a kind does once nothing holds it: 1 acquire, 2 release, 3 both. -/
def State.fenceDone (s : State) (k : Nat) (kind : BitVec 2) : State :=
  let s1 := if kind.getLsbD 1 then s.release k else s
  if kind.getLsbD 0 then s1.acquire k else s1

/-- FENCE (R178). Release, acquire or both at a scope. -/
def execFence (kind : BitVec 2) (scope : BitVec 3) (s : State) : Host.Outcome State Fault Refusal :=
  .next (s.perSlice (fun t k => t.withClamp k scope (ordInfo kind scope) (fun u =>
    if kind.getLsbD 1 && u.relWaits k then u.modSl k (fun x => { x with wait := some (.fence kind) })
    else (u.fenceDone k kind).finishSlice k ((u.sl k).pc + 4))))

/-- FENCE_COMPLETE (R178). A stalled fence completes once earlier accesses are performed. -/
def execFenceComplete (slice : Nat) (s : State) : Host.Outcome State Fault Refusal :=
  match (s.sl slice).wait with
  | some (.fence kind) =>
    if s.lives slice ∧ !s.relWaits slice then .next ((s.fenceDone slice kind).waitEnds slice) else .next s
  | _ => .next s

/-- PFENCE (R180). Later fetches of the slice on the path named see every write before it. -/
def execPfence (path : BitVec 6) (s : State) : Host.Outcome State Fault Refusal :=
  .next (s.perSlice (fun t k => (t.modSl k (fun x =>
    { x with
      codeFence := if path.getLsbD 0 then t.writeNo else x.codeFence
      constFence := if path.getLsbD 1 then t.writeNo else x.constFence })).finishSlice k ((t.sl k).pc + 4)))

/-! ## The barrier word (R254, R255) -/

/-- The 16 bytes of a barrier as one number. -/
abbrev Bar := BitVec 128

def Bar.arr (b : Bar) : Nat := bits b 0 24
def Bar.bytes (b : Bar) : Int := (b.extractLsb' 32 32).toInt
def Bar.count (b : Bar) : Nat := bits b 64 24
def Bar.phase (b : Bar) : Bool := b.getLsbD 96

/-- The initial barrier of a count (R257). -/
def Bar.fresh (n : Nat) : Bar :=
  let c := if n = 0 then 1 else n
  BitVec.ofNat 128 (c + 2 ^ 64 * c + (if n = 0 then 2 ^ 97 else 0))

/-- update(a, t − cr, e) of R255. -/
def Bar.update (b : Bar) (a : Nat) (x : Int) (e : Bool) : Bar :=
  let y := b.bytes + x
  let z := clampInt y (-(2 ^ 31)) (2 ^ 31 - 1)
  let arr := b.arr - a
  let b1 := setBits (setBits b 32 32 (wrap z 32).toNat) 0 24 arr
  let b2 := if z ≠ y then setBit b1 98 true else b1
  let b3 := if b.arr < a then setBit b2 97 true else b2
  let b4 := if e then setBit b3 99 true else b3
  if arr = 0 ∧ z = 0 then setBits (setBit b4 96 (!b.phase)) 0 24 b.count else b4

def State.barAt (s : State) (key : Nat) : Bar := BitVec.ofNat 128 (s.num key 16)
def State.putBar (s : State) (key : Nat) (b : Bar) : State := s.putMem key (natLe 16 b.toNat)

/-- One indivisible update of the barrier at a local address of a core by an agent of R289 for a team, with a new PSTAT
when one is given (R274). What an engine updates is delivered to the core (R342, R387). -/
def State.barUpdate (s : State) (t : Nat) (agent : BitVec 4) (core : Nat) (a : Word) (n : Nat) (x : Int) (e : Bool)
    (pstat : Option Byte) : State :=
  let key := coreKey core a.toNat
  let s1 := s.noteFound t agent (localKey core a.toNat) key 16
  let b := (s1.barAt key).update n x e
  let b1 := match pstat with | some p => setBits b 104 8 p.toNat | none => b
  if agent = 2 then s1.putBar key b1 else s1.deliver key (natLe 16 b1.toNat)

/-! ## Barrier instructions (R256 to R259) -/

/-- The address check of a barrier instruction: 16 bytes aligned to 16, in the team's scratchpad. -/
def State.barChecked (s : State) (k : Nat) (a : Word) (go : State → State) : State :=
  let tm := s.tm (s.sl k).team
  if a.toNat % 16 ≠ 0 then s.trapAt k causeMisalign 0 0xF a 0
  else if a.toNat < tm.spbase ∨ tm.splimit < a.toNat + 16 then s.trapAt k causeLocalBounds 0 0xF a 0
  else go s

/-- Does a barrier instruction wait for its release (R177), its clamp done? -/
def State.barReleases (s : State) (kind : BitVec 2) (scope : BitVec 3) : Bool :=
  kind.getLsbD 1 && s.relWaits s.cur && !s.clampTraps s.cur scope

/-- Does it wait for an earlier far request of the slice to the barrier's bytes (R172)? -/
def State.barBehind (s : State) (a : BitVec 6) : Bool :=
  s.farPending s.cur (coreKey (coreOfSlice s.cur) ((s.sl s.cur).sVal a.toNat).toNat) 16

/-- A barrier instruction of the slice: it reads its registers, clamps, checks its address, and a release
waits first; so does the slice's earlier far access to the same bytes (R172). -/
def State.barOp (s : State) (srcs : List Nat) (a : BitVec 6) (kind : BitVec 2) (scope : BitVec 3)
    (go : State → Nat → Word → State) : State :=
  if s.barReleases kind scope then s.markClamp s.cur scope
  else if s.barBehind a then s
  else s.perSlice (fun t k => t.withPoison k ((t.sl k).sPoisons srcs) (fun u =>
    let ad := (u.sl k).sVal a.toNat
    let act (v : State) : State := v.barChecked k ad (fun z => go (if kind.getLsbD 1 then z.release k else z) k ad)
    if kind = 0 then act u else u.withClamp k scope (ordInfo kind scope) act))

/-- BARINIT (R257). Writes a byte-counting barrier to its initial state. -/
def execBarinit (a b : BitVec 6) (s : State) : Host.Outcome State Fault Refusal :=
  .next (s.barOp [a.toNat, b.toNat] a 0 0 (fun t k ad =>
    (t.putBar (coreKey (coreOfSlice k) ad.toNat) (Bar.fresh (bits ((t.sl k).sVal b.toNat) 0 24))).finishSlice k
      ((t.sl k).pc + 4)))

/-- An update by an instruction of slice k, which goes on. -/
def State.barStep (s : State) (k : Nat) (ad : Word) (n : Nat) (x : Int) : State :=
  (s.barUpdate (s.sl k).team 2 (coreOfSlice k) ad n x false none).finishSlice k ((s.sl k).pc + 4)

/-- BARARR (R258). Releases and arrives once at a barrier. -/
def execBararr (scope : BitVec 3) (a : BitVec 6) (s : State) : Host.Outcome State Fault Refusal :=
  .next (s.barOp [a.toNat] a 2 scope (fun t k ad => t.barStep k ad 1 0))

/-- BARARR_N (R258). Releases and arrives a counted number of times at a barrier. -/
def execBararrN (scope : BitVec 3) (a b : BitVec 6) (s : State) : Host.Outcome State Fault Refusal :=
  .next (s.barOp [a.toNat, b.toNat] a 2 scope (fun t k ad => t.barStep k ad (bits ((t.sl k).sVal b.toNat) 0 24) 0))

/-- BARTX (R258). Declares bytes expected at a barrier. -/
def execBartx (a b : BitVec 6) (s : State) : Host.Outcome State Fault Refusal :=
  .next (s.barOp [a.toNat, b.toNat] a 0 0 (fun t k ad => t.barStep k ad 0 (sext ((t.sl k).sVal b.toNat))))

/-- BARTX_ARR (R258). Declares bytes and arrives in one update after a release. -/
def execBartxArr (scope : BitVec 3) (a b : BitVec 6) (s : State) : Host.Outcome State Fault Refusal :=
  .next (s.barOp [a.toNat, b.toNat] a 2 scope (fun t k ad => t.barStep k ad 1 (sext ((t.sl k).sVal b.toNat))))

/-- BARTRY (R259). Tests a barrier's phase and error bits without waiting. -/
def execBartry (scope : BitVec 3) (d a b : BitVec 6) (s : State) : Host.Outcome State Fault Refusal :=
  .next (s.barOp [a.toNat, b.toNat] a 1 scope (fun t k ad =>
    let s1 := t.noteFound (t.sl k).team 0 (localKey (coreOfSlice k) ad.toNat) (coreKey (coreOfSlice k) ad.toNat) 16
    let w := s1.barAt (coreKey (coreOfSlice k) ad.toNat)
    let passed := w.phase != ((t.sl k).sVal b.toNat).getLsbD 0
    let r := (if passed then 1 else 0) + 2 * bits w 97 3
    let s2 := s1.modSl k (fun x => x.sPut d.toNat (BitVec.ofNat 32 r))
    (if passed then s2.acquire k else s2).finishSlice k ((t.sl k).pc + 4)))

/-! ## Registration (R309, R317, R325) -/

/-- The entry that slice k's wait had before a restore or a swap, to be taken over. -/
def State.waitEntry (s : State) (k : Nat) : Option WftEntry :=
  s.wft.find? (fun e => decide (e.kind = 0 ∧ e.slice = k ∧ e.team = (s.sl k).team))

/-- A wait of slice k, the lead slice of ms, registered on an object. `room` says whether the object's home in another
package has room; `go` stalls the slices under the entry, or under none when the wait is unregistered. -/
def State.registering (s : State) (k : Nat) (ms : List Nat) (obj : DWord) (src : BitVec 3) (room : Bool)
    (go : State → Option WftEntry → State) : State :=
  let t := (s.sl k).team
  let own := dieOfCore (coreOfSlice k)
  let die := ((s.entryOf t obj 0 src k).die).getD own
  let walk (u : State) : State := u.startWalk t k die (some k)
  match s.waitEntry k with
  | some e =>
    walk (go ((s.bringBack e.id).touchEntry e.id (fun x => { x with obj := obj, src := src })) (some e))
  | none =>
    match (if room then s.addEntry (s.entryOf t obj 0 src k) else none) with
    | some r => walk (go r.1 (r.1.wft.find? (fun e => decide (e.id = r.2))))
    | none =>
      let s1 := (if room then s.wftOverflow die else s).modSls ms (fun x => x.stick stWftUnreg)
      if (s.sl k).trapOn teWftOverflow then s1.gangTrap ms causeWftOverflow 0 0xF (loWord obj) (hiWord obj)
      else go s1 none

/-- BARWAIT (R259). Stalls while the barrier's phase equals the given parity, then acquires. -/
def execBarwait (scope : BitVec 3) (a b : BitVec 6) (s : State) : Host.Outcome State Fault Refusal :=
  .next (s.barOp [a.toNat, b.toNat] a 1 scope (fun t k ad =>
    let core := coreOfSlice k
    let s1 := t.noteFound (t.sl k).team 0 (localKey core ad.toNat) (coreKey core ad.toNat) 16
    let parity := ((t.sl k).sVal b.toNat).getLsbD 0
    if (s1.barAt (coreKey core ad.toNat)).phase != parity then
      ((s1.acquire k).waitOver k).finishSlice k ((t.sl k).pc + 4)
    else s1.registering k [k] (localKey core ad.toNat) 0 true (fun u e => u.modSl k (fun x =>
      { x with wait := some (.barwait ad parity scope (e.map WftEntry.id) (u.cycle + 64) 64) }))))

/-- A barrier wait of slice k looks at its barrier again. -/
def State.barwaitMet (s : State) (k : Nat) (ad : Word) (parity : Bool) : Bool :=
  (s.barAt (coreKey (coreOfSlice k) ad.toNat)).phase != parity

/-- BARWAIT_END (R259). A stalled barrier wait sees the phase change and acquires. -/
def execBarwaitEnd (slice : Nat) (s : State) : Host.Outcome State Fault Refusal :=
  match (s.sl slice).wait with
  | some (.barwait ad parity _ (some _) _ _) =>
    if s.lives slice ∧ s.barwaitMet slice ad parity then .next ((s.acquire slice).waitEnds slice) else .next s
  | _ => .next s

/-! ## The team barrier (R260) -/

/-- Have all non-exited slices of the team arrived? -/
def State.allArrived (s : State) (t : Nat) : Bool :=
  let live := (s.tm t).slices.filter (fun k => !(s.sl k).done)
  decide (live ≠ []) && live.all (fun k => (s.tm t).arrived.contains k)

/-- Slices of a team that stall in a registered TSYNC. -/
def State.tsyncWaiters (s : State) (t : Nat) : List Nat :=
  (s.tm t).slices.filter (fun k => match (s.sl k).wait with
    | some (.tsync _ (some _) _ _) => true
    | _ => false)

/-- The team barrier completes: the set is cleared and the waiting slices acquire and go on; an unregistered waiter finds it
when it looks again (R317). -/
def State.tsyncRelease (s : State) (t : Nat) : State :=
  (s.tsyncWaiters t).foldl (fun u k => (u.acquire k).waitEnds k) (s.modTm t (fun x => { x with arrived := [] }))

/-- TSYNC (R260). Arrives at the team barrier and waits for every non-exited slice. -/
def execTsync (scope : BitVec 3) (s : State) : Host.Outcome State Fault Refusal :=
  if s.relWaits s.cur ∧ !s.clampTraps s.cur scope then .next (s.markClamp s.cur scope)
  else .next (s.perSlice (fun t k => t.withClamp k scope (ordInfo 3 scope) (fun u =>
    let tm := (u.sl k).team
    let arrive (v : State) : State :=
      (v.release k).modTm tm (fun x => { x with arrived := if x.arrived.contains k then x.arrived else x.arrived ++ [k] })
    if (arrive u).allArrived tm then
      (((((arrive u).tsyncRelease tm).acquire k).waitOver k).finishSlice k ((u.sl k).pc + 4))
    else u.registering k [k] (tsyncKey tm) 1 true (fun v e => (arrive v).modSl k (fun x =>
      { x with wait := some (.tsync scope (e.map WftEntry.id) (v.cycle + 64) 64) })))))

/-- TSYNC_COMPLETE (R260). All non-exited slices have arrived and the team barrier releases. -/
def execTsyncComplete (team : Nat) (s : State) : Host.Outcome State Fault Refusal :=
  if s.allArrived team ∧ s.teamRuns team then .next (s.tsyncRelease team) else .next s

end Sys2Proof.Machine
end

