-- ==== Sys2Proof/Machine/Matrix.lean ====
section
/-! DEFINITION. Tile descriptors, tile moves, the matrix FIFO, batches and the shadow check (spec R182 to R208). -/

namespace Sys2Proof.Machine

open Sys2Proof

/-! ## Descriptors (R185) -/

def Team.desc (t : Team) (j : Nat) : Desc := aget 0 t.md j

/-- An instruction that names descriptor j, which the team must own. -/
def State.onDesc (s : State) (srcs : List Nat) (j : Nat) (go : State → List Nat → Nat → State) : State :=
  s.once srcs (fun u ms k =>
    if (u.tm (u.sl k).team).tiles.length ≤ j then u.gangTrap ms causeAccRange 1 0xF (BitVec.ofNat 32 j) 0
    else go u ms k)

/-- Descriptor j written. -/
def State.putDesc (s : State) (t j : Nat) (w : DWord) : State := s.modTm t (fun x => { x with md := aset 0 x.md j (descWrite w) })

/-- TSET (R185). Writes a whole tile descriptor from two scalar registers. -/
def execTset (j a b : BitVec 6) (s : State) : Host.Outcome State Fault Refusal :=
  .next (s.onDesc [a.toNat, b.toNat] j.toNat (fun u ms k =>
    (u.putDesc (u.sl k).team j.toNat (pair ((u.sl k).sVal b.toNat) ((u.sl k).sVal a.toNat))).advance ms 4))

/-- TSET_LO (R185). Writes the low word of a tile descriptor. -/
def execTsetLo (j a : BitVec 6) (s : State) : Host.Outcome State Fault Refusal :=
  .next (s.onDesc [a.toNat] j.toNat (fun u ms k =>
    let t := (u.sl k).team
    (u.putDesc t j.toNat (pair (hiWord ((u.tm t).desc j.toNat)) ((u.sl k).sVal a.toNat))).advance ms 4))

/-- TSET_HI (R185). Writes the high word of a tile descriptor. -/
def execTsetHi (j a : BitVec 6) (s : State) : Host.Outcome State Fault Refusal :=
  .next (s.onDesc [a.toNat] j.toNat (fun u ms k =>
    let t := (u.sl k).team
    (u.putDesc t j.toNat (pair ((u.sl k).sVal a.toNat) (loWord ((u.tm t).desc j.toNat)))).advance ms 4))

/-- TGET (R185). Reads the low word of a tile descriptor. -/
def execTget (d j : BitVec 6) (s : State) : Host.Outcome State Fault Refusal :=
  .next (s.onDesc [] j.toNat (fun u ms k => u.answer ms d.toNat (loWord ((u.tm (u.sl k).team).desc j.toNat))))

/-- TGET_HI (R185). Reads the high word of a tile descriptor. -/
def execTgetHi (d j : BitVec 6) (s : State) : Host.Outcome State Fault Refusal :=
  .next (s.onDesc [] j.toNat (fun u ms k => u.answer ms d.toNat (hiWord ((u.tm (u.sl k).team).desc j.toNat))))

/-! ## Long instructions that act once for the gang (R186) -/

/-- The members of a gang with a lane active under a predicate. -/
def State.activeOf (s : State) (i : Instr) (ms : List Nat) : List Nat :=
  ms.filter (fun k => decide ((s.sl k).lanesOn (predOf i).1 (predOf i).2 ≠ 0))

/-- The virtual lanes of a gang that are active, or in k0 (R148). -/
def State.vlanes (s : State) (ms : List Nat) (m : Slice → BitVec 4) : List Nat :=
  ms.flatMap (fun k => (lanes.filter (fun l => (m (s.sl k)).getLsbD l)).map (fun l => 4 * posIn k ms + l))

/-- s registers of a long instruction's sources. -/
def scalarSrcs (i : Instr) : List Nat :=
  (sources i).flatMap (fun o => if o.kind = .s then (List.range o.regs).map (fun n => o.idx + n) else [])

/-- A long instruction that acts once: poison of the lead slice first; with no lane active it has no effect; a failed
constant read traps every slice. `go` has the words of A, B and C. -/
def State.onceLong (s : State) (i : Instr)
    (go : State → List Nat → Nat → (Nat → Word) → State) : State :=
  let s1 := s.charge i (s.members s.cur)
  s1.once (scalarSrcs i) (fun u ms k =>
    if u.activeOf i ms = [] then u.advance ms 12
    else match (if constsOf i = [] then .ok ([], u) else u.fetchConsts (u.constFence ms) (u.sl k).team (constsOf i)) with
      | .error e => (ms.foldl (fun t j => t.constTrap j e) (u.fetchEvent (u.sl k).team e)).partFrom u ms
      | .ok (cs, v) => go v ms k (fun p => loWord (srcAt i (v.sl k) cs 0 p)))

/-! ## Tile moves (R187 to R190) -/

/-- A row's address. -/
def rowAddr (base stride : Word) (r : Nat) : Word := wrap (base.toNat + (r : Int) * sext stride) 32

/-- How many rows in scratchpad a move has, and the bytes of each. -/
def moveRows (kind : MoveKind) (d : Desc) : Nat × Nat :=
  match kind with
  | .ttrans => (d.cols, elemBytes d.etype d.rows)
  | _ => (d.rows, elemBytes d.etype d.cols)

/-- A tile move at issue (R189). It has no lane whose address R227 would put in INFO0: MISALIGN has the base there, and LOCAL_BOUNDS the
address of the first row that fails (DESIGN CHOICE, log entry 68). -/
def State.tileMove (s : State) (i : Instr) (f : Long) (kind : MoveKind) : State :=
  let ms0 := s.members s.cur
  if (s.activeOf i ms0).any (fun k => decide (63 ≤ (s.sl k).tl)) then s
  else s.onceLong i (fun u ms k arg =>
    let t := (u.sl k).team
    let tm := u.tm t
    let j := bits f.ext8 0 4
    let d := tm.desc j
    let base := arg 0
    let stride := arg 1
    if tm.tiles.length ≤ j ∨ !d.valid then u.gangTrap ms causeAccRange 1 0xF (BitVec.ofNat 32 j) 0
    else if base.toNat % 4 ≠ 0 ∨ stride.toNat % 4 ≠ 0 then u.gangTrap ms causeMisalign 0 0xF base 0
    else
      let (n, w) := moveRows kind d
      match ((List.range n).map (rowAddr base stride)).find? (fun a => decide (a.toNat < tm.spbase ∨ tm.splimit < a.toNat + w)) with
      | some a => u.gangTrap ms causeLocalBounds 0 0xF a 0
      | none =>
        let act := u.activeOf i ms
        let move : TileMove := ⟨u.nextId, t, kind, base, stride, d, tm.tiles.getD j 0, act, u.nextSeq⟩
        (({ u with nextId := u.nextId + 1, nextSeq := u.nextSeq + 1, moves := u.moves ++ [move] }).modSls act
          (fun x => { x with tl := x.tl + 1 })).advance ms 12)

/-- TLD (R188). Loads a tile from scratchpad rows. -/
def execTld (f : Long) (s : State) : Host.Outcome State Fault Refusal := .next (s.tileMove (.tld f) f .tld)

/-- TST (R188). Stores a tile to scratchpad rows. -/
def execTst (f : Long) (s : State) : Host.Outcome State Fault Refusal := .next (s.tileMove (.tst f) f .tst)

/-- TTRANS (R188). Loads a tile transposed. -/
def execTtrans (f : Long) (s : State) : Host.Outcome State Fault Refusal := .next (s.tileMove (.ttrans f) f .ttrans)

/-- Bytes of tile memory where an element's bits lie, with the element laid in: 4-bit elements keep the other half. -/
def State.putElem (s : State) (key e c x : Nat) : State :=
  match etBits e with
  | 16 => s.putMem (key + 2 * c) (natLe 2 x)
  | 4 =>
    let old := s.num (key + c / 2) 1
    s.putMem (key + c / 2) [BitVec.ofNat 8 (if c % 2 = 0 then old / 16 * 16 + x % 16 else old % 16 + x % 16 * 16)]
  | _ => s.putMem (key + c) (natLe 1 x)

/-- The data of a move, row by row (R188). A poisoned word of the scratchpad that TLD or TTRANS is the first to read appends an event of
AGENT 9 with the address of the row and TAG 0; TST of a poisoned tile row appends none, and carries POISON_WORD on (DEDUCED from R204 and R292,
log entry 26). -/
def State.moveData (s : State) (m : TileMove) : State :=
  let core := coreOfTeam m.team
  let (n, w) := moveRows m.kind m.desc
  let src (r : Nat) : Nat := coreKey core (rowAddr m.base m.stride r).toNat
  let found (u : State) (r : Nat) : State := u.noteFound m.team 9 (localKey core (rowAddr m.base m.stride r).toNat) (src r) w
  (List.range n).foldl (fun u r =>
    match m.kind with
    | .tld => (found u r).putMem (tileKey core m.tile (128 * r)) (u.bytes (src r) w)
    | .tst => u.putMem (src r) (u.bytes (tileKey core m.tile (128 * r)) w)
    | .ttrans =>
      let row := u.bytes (src r) w
      (List.range (Desc.rows m.desc)).foldl (fun v x =>
        v.putElem (tileKey core m.tile (128 * x)) (Desc.etype m.desc) r (rowElem (Desc.etype m.desc) row x)) (found u r)) s

/-! ## Entries of the FIFO (R195 to R199) -/

/-- Physical tiles that an entry's operation has still to read. -/
def MatEntry.unread (e : MatEntry) : List Nat :=
  if e.started then []
  else match e.op with
    | .mma _ _ _ a b _ _ => [a, b]
    | .fill _ _ => []
    | .gangPart _ _ _ _ _ a _ => [a]

/-- The entries on a core's FIFO. -/
def State.fifo (s : State) (core : Nat) : List MatEntry := s.entries.filter (fun e => decide (coreOfTeam e.team = core))

/-- Must a move wait for earlier work on its tile (R202)? -/
def State.moveWaits (s : State) (m : TileMove) : Bool :=
  let core := coreOfTeam m.team
  s.moves.any (fun o => decide (coreOfTeam o.team = core ∧ o.tile = m.tile ∧ o.seq < m.seq)) ||
    (decide (m.kind ≠ .tst) && (s.fifo core).any (fun e => decide (e.seq < m.seq) && e.unread.contains m.tile))

/-- A tile move that need not wait moves its bytes and is over: all of them at one instant, where R203 fixes only that each word is
taken whole (DESIGN CHOICE, log entry 8). -/
def State.endMove (s : State) (move : Nat) : State :=
  match s.moves.find? (fun m => decide (m.id = move)) with
  | none => s
  | some m =>
    if s.moveWaits m then s
    else ((({ s with moves := s.moves.filter (fun x => decide (x.id ≠ move)) }).moveData m).modSls m.members
      (fun x => { x with tl := x.tl - 1 }))

/-- TILE_MOVE_DONE (R190). A tile move writes its last byte and releases tile counts. -/
def execTileMoveDone (move : Nat) (s : State) : Host.Outcome State Fault Refusal := .next (s.endMove move)

/-- Physical scale unit of a team's scale offset, as a number of the core's units (R191). -/
def Team.unitAt (t : Team) (off : Nat) : Nat := 4 * t.tiles.getD (off / 512) 0 + off % 512 / 128

/-- The first scale offset of an operand that is misaligned, beyond the team's tiles, or not valid (R195). -/
def Team.badUnit (t : Team) (d : Desc) : Option Nat :=
  d.scaleOffs.find? (fun o => decide (o % 128 ≠ 0) || decide (512 * t.tiles.length < o + 128) || !t.scaleValid.getLsbD (o / 128))

/-- Is the type block-scalable (R194)? -/
def scalable (e : Nat) : Bool := [12, 13, 14].contains e

/-- A check that failed: cause, step, and the index, offset or address. -/
structure CheckFail where
  cause : BitVec 8
  step : Nat
  info : Word
  deriving DecidableEq, Repr

/-- Steps 1 and 2 of R195 for the tiles of a team; without a tile A only B is checked. Where the columns
or types of the two tiles do not match, INFO0 names tile A, and where a type is not scalable or the blocks differ, it is SOFF of B
(DESIGN CHOICE, log entry 68). -/
def Team.pairCheck (t : Team) (a : Option Nat) (b : Nat) (scaled : Bool) : Option CheckFail :=
  let range (j : Nat) : Option CheckFail :=
    if t.tiles.length ≤ j ∨ !(t.desc j).valid then some ⟨causeAccRange, 1, BitVec.ofNat 32 j⟩ else none
  let db := t.desc b
  let scale (ds : List Desc) (blkOk : Bool) : Option CheckFail :=
    if !scaled then none
    else if !ds.all (fun d => scalable d.etype) ∨ !blkOk then some ⟨causeScaleLayout, 2, BitVec.ofNat 32 db.soff⟩
    else (ds.findSome? t.badUnit).map (fun o => ⟨causeScaleLayout, 2, BitVec.ofNat 32 o⟩)
  match a with
  | none => (range b).or (scale [db] true)
  | some ja =>
    let da := t.desc ja
    (range ja).or ((range b).or
      (if da.cols ≠ db.cols ∨ !mxPair da.etype db.etype then some ⟨causeAccRange, 1, BitVec.ofNat 32 ja⟩
      else scale [da, db] (da.blk == db.blk)))

/-- Step 3 of R195: the accumulator's alignment and the bytes of its rows. -/
def Team.accCheck (t : Team) (acc : Word) (rows : List Nat) (n : Nat) : Option CheckFail :=
  if acc.toNat % 128 ≠ 0 then some ⟨causeAccRange, 3, acc⟩
  else (rows.find? (fun i => decide (acc.toNat + 128 * i < t.spbase ∨ t.splimit < acc.toNat + 128 * i + 4 * n))).map
    (fun i => ⟨causeAccRange, 3, acc + BitVec.ofNat 32 (128 * i)⟩)

/-- The gang traps for a failed check. -/
def State.checkTrap (s : State) (ms : List Nat) (c : CheckFail) : State :=
  s.gangTrap ms c.cause (BitVec.ofNat 8 c.step) 0xF c.info 0

/-- One entry posted; `n` is SHADOW of the partition at the issue of its instruction. -/
def State.post (s : State) (t n : Nat) (op : MatOp) (acc : Word) (rows : List Nat) : State :=
  { s with
    nextId := s.nextId + 1, nextSeq := s.nextSeq + 1
    entries := s.entries ++ [⟨s.nextId, t, op, acc, rows, s.nextSeq, false, [], [], none, n⟩] }

/-- An entry posted by the team's own gang joins the open set (R200). -/
def State.postOpen (s : State) (t : Nat) (op : MatOp) (acc : Word) (rows : List Nat) : State :=
  (s.post t (s.pt (s.tm t).part).shadowExp op acc rows).modTm t (fun x => { x with openSet := x.openSet ++ [s.nextId] })

/-- Is the core's FIFO full (R198)? -/
def State.fifoFull (s : State) (core : Nat) : Bool := decide (16 ≤ (s.fifo core).length)

/-- Does the gang stall at an entry of its own, for want of room in the FIFO (R198)? One with no lane active posts none. -/
def State.fifoStall (s : State) (i : Instr) : Bool :=
  s.fifoFull (coreOfSlice s.cur) && decide (s.activeOf i (s.members s.cur) ≠ [])

/-- MMA and MMAS at issue. -/
def State.matMul (s : State) (i : Instr) (f : Long) (scaled : Bool) : State :=
  if s.fifoStall i then s
  else s.onceLong i (fun u ms k arg =>
    let t := (u.sl k).team
    let tm := u.tm t
    let a := bits f.ext8 0 4
    let b := bits f.ext8 4 4
    match tm.pairCheck (some a) b scaled with
    | some c => u.checkTrap ms c
    | none =>
      let da := tm.desc a
      let db := tm.desc b
      let rows := (u.vlanes ms (fun x => x.lanesOn f.pk f.pn)).filter (fun r => decide (r < da.rows))
      if rows = [] then u.advance ms 12
      else match tm.accCheck (arg 0) rows db.rows with
        | some c => u.checkTrap ms c
        | none => (u.postOpen t (.mma scaled da db (tm.tiles.getD a 0) (tm.tiles.getD b 0)
            (if scaled then da.scaleOffs.map tm.unitAt else []) (if scaled then db.scaleOffs.map tm.unitAt else []))
            (arg 0) rows).advance ms 12)

/-- MMA (R195). Posts a matrix multiply-accumulate to the FIFO. -/
def execMma (f : Long) (s : State) : Host.Outcome State Fault Refusal := .next (s.matMul (.mma f) f false)

/-- MMAS (R195). Posts a block-scaled matrix multiply-accumulate. -/
def execMmas (f : Long) (s : State) : Host.Outcome State Fault Refusal := .next (s.matMul (.mmas f) f true)

/-- AFILL (R199). Posts a fill of accumulator elements with a word. -/
def execAfill (f : Long) (s : State) : Host.Outcome State Fault Refusal :=
  if s.fifoStall (.afill f) then .next s
  else .next (s.onceLong (.afill f) (fun u ms k arg =>
    let t := (u.sl k).team
    let rows := u.vlanes ms (fun x => x.lanesOn f.pk f.pn)
    let n := bits f.ext8 0 5 + 1
    match (u.tm t).accCheck (arg 0) rows n with
    | some c => u.checkTrap ms c
    | none => (u.postOpen t (.fill (arg 1) n) (arg 0) rows).advance ms 12))

/-! ## Execution of entries (R197, R198, R204, R271) -/

/-- A memory event of the matrix engine for poisoned words of a structure, first reads only (R204, R289). -/
def State.matErr (s : State) (t struct unit key n : Nat) (addr : DWord) : State :=
  s.noteFoundTag t 9 addr (BitVec.ofNat 20 (struct + 16 * unit)) key n

/-- Does a range of memory hold a poisoned word? -/
def State.anyPoison (s : State) (key n : Nat) : Bool :=
  decide (s.poisoned ≠ []) && (List.range (n / 4 + 2)).any (fun j => decide (4 * (key / 4 + j) < key + n) &&
    s.isPoisoned (4 * (key / 4 + j)))

/-- The operands of a product as they are read when an entry starts: a tile's bytes and its scale units' bytes. -/
structure TileRead where
  bytes : List Byte
  scales : List Byte
  deadRows : List Nat             -- rows that an uncorrectable error met
  deriving DecidableEq, Repr

/-- A tile of a core read with the units named. -/
def State.readTile (s : State) (core tile : Nat) (d : Desc) (units : List Nat) : TileRead :=
  let w := elemBytes d.etype d.cols
  { bytes := s.bytes (tileKey core tile 0) 4096
    scales := units.flatMap (fun u => s.bytes (scaleKey core u 0) 128)
    deadRows := (List.range d.rows).filter (fun r => s.anyPoison (tileKey core tile (128 * r)) w ||
      units.any (fun u => s.anyPoison (scaleKey core u (16 * (r % 8) + 4 * (r / 8))) 4)) }

/-- Its errors reported, those of the rows that are read (R196). -/
def State.tileErrs (s : State) (t core tile : Nat) (d : Desc) (units : List Nat) : State :=
  let w := elemBytes d.etype d.cols
  units.foldl (fun u x => (List.range d.rows).foldl (fun v r => v.matErr t 2 x (scaleKey core x (16 * (r % 8) + 4 * (r / 8))) 4 0) u)
    ((List.range d.rows).foldl (fun u r => u.matErr t 1 tile (tileKey core tile (128 * r)) w 0) s)

/-- Two rows of an operation. -/
def mxRows (da db : Desc) (scaled : Bool) (a b : TileRead) (i n : Nat) : MxRows :=
  { ea := da.etype, eb := db.etype, a := (a.bytes.drop (128 * i)).take 128, b := (b.bytes.drop (128 * n)).take 128
    k := da.cols, block := da.block, scaled := scaled, sa := scaleByte a.scales i, sb := scaleByte b.scales n }

/-- The elements of rows and of columns 0 to n − 1. -/
def elemsOf (rows : List Nat) (n : Nat) : List (Nat × Nat) := rows.flatMap (fun i => (List.range n).map (fun c => (i, c)))

/-- The next sequence number of the core's products, and whether it is selected (R207). The first is 1 (DEDUCED, log entry 55). -/
def State.countProduct (s : State) (core n : Nat) : State × DWord × Bool :=
  let q := (s.co core).matSeq + 1
  (s.modCo core (fun c => { c with matSeq := q }), q, decide (n ≠ 0 ∧ q.toNat % 2 ^ n = 0))

/-- The team whose gang issued an entry: that of the ganged operation for a partner's part (R208, R264). -/
def State.issuerOf (s : State) (e : MatEntry) : Nat :=
  match e.op with
  | .gangPart op _ _ _ _ _ _ => match s.gangOps.find? (fun g => decide (g.id = op)) with
    | some g => g.team
    | none => e.team
  | _ => e.team

/-- A product computed: the entry with its sums, the elements an error met, and its selection for the shadow check. -/
def State.compute (s : State) (e : MatEntry) (kind : Nat) (scaled : Bool) (da db : Desc) (a b : TileRead) : State :=
  let core := coreOfTeam e.team
  if e.rows = [] then { s with entries := s.entries.map (fun x => if x.id = e.id then { x with started := true } else x) }
  else
    let (s1, q, sel) := s.countProduct core e.shadowExp
    let es := elemsOf e.rows db.rows
    let res : Assoc Word := es.foldl (fun m c =>
      aput m (32 * c.1 + c.2) (BitVec.ofNat 32 (mxRows da db scaled a b c.1 c.2).sum)) []
    let dead := (es.filter (fun c => a.deadRows.contains c.1 || b.deadRows.contains c.2)).map (fun c => 32 * c.1 + c.2)
    let job : ShadowJob := ⟨q, s.issuerOf e, (s.tm e.team).part, (s.tm e.team).job, (s.tm e.team).gen, BitVec.ofNat 2 kind, scaled, da, db, e.rows, a.bytes, b.bytes, a.scales, b.scales, res⟩
    { s1 with entries := s1.entries.map (fun x => if x.id = e.id then
        { x with started := true, result := res, dead := dead, shadow := if sel then some job else none } else x) }

/-- The ganged operation whose issuer's entry this is. -/
def State.gangOfEntry (s : State) (id : Nat) : Option GangOp := s.gangOps.find? (fun g => decide (g.entry = id))

/-- The issuer's entry sends B and its scales to its partners (R271). -/
def State.sendB (s : State) (id : Nat) (b : TileRead) : State :=
  { s with gangOps := s.gangOps.map (fun g =>
      if g.entry = id then { g with sent := true, bBytes := b.bytes, bScales := b.scales, bDead := b.deadRows } else g) }

/-- Can the entry start: earlier ones of its core have started, and earlier moves into its tiles are complete (R198)? -/
def State.entryReady (s : State) (e : MatEntry) : Bool :=
  let core := coreOfTeam e.team
  !e.started && (s.fifo core).all (fun x => x.started || decide (e.seq ≤ x.seq)) &&
    s.moves.all (fun m => !(decide (coreOfTeam m.team = core ∧ m.seq < e.seq ∧ m.kind ≠ .tst) && e.unread.contains m.tile))

/-- Cycles for which an entry computes (R198, R271). -/
def MatEntry.cycles (e : MatEntry) : Nat :=
  let mul (d : Desc) : Nat := if e.rows = [] then 2 else max 2 ((d.cols * etBits d.etype + 63) / 64)
  match e.op with
  | .fill _ _ => 1
  | .mma _ da _ _ _ _ _ => mul da
  | .gangPart _ _ _ da _ _ _ => mul da

/-- An entry that is ready starts computing. -/
def State.startEntry (s : State) (entry : Nat) : State :=
  match s.entries.find? (fun e => decide (e.id = entry)) with
  | none => s
  | some e =>
    let core := coreOfTeam e.team
    if !s.entryReady e then s
    else
      let s := s.engineCharge (clusterOfCore core) 56 e.cycles
      match e.op with
      | .fill v n =>
        { s with entries := s.entries.map (fun x => if x.id = entry then
          { x with started := true, result := (elemsOf e.rows n).foldl (fun m c => aput m (32 * c.1 + c.2) v) [] } else x) }
      | .mma scaled da db ta tb ua ub =>
        let a := s.readTile core ta da ua
        let b := s.readTile core tb db ub
        let s1 := (if e.rows = [] then s else s.tileErrs e.team core ta da ua).tileErrs e.team core tb db ub
        let kind := if (s.gangOfEntry entry).isSome then 2 else if scaled then 1 else 0
        (s1.compute e kind scaled da db a b).sendB entry b
      | .gangPart op _ scaled da db ta ua =>
        let a := s.readTile core ta da ua
        let begun : State := { s with entries := s.entries.map (fun x => if x.id = entry then { x with started := true } else x) }
        match s.gangOps.find? (fun g => decide (g.id = op)) with
        | none => begun
        | some g => if e.rows = [] then begun else (s.tileErrs e.team core ta da ua).compute e 2 scaled da db a ⟨g.bBytes, g.bScales, g.bDead⟩

/-- The partition of an entry. -/
def State.entryPart (s : State) (entry : Nat) : Nat :=
  match s.entries.find? (fun e => decide (e.id = entry)) with
  | none => 0
  | some e => (s.tm e.team).part

/-- MATRIX_ENTRY_START (R198). A FIFO entry starts computing once the previous computation and its tile moves end. -/
def execMatrixEntryStart (entry : Nat) (s : State) : Host.Outcome State Fault Refusal :=
  if s.withheld (s.entryPart entry) ∨ !s.engineOn (s.entryPart entry) then .next s else .next (s.startEntry entry)

/-! ## Batches (R200, R201) -/

/-- A batch that has no operation left finishes: its arrivals, then its token. -/
def State.finishBatch (s : State) (b : Batch) : State :=
  let s1 := { s with batches := s.batches.filter (fun x => decide (x.id ≠ b.id)) }
  let s2 := match b.arr with
    | some (a, n) => s1.barUpdate b.team 9 (coreOfTeam b.team) a n.toNat 0 false none
    | none => s1
  s2.finishToken b.team b.token 0

/-- An operation leaves the open set and the batches it belongs to; batches that are empty finish. -/
def State.opOver (s : State) (t id : Nat) : State :=
  let drop (l : List Nat) : List Nat := l.filter (fun x => decide (x ≠ id))
  let bs : List Batch := s.batches.map (fun (b : Batch) => { b with members := drop b.members })
  let s1 : State := { (s.modTm t (fun x => { x with openSet := drop x.openSet })) with batches := bs }
  (s1.batches.filter (fun b => decide (b.members = []))).foldl State.finishBatch s1

/-- The effect of MBATCH. -/
def State.closeSet (s : State) (ms : List Nat) (t j : Nat) (arr : Option (Word × Word)) : State :=
  let b : Batch := ⟨s.nextId, t, j, (s.tm t).openSet, arr⟩
  let s1 := ({ s with nextId := s.nextId + 1, batches := s.batches ++ [b] }.bindToken t j).modTm t
    (fun x => { x with openSet := [] })
  (if b.members = [] then s1.finishBatch b else s1).advance ms 4

/-- Is a token's count at its limit, so that a binding stalls (R173)? -/
def State.tokenFull (s : State) (j : Nat) : Bool := decide (65535 ≤ ((s.tm (s.sl s.cur).team).token j).count)

/-- MBATCH (R200). Closes the team's open set of matrix operations into a batch on a token. -/
def execMbatch (j : BitVec 3) (s : State) : Host.Outcome State Fault Refusal :=
  if s.tokenFull j.toNat then .next s
  else .next (s.once [] (fun u ms k => u.closeSet ms (u.sl k).team j.toNat none))

/-- The address check of a barrier for the whole gang (R256, R200). -/
def State.gangBar (s : State) (ms : List Nat) (k : Nat) (a : Word) (step : BitVec 8) (go : State → State) : State :=
  let tm := s.tm (s.sl k).team
  if a.toNat % 16 ≠ 0 then s.gangTrap ms causeMisalign step 0xF a 0
  else if a.toNat < tm.spbase ∨ tm.splimit < a.toNat + 16 then s.gangTrap ms causeLocalBounds step 0xF a 0
  else go s

/-- MBATCH_ARR (R200). Closes a batch that also arrives at a barrier when it finishes. -/
def execMbatchArr (j : BitVec 3) (a b : BitVec 6) (s : State) : Host.Outcome State Fault Refusal :=
  if s.tokenFull j.toNat then .next s
  else .next (s.once [a.toNat, b.toNat] (fun u ms k =>
    u.gangBar ms k ((u.sl k).sVal a.toNat) 0 (fun v =>
      v.closeSet ms (v.sl k).team j.toNat (some ((v.sl k).sVal a.toNat, (v.sl k).sVal b.toNat)))))

/-! ## Write-back (R197, R198, R204, R207) -/

/-- The accumulator words of an entry written: all of them at one instant, where R203 fixes only that each word is
taken whole (DESIGN CHOICE, log entry 8). -/
def State.writeBack (s : State) (e : MatEntry) : State :=
  let core := coreOfTeam e.team
  let isFill := match e.op with | .fill _ _ => true | _ => false
  e.result.foldl (fun u c =>
    let off := e.acc.toNat + 128 * (c.1 / 32) + 4 * (c.1 % 32)
    let key := coreKey core off
    if isFill then u.putWord key c.2
    else if e.dead.contains c.1 ∨ u.isPoisoned key then
      (u.matErr e.team 3 0 key 4 (localKey core off)).putWord key poisonWord
    else u.putWord key (mxAccumulate (u.word key) c.2)) s

/-- A selected operation goes to the shadow unit, or is skipped when it is busy. -/
def State.toShadow (s : State) (e : MatEntry) : State :=
  match e.shadow with
  | none => s
  | some j => s.modCo (coreOfTeam e.team) (fun c =>
      if c.shadow.isSome then { c with skip := min 255 (c.skip + 1) } else { c with shadow := some j })

/-- A delivered part is complete: its position has status 01 (R272). -/
def State.partOver (s : State) (e : MatEntry) : State :=
  match e.op with
  | .gangPart op pos _ _ _ _ _ =>
    { s with gangOps := s.gangOps.map (fun g => if g.id = op then { g with status := aput g.status pos 1 } else g) }
  | _ => s

/-- An entry that has computed, the oldest of its core, writes back and is over. -/
def State.endEntry (s : State) (entry : Nat) : State :=
  match s.entries.find? (fun e => decide (e.id = entry)) with
  | none => s
  | some e =>
    if !e.started ∨ (s.fifo (coreOfTeam e.team)).any (fun x => decide (x.seq < e.seq)) then s
    else
      let s1 := (s.writeBack e).toShadow e
      ((({ s1 with entries := s1.entries.filter (fun x => decide (x.id ≠ entry)) }).partOver e).opOver e.team entry)

/-- MATRIX_WRITEBACK_END (R198). An entry's accumulator write-back ends and frees its FIFO entry. -/
def execMatrixWritebackEnd (entry : Nat) (s : State) : Host.Outcome State Fault Refusal := .next (s.endEntry entry)

/-! ## The shadow check (R207, R208) -/

/-- One checked element: row, column, s, r and dev. -/
structure Checked where
  row : Nat
  col : Nat
  eng : Word
  ref : Nat
  dev : Nat
  deriving DecidableEq, Repr

/-- The element of greatest deviation, the first among equals. -/
def worst : List Checked → Option Checked
  | [] => none
  | c :: r => match worst r with
    | none => some c
    | some d => if devAbove d.dev c.dev then some d else some c

/-- The elements of a selected operation, checked in order of row and column. -/
def ShadowJob.check (j : ShadowJob) : List Checked :=
  j.result.map (fun c =>
    let m := mxRows j.descA j.descB j.scaled ⟨j.aBytes, j.aScales, []⟩ ⟨j.bBytes, j.bScales, []⟩ (c.1 / 32) (c.1 % 32)
    let r := m.shadow
    ⟨c.1 / 32, c.1 % 32, c.2, roundMx r, shadowDev (fval .f32 c.2.toNat) r⟩)

/-- The record of R208. -/
def shadowRecord (j : ShadowJob) (c : Checked) (core slot : Nat) (job : BitVec 16) (gen : BitVec 12) (skip : Nat) : BitVec 256 :=
  BitVec.ofNat 32 c.ref ++ (c.eng ++ (BitVec.ofNat 9 (Desc.cols j.descA) ++ (BitVec.ofNat 4 (Desc.etype j.descB) ++
    (BitVec.ofNat 4 (Desc.etype j.descA) ++ (0#3 ++ (BitVec.ofNat 4 (clusterOfCore core) ++ (BitVec.ofNat 8 core ++
    (BitVec.ofNat 4 slot ++ (gen ++ (job ++ (BitVec.ofNat 8 skip ++ (0#6 ++ (j.kind ++ (0#3 ++ (BitVec.ofNat 5 c.col ++
    (0#3 ++ (BitVec.ofNat 5 c.row ++ (BitVec.ofNat 32 c.dev ++ j.seq))))))))))))))))))

/-- SHADOW_CHECK (R207). The shadow unit recomputes a selected operation and appends a record. -/
def execShadowCheck (core : Nat) (s : State) : Host.Outcome State Fault Refusal :=
  match (s.co core).shadow with
  | none => .next s
  | some j =>
    let s1 := s.modCo core (fun c => { c with shadow := none, skip := 0 })
    match worst j.check with
    | none => .next s1
    | some c => .next (s1.appendTelem j.part (shadowRecord j c core (slotOfTeam j.team) j.job j.gen (s.co core).skip))

end Sys2Proof.Machine
end

