-- ==== Sys2Proof/Machine/Copies.lean ====
section
/-! DEFINITION. The copies: issue, execution element by element, credits, pauses and commands (spec R235 to R253, R261, R262,
R379, R380). -/

namespace Sys2Proof.Machine

open Sys2Proof

/-! ## Captured structures (R242, R245) -/

def descBase (d : List Byte) : DWord := fieldD d 0
def descDim (d : List Byte) (i : Nat) : Nat := field d (8 + 4 * i) 4
def descStride (d : List Byte) (i : Nat) : Int := (fieldD d (0x18 + 8 * (i - 1))).toInt
def descBox (d : List Byte) (i : Nat) : Nat := field d (0x30 + 2 * i) 2
def descFill (d : List Byte) : Word := fieldW d 0x38
def descRank (d : List Byte) : Nat := bits (fieldW d 0x3C) 2 2 + 1
/-- E, the bytes of an element. -/
def descElem (d : List Byte) : Nat := 2 ^ bits (fieldW d 0x3C) 0 2
def descCount (d : List Byte) : Nat := descBox d 0 * descBox d 1 * descBox d 2 * descBox d 3

/-- Does a tensor descriptor keep the limits of R242? The reserved bits of CTL are ignored (R6). -/
def tensorOk (d : List Byte) : Bool :=
  decide (descElem d * descCount d ≤ 2 ^ 31) &&
    (List.range 4).all (fun i => if i < descRank d then
        decide (1 ≤ descDim d i ∧ descDim d i < 2 ^ 31 ∧ 1 ≤ descBox d i)
      else decide (descDim d i = 1 ∧ descBox d i = 1))

def gatherBase (d : List Byte) : DWord := fieldD d 0
def gatherStride (d : List Byte) : Int := (fieldD d 8).toInt
def gatherRow (d : List Byte) : Nat := field d 0x10 4
def gatherRows (d : List Byte) : Nat := field d 0x14 4
def gatherFill (d : List Byte) : Word := fieldW d 0x18

/-- Does a gather descriptor keep the limits of R245, its reserved field among them? -/
def gatherOk (d : List Byte) : Bool := decide (1 ≤ gatherRow d ∧ gatherRow d ≤ 65536 ∧ field d 0x1C 4 = 0)

/-! ## Elements -/

/-- Bytes of an element. -/
def CopyKind.elem : CopyKind → Nat
  | .tensor _ _ _ _ d => descElem d
  | .reduce f _ _ _ => if f = 1 then 2 else 4
  | _ => 1

/-- Elements in all. -/
def CopyKind.total : CopyKind → Nat
  | .copy _ _ _ n => n
  | .tensor _ _ _ _ d => descCount d
  | .scale _ _ d => 32 * descBox d 0
  | .gather _ _ d _ count => count * gatherRow d
  | .scatter _ d _ count => count * gatherRow d
  | .reduce f _ _ n => n / (if f = 1 then 2 else 4)

def CopyKind.multicast : CopyKind → Bool
  | .copy mc _ _ _ => mc
  | .tensor mc _ _ _ _ => mc
  | .gather mc _ _ _ _ => mc
  | _ => false

/-- Is the captured descriptor one that pauses the copy with BADDESC? -/
def CopyKind.badDesc : CopyKind → Bool
  | .tensor _ _ _ _ d => !tensorOk d
  | .scale _ _ d => !tensorOk d
  | .gather _ _ d _ _ => !gatherOk d
  | .scatter _ d _ _ => !gatherOk d
  | _ => false

/-- Where the bytes of an element come from. -/
inductive ElemSrc where
  | far (a : DWord)
  | bytes (bs : List Byte)
  deriving DecidableEq, Repr

/-- Where they go: a far place, a far place that they are combined into, a scale offset, or nowhere. -/
inductive ElemDst where
  | far (a : DWord)
  | reduce (form : BitVec 2) (a : DWord)
  | scale (off : Nat)
  | dropped
  deriving DecidableEq, Repr

/-- What an element asks for; an address outside its region pauses the copy. -/
inductive ElemPlan where
  | go (src : ElemSrc) (dst : ElemDst)
  | overflow (a : DWord)
  deriving DecidableEq, Repr

/-- The bits of a far address outside its byte offset (R242). -/
def regionOf (a : DWord) : Nat :=
  match bits a 62 2 with
  | 0 => a.toNat / 2 ^ 48
  | 1 => a.toNat / 2 ^ 34
  | 2 => a.toNat / 2 ^ 42
  | _ => a.toNat / 2 ^ 62

/-- An exact address that stays in the region of its base. -/
def inRegion (base : DWord) (x : Int) : Except DWord DWord :=
  let a : DWord := BitVec.ofInt 64 x
  if 0 ≤ x ∧ x < 2 ^ 64 ∧ regionOf a = regionOf base then .ok a else .error a

/-- Two exact addresses of an element, the tensor's first. -/
def twoPlaces (base : DWord) (x : Int) (dbase : DWord) (y : Int) (go : DWord → DWord → ElemPlan) : ElemPlan :=
  match inRegion base x with
  | .error a => .overflow a
  | .ok a => match inRegion dbase y with
    | .error b => .overflow b
    | .ok b => go a b

/-- The box position of element n, dimension 0 fastest. -/
def boxPos (d : List Byte) (n : Nat) : List Nat :=
  [n % descBox d 0, n / descBox d 0 % descBox d 1, n / descBox d 0 / descBox d 1 % descBox d 2,
    n / descBox d 0 / descBox d 1 / descBox d 2]

/-- The tensor's exact address of a box position, when it lies inside the tensor (R243). -/
def tensorAddr (d : List Byte) (coords : List Int) (p : List Nat) : Option Int :=
  let x (i : Nat) : Int := coords.getD i 0 + (p.getD i 0 : Int)
  if (List.range 4).all (fun i => decide (0 ≤ x i ∧ x i < descDim d i)) then
    some ((descBase d).toNat + descElem d * x 0 +
      ((List.range (descRank d - 1)).map (fun i => descStride d (i + 1) * x (i + 1))).foldl (· + ·) 0)
  else none

/-- Bytes of the fill pattern, from byte k of the pattern on. -/
def fillBytes (w : Word) (k n : Nat) : List Byte := (List.range n).map (fun i => w.extractLsb' (8 * ((k + i) % 4)) 8)

/-- The descriptor and the index list of a gather or scatter. -/
def CopyKind.list : CopyKind → Option (List Byte × Word)
  | .gather _ _ d l _ => some (d, l)
  | .scatter _ d l _ => some (d, l)
  | _ => none

/-- Element n of a copy; `idx` is the index word of its row (R241, R243, R244, R246, R247). -/
def CopyKind.plan (k : CopyKind) (idx n : Nat) : ElemPlan :=
  match k with
  | .copy _ dst src _ => .go (.far (src + BitVec.ofNat 64 n)) (.far (dst + BitVec.ofNat 64 n))
  | .tensor _ store dense coords d =>
    let y : Int := (dense.toNat : Int) + descElem d * n
    match tensorAddr d coords (boxPos d n) with
    | some x => twoPlaces (descBase d) x dense y (fun a b => if store then .go (.far b) (.far a) else .go (.far a) (.far b))
    | none => if store then .go (.bytes []) .dropped
        else .go (.bytes (fillBytes (descFill d) 0 (descElem d))) (.far (BitVec.ofInt 64 y))
  | .scale off coords d =>
    let p := boxPos d n
    let b0 := p.getD 0 0
    let b1 := p.getD 1 0
    let o := off.toNat + 128 * (b0 / 4) + 16 * (b1 % 8) + 4 * (b1 / 8) + b0 % 4
    match tensorAddr d coords p with
    | some x => match inRegion (descBase d) x with
      | .error a => .overflow a
      | .ok a => .go (.far a) (.scale o)
    | none => .go (.bytes [(descFill d).extractLsb' 0 8]) (.scale o)
  | .gather _ dense d _ _ =>
    let b := n % gatherRow d
    let y : Int := (dense.toNat : Int) + n
    if idx < gatherRows d then
      twoPlaces (gatherBase d) ((gatherBase d).toNat + idx * gatherStride d + b) dense y (fun a c => .go (.far a) (.far c))
    else .go (.bytes (fillBytes (gatherFill d) b 1)) (.far (BitVec.ofInt 64 y))
  | .scatter dense d _ _ =>
    let b := n % gatherRow d
    let y : Int := (dense.toNat : Int) + n
    if idx < gatherRows d then
      twoPlaces (gatherBase d) ((gatherBase d).toNat + idx * gatherStride d + b) dense y (fun a c => .go (.far c) (.far a))
    else .go (.bytes []) .dropped
  | .reduce f dst src _ =>
    let w := (CopyKind.reduce f dst src 0).elem
    .go (.far (src + BitVec.ofNat 64 (w * n))) (.reduce f (dst + BitVec.ofNat 64 (w * n)))

/-- The plan of element n of a copy, with the index word that its row has read. -/
def Copy.plan (c : Copy) (n : Nat) : ElemPlan :=
  match c.kind.list with
  | none => c.kind.plan 0 n
  | some (d, _) => c.kind.plan (aget 0 c.rows (n / gatherRow d)).toNat n

/-- The far address to which an element's bytes go; a row of a gather whose index is not read yet has its place all the same. -/
def Copy.destination (c : Copy) (n : Nat) : Option DWord :=
  let p := match c.kind with
    | .gather _ _ d _ _ => if (afind c.rows (n / gatherRow d)).isSome then c.plan n else c.kind.plan (gatherRows d) n
    | .scatter _ d _ _ => if (afind c.rows (n / gatherRow d)).isSome then c.plan n else .go (.bytes []) .dropped
    | _ => c.plan n
  match p with
  | .go _ (.far a) => some a
  | _ => none

/-- The elements that the engine takes together at the cursor: those that reach to the end of the aligned 32-bit word of the
destination at which it stands, whose bytes are written as one (R300). -/
def Copy.pieceLen (c : Copy) : Nat :=
  match c.destination c.cursor with
  | none => 1
  | some a =>
    let e := c.kind.elem
    let most := min (c.kind.total - c.cursor) ((c.part + (4 - (a.toNat + c.part) % 4) + e - 1) / e)
    1 + ((List.range (most - 1)).takeWhile (fun i =>
      decide (c.destination (c.cursor + i + 1) = some (a + BitVec.ofNat 64 (e * (i + 1)))))).length

/-- Bytes of the piece, from the element at the cursor on, that stand written when it is performed at an address. Bytes in a last
word that the next element goes on with wait for that element (R300), unless the copy is halted or that element cannot be read. -/
def Copy.upTo (c : Copy) (a : DWord) (runs : Bool) : Nat :=
  let q := c.kind.elem * c.piece
  let n := c.cursor + c.piece
  let past := (a.toNat + q) % 4
  if runs && decide (n < c.kind.total ∧ c.piece = c.pieceLen ∧ c.destination n = some (a + BitVec.ofNat 64 q)) then q - past else q

/-- The combined value of a COPYR element (R247). -/
def reduceElem (form : BitVec 2) (d s : Nat) : Nat :=
  match form.toNat with
  | 0 => roundMx (xsum false [fval .f32 d, fval .f32 s])
  | 1 => (fround .bf16 1 0 (xsum false [fval .bf16 d, fval .bf16 s]) 1).1
  | _ => (d + s) % 2 ^ 32

/-! ## Pauses (R261) -/

/-- Why a copy cannot go on at its cursor: it waits, or it pauses with a kind and a far address. -/
inductive Stop where
  | wait
  | pause (kind : BitVec 8) (addr : DWord)
  deriving DecidableEq, Repr

/-- The kind of pause for a place of this package that fails for an access. -/
def State.pauseKind (s : State) (q : Asker) (addr : DWord) (r w : Bool) (e : FarErr) : BitVec 8 :=
  match e with
  | .noPeer => 6
  | .timeout => 7
  | .partition => 8
  | _ =>
    if bits addr 62 2 = 2 then 10
    else match bits addr 62 2, hbmVa addr with
      | 0, some va => match s.translateFor q.part q.job va r w false with
        | .error .permission => 2
        | _ => 1
      | _, _ => 4

/-- The kind of pause that an answer names (R261). -/
def answerKind (e : FarErr) : BitVec 8 :=
  match e with
  | .partition => 8
  | .timeout => 7
  | .noPeer => 6
  | _ => 10

/-! ## One element performed -/

/-- A run of a copy's engine: the state, the copy, the lines whose tag check has been noted, and why it stopped. -/
structure CopyRun where
  st : State
  cp : Copy
  seen : List (Nat × Nat)
  did : Nat
  stop : Option Stop
  deriving Repr

/-- The place of each of n bytes. -/
def State.placesOf (s : State) (q : Asker) (a : DWord) (n : Nat) (r w : Bool) : List (DWord × Target) :=
  (List.range n).map (fun i => (a + BitVec.ofNat 64 i, s.resolve q (a + BitVec.ofNat 64 i) r w false))

/-- The first place that fails with anything but a denial. -/
def failed : List (DWord × Target) → Option (DWord × FarErr)
  | [] => none
  | (a, .fail e _) :: r => if e = .denied then failed r else some (a, e)
  | _ :: r => failed r

/-- A peer's place, when the first byte lies at one. -/
def peerOf : List (DWord × Target) → Option (BitVec 20 × BitVec 42)
  | (_, .peer p w) :: _ => some (p, w)
  | _ => none

/-- Tag checks of a list of places: the lines now held, and one denial for each line (R286, R287, R289). -/
def CopyRun.checks (x : CopyRun) (agent : BitVec 4) (ps : List (DWord × Target)) : CopyRun :=
  ps.foldl (fun y p =>
    let line := (p.1.toNat / 64, agent.toNat)
    let denied := match p.2 with | .fail .denied _ => true | _ => false
    let y1 := if denied then { y with cp := { y.cp with denied := true } } else y
    if y.seen.contains line then y1
    else
      let s1 := y1.st.checkedTag x.cp.team agent p.1
      { y1 with
        seen := line :: y1.seen
        st := match p.2 with | .fail .denied tag => s1.failEvent x.cp.team agent p.1 .denied tag | _ => s1 }) x

/-- The asker of a copy. -/
def CopyRun.asker (x : CopyRun) : Asker := x.st.teamAsker x.cp.team

/-- The partition of a copy. -/
def CopyRun.part (x : CopyRun) : Nat := (x.st.tm x.cp.team).part

/-- A request of the copy sent to a peer; the piece waits for its answer. -/
def CopyRun.ask (x : CopyRun) (write ahead : Bool) (peer : BitVec 20) (woff : BitVec 42) (cls : BitVec 4) (op : BitVec 8)
    (payload : List Byte) (upTo : Nat) : CopyRun :=
  let r := x.st.sendRequest x.part (dieOfCore (coreOfTeam x.cp.team)) peer woff cls op payload (x.st.farDue x.part) x.cp.id 1 0
  { x with st := r.1, cp := { x.cp with asked := some ⟨write, ahead, r.2, upTo⟩, ans := none }, stop := some .wait }

/-- The piece at the cursor is written for so many bytes from its first element on; index words of rows behind it are needed no
more. -/
def CopyRun.performed (x : CopyRun) (upTo : Nat) : CopyRun :=
  let e := x.cp.kind.elem
  let n := upTo / e
  let at_ := x.cp.cursor + n
  { x with
    cp := { x.cp with
      cursor := at_, piece := 0, part := upTo % e, got := x.cp.got.drop (e * n), asked := none, ans := none
      rows := match x.cp.kind.list with
        | none => []
        | some (d, _) => x.cp.rows.filter (fun e => decide (at_ / gatherRow d ≤ e.1)) }
    did := x.did + n }

/-- Places of this package with their bytes, as runs of neighbours. -/
def runsOf : List (DWord × Target) → List Byte → List (Nat × List Byte)
  | (_, .key k) :: ps, b :: bs => match runsOf ps bs with
    | (j, cs) :: r => if j = k + 1 then (k, b :: cs) :: r else (k, [b]) :: (j, cs) :: r
    | [] => [(k, [b])]
  | _ :: ps, _ :: bs => match runsOf ps bs with
    | (j, cs) :: r => (0, []) :: (j, cs) :: r
    | [] => []
  | _, _ => []

/-- Bytes written at places of this package, neighbours by one access; denied ones are dropped. -/
def State.putPlaces (s : State) (ps : List (DWord × Target)) (bs : List Byte) : State :=
  (runsOf ps bs).foldl (fun t e => if e.2 = [] then t else t.deliver e.1 e.2) s

/-- The bytes at places of this package; denied ones read as zero. -/
def State.getPlaces (s : State) (ps : List (DWord × Target)) : List Byte :=
  ps.map (fun p => match p.2 with | .key k => s.byte k | _ => 0)

/-- Poison found in the places read. -/
def State.foundPlaces (s : State) (t : Nat) (agent : BitVec 4) (ps : List (DWord × Target)) : State :=
  ps.foldl (fun u p => match p.2 with | .key k => u.noteFound t agent p.1 k 1 | _ => u) s

/-- The destinations of a far write: one, or one for each member of the group (R253). -/
def Copy.places (c : Copy) (a : DWord) : List DWord :=
  match c.group with
  | some ms => if c.kind.multicast then ms.map (fun m => setBits a 19 8 m) else [a]
  | none => [a]

/-- Does a multicast copy break R253: no usable entry, or a destination that is no core scratchpad of the cluster? -/
def Copy.badGroup (c : Copy) (a : DWord) : Bool :=
  c.kind.multicast && (decide (c.group.getD [] = []) || decide (bits a 62 2 ≠ 1) || decide (bits a 35 2 ≠ 0) ||
    decide (2 * bits a 37 3 + bits a 34 1 ≠ clusterOfCore (coreOfTeam c.team)))

/-- The source bytes of a COPY, by their place in it, that a write of n bytes at an address overwrites before the copy has read
them (R241). -/
def Copy.doomed (c : Copy) (a : DWord) (n : Nat) : List (Nat × DWord) :=
  match c.kind with
  | .copy _ _ src len => ((List.range n).map (fun i => ((a + BitVec.ofNat 64 i - src).toNat, a + BitVec.ofNat 64 i))).filter (fun e =>
      decide (e.1 < len ∧ c.cursor + max 1 c.piece ≤ e.1) && (afind c.saved e.1).isNone)
  | _ => []

/-- They are read first, where they stand in this package. -/
def CopyRun.keepOld (x : CopyRun) (a : DWord) (n : Nat) : CopyRun :=
  (x.cp.doomed a n).foldl (fun y e => match y.st.resolve y.asker e.2 true false false with
    | .key k => { y with cp := { y.cp with saved := aput y.cp.saved e.1 (y.st.byte k) } }
    | _ => y) x

/-- Is a scale unit of the team named by a posted operation that has not read its scales (R192)? -/
def State.unitHeld (s : State) (t unit : Nat) : Bool :=
  (s.fifo (coreOfTeam t)).any (fun e => !e.started && (match e.op with
    | .mma _ _ _ _ _ ua ub => ua.contains unit || ub.contains unit
    | .fill _ _ => false
    | .gangPart _ _ _ _ _ _ ua => ua.contains unit))

/-- May the engine of a copy go on to further elements: its team is not halted, its drain goes on, or it is a multicast copy
(R263, R362)? -/
def State.copyRuns (s : State) (c : Copy) : Bool :=
  c.kind.multicast || (!(s.tm c.team).halting && s.teamGoes (s.tm c.team).part c.team)

/-- Is the element at the cursor written in part, or has a peer been sent the write of the piece there? -/
def Copy.writing (c : Copy) : Bool := (c.asked.map CopyAsk.write).getD false || decide (c.part ≠ 0)

/-- May the engine of a copy move anything: it may go on, or its last element is not written whole (R263)? -/
def State.copyGoes (s : State) (c : Copy) : Bool :=
  s.engineOn (s.tm c.team).part && (s.copyRuns c || c.writing)

/-- The bytes of a piece written at its destination (R243 to R248). -/
def CopyRun.land (x : CopyRun) (all : List Byte) (dst : ElemDst) : CopyRun :=
  let e := x.cp.kind.elem
  let core := coreOfTeam x.cp.team
  match dst with
  | .dropped => x.performed e
  | .scale o =>
    let tm := x.st.tm x.cp.team
    let u := tm.unitAt o
    let at_ := o % 128
    if x.st.unitHeld x.cp.team u then { x with stop := some .wait }
    else
      let valid (t : Team) : BitVec 64 :=
        if at_ = 0 then setBit t.scaleValid (o / 128) false
        else if at_ = 127 then setBit t.scaleValid (o / 128) true
        else t.scaleValid
      let s1 := x.st.modTm x.cp.team (fun t => { t with scaleValid := valid t })
      ({ x with st := s1.putMem (scaleKey core u at_) all } : CopyRun).performed e
  | .far a0 =>
    let q := x.cp.upTo a0 (x.st.copyRuns x.cp)
    let a := a0 + BitVec.ofNat 64 x.cp.part
    let bs := (all.take q).drop x.cp.part
    let n := bs.length
    let ps := (x.cp.places a).map (fun d => x.st.placesOf x.asker d n false true)
    let out (p : List (DWord × Target)) : Bool := p.any (fun e => match e.2 with | .fail .partition _ => true | _ => false)
    let ps1 := if x.cp.kind.multicast then ps.filter (fun p => !out p) else ps
    let x1 := if ps1.length < ps.length then { x with cp := { x.cp with denied := true } } else x
    match ps1.findSome? failed with
    | some (b, e) => { x1 with stop := some (.pause (x.st.pauseKind x.asker b false true e) b) }
    | none => match ps1.findSome? peerOf with
      | some (p, w) => if x1.cp.doomed a n = [] then x1.ask true false p w clsPcopyw 0 bs q
          else x1.ask false true p (w &&& ~~~63#42) clsPload 4 [] 0
      | none =>
        let x2 := ps1.foldl (fun y p =>
          let z := (y.checks 4 p).keepOld ((p.headD (0, .fail .fault 0)).1) n
          { z with st := z.st.putPlaces p bs }) x1
        x2.performed q
  | .reduce f a =>
    let bs := all
    let n := bs.length
    let ps := x.st.placesOf x.asker a n true true
    match failed ps with
    | some (b, e) => { x with stop := some (.pause (x.st.pauseKind x.asker b true true e) b) }
    | none => match peerOf ps with
      | some (p, w) =>
        let line : BitVec 42 := w &&& ~~~63#42
        let off := w.toNat % 64
        x.ask true false p line clsPatom (BitVec.ofNat 8 (16 * f.toNat + n)) (natLe 8 (lineMask off n) ++ lineWith off bs ++ atomTail 0 4) e
      | none =>
        let x1 := x.checks 4 ps
        let s1 := x1.st.foundPlaces x.cp.team 3 ps
        let old := leNat (s1.getPlaces ps)
        let denied := ps.any (fun e => match e.2 with | .fail _ _ => true | _ => false)
        ({ x1 with st := if denied then s1 else s1.putPlaces ps (natLe n (reduceElem f old (leNat bs))) }).performed e

/-- The engine reaches the row of element n: its index word is read once (R240, R246). -/
def CopyRun.reach (x : CopyRun) (n : Nat) : CopyRun :=
  match x.cp.kind.list with
  | none => x
  | some (d, list) =>
    let i := n / gatherRow d
    if (afind x.cp.rows i).isSome then x
    else
      let core := coreOfTeam x.cp.team
      let a := list.toNat + 4 * i
      { x with
        st := x.st.noteFound x.cp.team 3 (localKey core a) (coreKey core a) 4
        cp := { x.cp with rows := aput x.cp.rows i (x.st.word (coreKey core a)) } }

/-- The rows with which the destination's word at the cursor goes on are reached too (R300). -/
def CopyRun.reachOn (x : CopyRun) : CopyRun :=
  (List.range 3).foldl (fun y _ =>
    let n := y.cp.cursor + y.cp.pieceLen
    match y.cp.destination y.cp.cursor with
    | some a => if n < y.cp.kind.total ∧ (a.toNat + y.cp.kind.elem * y.cp.pieceLen) % 4 ≠ 0 then y.reach n else y
    | none => y) x

/-- A piece begins at the cursor. A halted copy only ends an element that is written in part. -/
def CopyRun.begin (x : CopyRun) : CopyRun :=
  if !x.st.copyRuns x.cp ∧ x.cp.part ≠ 0 then
    { x with cp := { x.cp with
        piece := 1, got := x.cp.got.take x.cp.kind.elem
        asked := x.cp.asked.filter CopyAsk.write, ans := if (x.cp.asked.map CopyAsk.write).getD false then x.cp.ans else none } }
  else if x.cp.piece ≠ 0 then x
  else
    let y := (x.reach x.cp.cursor).reachOn
    { y with cp := { y.cp with piece := y.cp.pieceLen } }

/-- Source bytes of the piece read at an address, the last of them followed in its aligned word by `tail`: those that later elements
read come from the same read (R300). -/
def CopyRun.take (x : CopyRun) (a : DWord) (bs tail : List Byte) : CopyRun :=
  let e := x.cp.kind.elem
  let q := e * x.cp.cursor + x.cp.got.length + bs.length
  let later := ((List.range tail.length).zip tail).filter (fun t =>
    decide ((q + t.1) / e < x.cp.kind.total) && (match x.cp.plan ((q + t.1) / e) with
      | .go (.far b) _ => decide (b + BitVec.ofNat 64 ((q + t.1) % e) = a + BitVec.ofNat 64 (bs.length + t.1)) &&
          (match x.cp.kind.list with | none => true | some (d, _) => (afind x.cp.rows ((q + t.1) / e / gatherRow d)).isSome)
      | _ => false))
  { x with cp := { x.cp with
      got := x.cp.got ++ bs, asked := none, ans := none
      saved := later.foldl (fun m t => if (afind m (q + t.1)).isSome then m else aput m (q + t.1) t.2) x.cp.saved } }

/-- A source byte of the piece that cannot be read: the elements before its own are performed, or the copy pauses. -/
def CopyRun.cut (x : CopyRun) (kind : BitVec 8) (a : DWord) : CopyRun :=
  let n := x.cp.got.length / x.cp.kind.elem
  if n = 0 then { x with stop := some (.pause kind a) }
  else { x with cp := { x.cp with piece := n, got := x.cp.got.take (n * x.cp.kind.elem), asked := none, ans := none } }

/-- Bytes in an aligned word after the first n from an address on. -/
def wordTail (a : DWord) (n : Nat) : Nat := (4 - (a.toNat + n) % 4) % 4

/-- The next source bytes of the piece read or asked for: those of one element, its index word first. -/
def CopyRun.readNext (x0 : CopyRun) : CopyRun :=
  let e := x0.cp.kind.elem
  let n := x0.cp.cursor + x0.cp.got.length / e
  let o := x0.cp.got.length % e
  let x := x0.reach n
  match x.cp.plan n with
  | .overflow a => x.cut 3 a
  | .go (.bytes bs) _ => x.take 0 bs []
  | .go (.far b) _ =>
    let a := b + BitVec.ofNat 64 o
    match afind x.cp.saved (e * n + o) with
    | some v => ({ x with cp := { x.cp with saved := adel x.cp.saved (e * n + o) } } : CopyRun).take a [v] []
    | none =>
      let ps := x.st.placesOf x.asker a (e - o) true false
      match failed ps with
      | some (c, err) => x.cut (x.st.pauseKind x.asker c true false err) c
      | none => match peerOf ps with
        | some (p, w) => x.ask false false p (w &&& ~~~63#42) clsPload 4 [] 0
        | none =>
          let x1 := x.checks 3 ps
          let s1 := x1.st.foundPlaces x.cp.team 3 ps
          let tail := match ps.getLast? with
            | some (_, .key k) => s1.bytes (k + 1) (wordTail a (e - o))
            | _ => []
          ({ x1 with st := s1 } : CopyRun).take a (s1.getPlaces ps) tail

/-- The bytes of an answered line that a COPY has still to read and its next write overwrites (R241). -/
def CopyRun.keepLine (x : CopyRun) (a : DWord) (line : List Byte) : CopyRun :=
  { x with cp := { x.cp with
      asked := none, ans := none
      saved := (x.cp.doomed (a - BitVec.ofNat 64 (a.toNat % 64)) 64).foldl (fun m e =>
        aput m e.1 (line.getD (e.2.toNat % 64) 0)) x.cp.saved } }

/-- The answer to a request of the piece applied. -/
def CopyRun.answered (x : CopyRun) (q : CopyAsk) (pkt : Packet) : CopyRun :=
  let e := x.cp.kind.elem
  let o := x.cp.got.length % e
  let dst : DWord := match x.cp.plan x.cp.cursor with | .go _ (.far a) => a + BitVec.ofNat 64 x.cp.part | .go _ (.reduce _ a) => a | _ => 0
  let src : DWord := match x.cp.plan (x.cp.cursor + x.cp.got.length / e) with
    | .go (.far b) _ => b + BitVec.ofNat 64 o
    | _ => 0
  let addr := if q.write ∨ q.ahead then dst else src
  let part := min (e - o) (64 - addr.toNat % 64)
  let go (y : CopyRun) (line : List Byte) : CopyRun :=
    if q.write then y.performed q.upTo
    else if q.ahead then y.keepLine addr line
    else y.take addr ((line.drop (addr.toNat % 64)).take part) (((line.drop (addr.toNat % 64 + part)).take (wordTail addr part)))
  match statErr pkt.stat with
  | none => go x pkt.payload
  | some .denied =>
    go { x with
      st := x.st.noteDenial x.cp.team (if q.write then 4 else 3) addr pkt.tag
      cp := { x.cp with denied := true } } (List.replicate 64 0)
  | some err => if q.write ∨ q.ahead then { x with stop := some (.pause (answerKind err) addr) } else x.cut (answerKind err) addr

/-- The piece at the cursor taken one step further: read, asked for, or performed. -/
def CopyRun.element (x0 : CopyRun) : CopyRun :=
  if x0.cp.kind.badDesc then { x0 with stop := some (.pause 5 0) }
  else
    let x := x0.begin
    match x.cp.asked, x.cp.ans with
    | some _, none => { x with stop := some .wait }
    | some q, some pkt => x.answered q pkt
    | none, _ => match x.cp.plan x.cp.cursor with
      | .overflow a => { x with stop := some (.pause 3 a) }
      | .go _ dst =>
        if (x.cp.destination x.cp.cursor).any x.cp.badGroup then { x with stop := some (.pause 9 ((x.cp.destination x.cp.cursor).getD 0)) }
        else if dst = .dropped ∨ x.cp.piece * x.cp.kind.elem ≤ x.cp.got.length then x.land x.cp.got dst else x.readNext

/-- Up to so many steps of the engine, ending at the last element, a wait or a pause. -/
def CopyRun.go : Nat → Nat → CopyRun → CopyRun
  | 0, _, x => x
  | fuel + 1, count, x =>
    if x.stop.isSome ∨ count ≤ x.did ∨ (x.cp.kind.total ≤ x.cp.cursor ∧ !x.cp.kind.badDesc) then x else CopyRun.go fuel count x.element

/-! ## The copy queue (R235, R248, R250, R252) -/

def State.copyOf (s : State) (id : Nat) : Option Copy := s.copies.find? (fun c => decide (c.id = id))
def State.putCopy (s : State) (c : Copy) : State := { s with copies := s.copies.map (fun x => if x.id = c.id then c else x) }
def Copy.core (c : Copy) : Nat := coreOfTeam c.team
def Copy.cluster (c : Copy) : Nat := clusterOfCore c.core

/-- A use of a cached group entry ends; an entry without uses is discarded. -/
def State.leaveGroup (s : State) (c : Copy) : State :=
  match c.mcKey with
  | none => s
  | some (a, g) =>
    let left (l : List (DWord × Nat × List Nat × Nat)) : List (DWord × Nat × List Nat × Nat) :=
      (l.map (fun e => if e.1 = a ∧ e.2.1 = g then (e.1, e.2.1, e.2.2.1, e.2.2.2 - 1) else e)).filter
        (fun e => decide (e.2.2.2 ≠ 0))
    s.modCl c.cluster (fun y => { y with groups := left y.groups })

/-- Copies leave their queues with nothing further written; their uses of cached group entries end (R252). -/
def State.dropCopies (s : State) (gone : Copy → Bool) : State :=
  (s.copies.filter gone).foldl State.leaveGroup { s with copies := s.copies.filter (fun c => !gone c) }

/-- A copy is over: its entry, its counts and its group use are released, then its token finishes with a code. -/
def State.copyOver (s : State) (c : Copy) (code : BitVec 8) : State :=
  ((({ s with copies := s.copies.filter (fun x => decide (x.id ≠ c.id)) }).leaveGroup c).modSls c.members
    (fun x => { x with cp := x.cp - 1 })).finishToken c.team c.token code

/-- The error code with which a copy finishes (R250). -/
def Copy.code (c : Copy) : BitVec 8 := if c.denied then 9 else 0

/-- Credits of n bytes (R248, R253). -/
def State.creditCopy (s : State) (c : Copy) (n : Nat) : State :=
  match c.bar with
  | none => s
  | some a =>
    if n = 0 then s
    else
      let cores := if c.kind.multicast then (c.group.getD []).map (fun m => 256 * c.cluster + m) else [c.core]
      cores.foldl (fun t k => t.barUpdate c.team 4 k a 0 (-(n : Int)) false none) s

/-- Steps from the dispatcher's place round the cluster to a core (R235). -/
def State.copyRound (s : State) (core : Nat) : Nat := (core % 256 + 256 - (s.cl (clusterOfCore core)).turn) % 256

/-- Is a copy the oldest of its core that has not started, and may it start? Copies that a halt has stopped start no more and hold
no other back (R263). -/
def State.copyFirst (s : State) (c : Copy) : Bool :=
  decide (c.state = .queued) && s.copyGoes c &&
    !s.copies.any (fun x => decide (x.core = c.core ∧ x.id < c.id ∧ x.state = .queued) && s.copyRuns x)

/-- COPY_DISPATCH (R235). The cluster dispatcher gives the oldest waiting copy of a core to a free engine. It takes the cores round
the cluster: the next one from its place on that has such a copy. -/
def execCopyDispatch (cluster copy : Nat) (s : State) : Host.Outcome State Fault Refusal :=
  match s.copyOf copy with
  | none => .next s
  | some c =>
    let busy := (s.copies.filter (fun x => decide (x.cluster = cluster ∧ x.state = .running))).length
    if c.cluster ≠ cluster ∨ !s.copyFirst c ∨ 32 ≤ busy ∨
        s.copies.any (fun x => decide (x.cluster = cluster ∧ s.copyRound x.core < s.copyRound c.core) && s.copyFirst x) then .next s
    else .next ((s.putCopy { c with state := .running }).modCl cluster (fun y => { y with turn := (c.core + 1) % 256 }))

/-- Does a copy's engine ask for a token in this cycle? -/
def State.copyAsks (s : State) (c : Copy) : Bool :=
  decide (c.state = .running) && decide (c.asked = none) && s.copyGoes c && !s.withheld (s.tm c.team).part

/-- Does a partition of lower number contend for the last token of a die's pool (R380): an empty bucket that may borrow, and a copy
that asks? -/
def State.outbid (s : State) (die p : Nat) : Bool :=
  (List.range p).any (fun r =>
    let q := aget 0 (s.di die).copyqos r
    let st := aget 0 (s.di die).copyqst r
    decide (bits q 0 16 ≠ 0 ∧ bits st 24 20 = 0 ∧ bits st 44 20 < bits q 44 20) &&
      s.copies.any (fun c => decide (dieOfCore c.core = die ∧ (s.tm c.team).part = r) && s.copyAsks c))

/-- Engine tokens taken from a partition's bucket on a die (R380): none when they are not to be had. -/
def State.takeTokens (s : State) (die p n : Nat) : Option State :=
  let q := aget 0 (s.di die).copyqos p
  if bits q 0 16 = 0 then some s
  else
    let st := aget 0 (s.di die).copyqst p
    let level := bits st 24 20
    let debt := bits st 44 20
    let fromLevel := min n level
    let borrow := n - fromLevel
    if borrow ≠ 0 ∧ (bits q 44 20 < debt + borrow ∨ (s.di die).pool < borrow ∨ ((s.di die).pool = borrow ∧ s.outbid die p)) then none
    else some (s.modDi die (fun d =>
      { d with
        pool := d.pool - borrow
        copyqst := aset 0 d.copyqst p (BitVec.ofNat 64 ((debt + borrow) * 2 ^ 44 + (level - fromLevel) * 2 ^ 24)) }))

/-- COPY_CREDIT (R248). Performed elements are credited to the copy's barrier. -/
def execCopyCredit (copy count : Nat) (s : State) : Host.Outcome State Fault Refusal :=
  match s.copyOf copy with
  | none => .next s
  | some c =>
    let p := (s.tm c.team).part
    if c.state ≠ .running ∨ s.withheld p ∨ !s.copyGoes c then .next s
    else
      let most := if s.copyRuns c then count else min 1 count
      let x := CopyRun.go (20 * most + 20) most ⟨s, c, [], 0, none⟩
      let n := x.did * c.kind.elem
      let s1 := x.st.putCopy x.cp
      match s1.takeTokens (dieOfCore c.core) p ((n + 63) / 64) with
      | none => .next s
      | some s2 =>
        let s3 := (s2.engineCharge c.cluster 48 ((n + 63) / 64)).creditCopy x.cp n
        .next (if c.bar.isSome ∧ !c.kind.badDesc ∧ x.cp.kind.total ≤ x.cp.cursor then s3.copyOver x.cp x.cp.code else s3)

/-- COPY_FINISH (R248). A copy finishes its token and releases its counts. -/
def execCopyFinish (copy : Nat) (s : State) : Host.Outcome State Fault Refusal :=
  match s.copyOf copy with
  | none => .next s
  | some c =>
    if c.state ≠ .running ∨ c.kind.badDesc ∨ c.cursor < c.kind.total then .next s else .next (s.copyOver c c.code)

/-! ## Pause, resume and abort (R261, R262) -/

/-- A class-2 event (R261, R391). -/
def State.pauseEvent (s : State) (c : Copy) (handle : BitVec 16) (kind : BitVec 8) (addr : DWord) : State :=
  let tm := s.tm c.team
  s.appendEvent tm.part (addr ++ (handle ++ (kind.setWidth 4 ++ (0#9 ++ (BitVec.ofNat 3 c.token ++ (0#0 ++
    (whoBits tm.job tm.gen c.team (dieOfCore c.core) ++ (0#1 ++ (BitVec.ofNat 32 (c.cursor * c.kind.elem) ++ (2#8 ++
    (0#8 ++ s.nsWord)))))))))))

/-- Why the copy cannot perform the element at its cursor, when that is a pause. -/
def State.pauseNow (s : State) (c : Copy) : Option (BitVec 8 × DWord) :=
  if c.kind.total ≤ c.cursor ∧ !c.kind.badDesc then none
  else match (CopyRun.go 64 1 ⟨s, c, [], 0, none⟩).stop with
    | some (.pause k a) => some (k, a)
    | _ => none

/-- COPY_PAUSE (R261). A copy meets a fault, pauses at its cursor and appends an event. -/
def execCopyPause (copy : Nat) (handle : BitVec 16) (s : State) : Host.Outcome State Fault Refusal :=
  match s.copyOf copy with
  | none => .next s
  | some c =>
    let taken := s.copies.any (fun x => decide (x.cluster = c.cluster) &&
      (match x.state with | .paused h _ _ => decide (h = handle) | _ => false))
    match s.pauseNow c with
    | none => .next s
    | some (k, a) =>
      if c.state ≠ .running ∨ taken ∨ !s.copyGoes c then .next s
      else
        let s1 := (s.putCopy { c with state := .paused handle k a }).modTm c.team (fun t => t.modToken c.token (fun y =>
          if y.err then y else { y with err := true, code := 1 }))
        let s2 := (s1.windowEvent (s1.tm c.team).part a (if k = 10 then 7 else 0) 0).pauseEvent c handle k a
        .next (s2.boundaryCond c.lead teCopyFault ⟨causeCopyFault, BitVec.ofNat 8 c.token, 0xF,
          ((s2.tm c.team).token c.token).word, 0, 0⟩)

/-- The paused copy of a handle in a cluster. -/
def State.pausedCopy (s : State) (cluster : Nat) (handle : BitVec 16) : Option Copy :=
  s.copies.find? (fun c => decide (c.cluster = cluster) &&
    (match c.state with | .paused h _ _ => decide (h = handle) | _ => false))

/-- Is another operation bound to the copy's token paused? -/
def State.otherPaused (s : State) (c : Copy) : Bool :=
  s.copies.any (fun x => decide (x.id ≠ c.id ∧ x.team = c.team ∧ x.token = c.token) &&
    (match x.state with | .paused _ _ _ => true | _ => false))

/-- A paused copy resumed: it stands in its queue again and goes on from its cursor. -/
def State.resumeCopy (s : State) (c : Copy) : State :=
  let s1 := s.putCopy { c with state := .queued, asked := none, ans := none, got := [], piece := 0, part := 0 }
  if s.otherPaused c then s1 else s1.modTm c.team (fun t => t.modToken c.token (fun y =>
    if y.code = 1 then { y with err := false, code := 0 } else y))

/-- A paused copy aborted. -/
def State.abortCopy (s : State) (c : Copy) : State :=
  let s1 := if s.otherPaused c then s else s.modTm c.team (fun t => t.modToken c.token (fun y =>
    if y.code = 1 then { y with code := 2 } else y))
  s1.copyOver c 2

/-- A write of COPYCMD (R262): the register holds ACTION and HANDLE, and the command is applied to the paused copy that it names. The
model applies a command at once, so that BUSY reads 0 (DESIGN CHOICE, log entry 59). -/
def State.writeCopycmd (s : State) (cluster : Nat) (value : Word) : State :=
  let s1 := s.modCl cluster (fun y => { y with copycmd := value &&& 0xC000FFFF })
  match s1.pausedCopy cluster (value.extractLsb' 0 16), bits value 30 2 with
  | some c, 1 => s1.resumeCopy c
  | some c, 2 => s1.abortCopy c
  | _, _ => s1

/-- COPYCMD_RESUME (R262). Resumes a paused copy from its cursor. -/
def execCopycmdResume (cluster : Nat) (handle : BitVec 16) (s : State) : Host.Outcome State Fault Refusal :=
  .next (s.writeCopycmd cluster (1#2 ++ (0#14 ++ handle)))

/-- COPYCMD_ABORT (R262). Aborts a paused copy and finishes its token with COPY_ABORT. -/
def execCopycmdAbort (cluster : Nat) (handle : BitVec 16) (s : State) : Host.Outcome State Fault Refusal :=
  .next (s.writeCopycmd cluster (2#2 ++ (0#14 ++ handle)))

/-! ## Issue (R236 to R240, R252) -/

/-- A structure in scratchpad with its address, size and alignment. -/
structure LocalSpan where
  addr : Word
  size : Nat
  align : Nat
  deriving DecidableEq, Repr

/-- The first structure that is misaligned or out of bounds, in order. -/
def badSpan (t : Team) : List LocalSpan → Option (BitVec 8 × Word)
  | [] => none
  | l :: r =>
    if l.addr.toNat % l.align ≠ 0 then some (causeMisalign, l.addr)
    else if l.addr.toNat < t.spbase ∨ t.splimit < l.addr.toNat + l.size then some (causeLocalBounds, l.addr)
    else badSpan t r

/-- The bytes of a captured structure. -/
def State.capture (s : State) (core : Nat) (a : Word) (n : Nat) : List Byte := s.bytes (coreKey core a.toNat) n

/-- Membership of multicast group g of a team (R251, R252): the state, the members, and the key of the entry used. None when
the table of the cluster is full. A pointer of 0 is no table (R327). -/
def State.joinGroup (s : State) (t core g : Nat) : Option (State × Option (List Nat) × Option (DWord × Nat)) :=
  let c := clusterOfCore core
  let tab := (s.tm t).header.mcast
  let groups := (s.cl c).groups
  if tab = 0 then some (s, none, none)
  else match groups.find? (fun e => decide (e.1 = tab ∧ e.2.1 = g)) with
  | some e => some (s.modCl c (fun y => { y with groups := y.groups.map (fun x =>
      if x.1 = tab ∧ x.2.1 = g then (x.1, x.2.1, x.2.2.1, x.2.2.2 + 1) else x) }), some e.2.2.1, some (tab, g))
  | none =>
    if 256 ≤ groups.length then none
    else
      let a := tab + BitVec.ofNat 64 (64 * g)
      let q := s.teamAsker t
      let s1 := s.checkedTag t 3 a
      let entry : State × Option (List Byte) := match s.resolve q a true false false with
        | .key k => ((s1.noteFound t 3 a k 64), some (s.bytes k 64))
        | .fail e tag => (s1.failEvent t 3 a e tag, none)
        | .peer _ _ =>
          let w (i : Nat) : PeerReply := Config.peerReply s.freeNo (a.toNat + 8 * i)
          (s1, if (w 0).stat = 0 then some ((List.range 8).flatMap (fun i => natLe 8 (w i).data.toNat)) else none)
      match entry with
      | (s2, none) => some (s2, none, none)
      | (s2, some bs) =>
        let ms := if (fieldW bs 0x20).getLsbD 0 then (List.range 256).filter (fun i => (bs.getD (i / 8) 0).getLsbD (i % 8)) else []
        some (s2.modCl c (fun y => { y with groups := y.groups ++ [(tab, g, ms, 1)] }), some ms, some (tab, g))

/-- Has a copy elements, or a bad descriptor to pause on? A length or count of 0 finishes at issue. -/
def Copy.hasWork (c : Copy) : Bool :=
  match c.kind with
  | .copy _ _ _ n => decide (n ≠ 0)
  | .gather _ _ _ _ n => decide (n ≠ 0)
  | .scatter _ _ _ n => decide (n ≠ 0)
  | .reduce _ _ _ n => decide (n ≠ 0)
  | _ => true

/-- The operand words of a copy (R236, R237): na words from s[a], nd words from s[d], and q0 to q2 from s[b], each part padded
with zeros to 4, 2 and 3 words. -/
def Slice.copyOpers (x : Slice) (a na d nd b nq : Nat) : List Word :=
  padTo 4 ((List.range na).map (fun i => x.sVal (a + i))) ++ padTo 2 ((List.range nd).map (fun i => x.sVal (d + i))) ++
    padTo 3 ((List.range nq).map (fun i => x.sVal (b + i)))

/-- What a copy does, from its instruction, its operand words and its captured descriptor. -/
def copyKindOf (i : Instr) (w : List Word) (desc : List Byte) : CopyKind :=
  let sa := pair (w.getD 1 0) (w.getD 0 0)
  let sd := pair (w.getD 5 0) (w.getD 4 0)
  let coords : List Int := (w.take 4).map sext
  let n := (w.getD 6 0).toNat
  match i with
  | .copytLd mc _ _ _ _ _ => .tensor mc false sd coords desc
  | .copytSt _ _ _ _ _ => .tensor false true sd coords desc
  | .copytSc _ _ _ _ _ => .scale (w.getD 4 0) coords desc
  | .copyg mc _ _ _ _ _ => .gather mc sd desc (w.getD 1 0) n
  | .copys _ _ _ _ _ => .scatter sd desc (w.getD 1 0) n
  | .copyr form _ _ _ _ _ => .reduce form sd sa n
  | .copy mc _ _ _ _ _ => .copy mc sd sa n
  | _ => .copy false sd sa n

/-- Places among the operand words that hold local addresses. -/
def Copy.locals (c : Copy) : List Nat :=
  (match c.kind with
    | .tensor _ _ _ _ _ => [6]
    | .scale _ _ _ => [6]
    | .gather _ _ _ _ _ => [0, 1]
    | .scatter _ _ _ _ => [0, 1]
    | _ => []) ++ (if c.bar.isSome then [7] else [])

/-- Does a copy of the gang stall for want of room under its token's count, under the class counter or in its core's queue, or, when it
is multicast, for want of a group that it can join (R171, R173, R238, R251)? -/
def State.copyStall (s : State) (mc : Bool) (j b : Nat) : Bool :=
  let ms := s.members s.cur
  let core := coreOfSlice s.cur
  s.tokenFull j || ms.any (fun k => decide (63 ≤ (s.sl k).cp)) ||
    decide (32 ≤ (s.copies.filter (fun c => decide (c.core = core))).length) ||
    (mc && (s.joinGroup (s.sl s.cur).team core (bits ((s.sl (ms.headD 0)).sVal (b + 2)) 0 4)).isNone)

/-- A copy at issue: `na` and `nd` are the words it reads at SA and SD, `desc` says where its descriptor stands, `spans` and
`extra` are the checks of R239. -/
def State.copyIssue (s : State) (i : Instr) (bar mc : Bool) (j d nd a na b : Nat) (spans : Slice → List LocalSpan)
    (extra : State → Nat → Option (BitVec 8 × BitVec 8 × Word × Word)) (desc : Slice → Option (Word × Nat)) : State :=
  let core := coreOfSlice s.cur
  if s.copyStall mc j b then s
  else s.once ((List.range nd).map (d + ·) ++ (List.range na).map (a + ·) ++ [b] ++ (if bar then [b + 1] else []) ++ (if mc then [b + 2] else [])) (fun u ms k =>
    let t := (u.sl k).team
    let x := u.sl k
    let barSpan : List LocalSpan := if bar then [⟨x.sVal (b + 1), 16, 16⟩] else []
    match badSpan (u.tm t) (spans x ++ barSpan) with
    | some (cause, a) => u.gangTrap ms cause 0 0xF a 0
    | none => match extra u k with
      | some (cause, detail, i0, i1) => u.gangTrap ms cause detail 0xF i0 i1
      | none =>
        let joined := if mc then u.joinGroup t core (bits (x.sVal (b + 2)) 0 4) else some (u, none, none)
        let (v0, group, key) := joined.getD (u, none, none)
        let v := match desc x with
          | some (at_, n) => v0.noteFound t 3 (localKey core at_.toNat) (coreKey core at_.toNat) n
          | none => v0
        let opers := x.copyOpers a na d nd b (if mc then 3 else if bar then 2 else 1)
        let c : Copy :=
          { id := v.nextId, team := t, lead := k, members := ms, token := j, granule := (encode i).headD 0
            opers := opers
            bar := if bar then some (x.sVal (b + 1)) else none
            kind := copyKindOf i opers (match desc x with | some (at_, n) => u.capture core at_ n | none => [])
            group := group, mcKey := key, cursor := 0, denied := false, state := .queued
            saved := [], piece := 0, part := 0, rows := [], asked := none, ans := none, got := [] }
        let w := (({ v with nextId := v.nextId + 1, copies := v.copies ++ [c] }).bindToken t j).modSls ms
          (fun y => { y with cp := y.cp + 1 })
        (if !c.hasWork then w.copyOver c 0 else w).advance ms 4)

/-- COPY (R241). Issues a linear or multicast byte copy. -/
def execCopy (mc bar : Bool) (j : BitVec 3) (d a b : BitVec 6) (s : State) : Host.Outcome State Fault Refusal :=
  .next (s.copyIssue (.copy mc bar j d a b) bar mc j.toNat d.toNat 2 a.toNat 2 b.toNat (fun _ => []) (fun _ _ => none)
    (fun _ => none))

/-- The tensor descriptor that q0 names. -/
def tensorDesc (b : Nat) (x : Slice) : Option (Word × Nat) := some (x.sVal b, 64)
def tensorSpans (b : Nat) (x : Slice) : List LocalSpan := [⟨x.sVal b, 64, 64⟩]

/-- COPYT_LD (R243). Issues a tensor box load, optionally multicast. -/
def execCopytLd (mc bar : Bool) (j : BitVec 3) (d a b : BitVec 6) (s : State) : Host.Outcome State Fault Refusal :=
  .next (s.copyIssue (.copytLd mc bar j d a b) bar mc j.toNat d.toNat 2 a.toNat 4 b.toNat (tensorSpans b.toNat) (fun _ _ => none)
    (tensorDesc b.toNat))

/-- COPYT_ST (R243). Issues a tensor box store. -/
def execCopytSt (bar : Bool) (j : BitVec 3) (d a b : BitVec 6) (s : State) : Host.Outcome State Fault Refusal :=
  .next (s.copyIssue (.copytSt bar j d a b) bar false j.toNat d.toNat 2 a.toNat 4 b.toNat (tensorSpans b.toNat) (fun _ _ => none)
    (tensorDesc b.toNat))

/-- The checks of R244: DETAIL of the first that fails. -/
def scaleCheck (desc : List Byte) (off tiles : Nat) : Option Nat :=
  if descElem desc ≠ 1 ∨ descRank desc ≠ 2 ∨ descBox desc 0 % 4 ≠ 0 ∨ descBox desc 0 < 4 ∨ 64 < descBox desc 0 ∨ descBox desc 1 ≠ 32 then
    some 1
  else if off % 128 ≠ 0 then some 2
  else if 512 * tiles < off + 32 * descBox desc 0 then some 3
  else none

/-- COPYT_SC (R244). Issues a placement of E8M0 scales into scale memory. -/
def execCopytSc (bar : Bool) (j : BitVec 3) (d a b : BitVec 6) (s : State) : Host.Outcome State Fault Refusal :=
  .next (s.copyIssue (.copytSc bar j d a b) bar false j.toNat d.toNat 1 a.toNat 4 b.toNat (tensorSpans b.toNat)
    (fun u k =>
      let off := (u.sl k).sVal d.toNat
      (scaleCheck (u.capture (coreOfSlice k) ((u.sl k).sVal b.toNat) 64) off.toNat (u.tm (u.sl k).team).tiles.length).map
        (fun n => (causeScaleLayout, BitVec.ofNat 8 n, off, 0)))
    (tensorDesc b.toNat))

/-- The structures of a gather or scatter: SA names the descriptor and the index list. -/
def gatherSpans (a b : Nat) (x : Slice) : List LocalSpan :=
  ⟨x.sVal a, 32, 32⟩ :: (if x.sVal b = 0 then [] else [⟨x.sVal (a + 1), 4 * (x.sVal b).toNat, 4⟩])

/-- The gather descriptor that SA names. -/
def gatherDesc (a : Nat) (x : Slice) : Option (Word × Nat) := some (x.sVal a, 32)

/-- COPYG (R246). Issues a gather of indexed rows into a dense block. -/
def execCopyg (mc bar : Bool) (j : BitVec 3) (d a b : BitVec 6) (s : State) : Host.Outcome State Fault Refusal :=
  .next (s.copyIssue (.copyg mc bar j d a b) bar mc j.toNat d.toNat 2 a.toNat 2 b.toNat (gatherSpans a.toNat b.toNat)
    (fun _ _ => none) (gatherDesc a.toNat))

/-- COPYS (R246). Issues a scatter of a dense block into indexed rows. -/
def execCopys (bar : Bool) (j : BitVec 3) (d a b : BitVec 6) (s : State) : Host.Outcome State Fault Refusal :=
  .next (s.copyIssue (.copys bar j d a b) bar false j.toNat d.toNat 2 a.toNat 2 b.toNat (gatherSpans a.toNat b.toNat)
    (fun _ _ => none) (gatherDesc a.toNat))

/-- Step 2 of R239: an address or length that is no multiple of the element width. -/
def reduceCheck (w : Nat) (dst src : DWord) (n : Word) : Option (BitVec 8 × BitVec 8 × Word × Word) :=
  if dst.toNat % w ≠ 0 then some (causeMisalign, 0, loWord dst, hiWord dst)
  else if src.toNat % w ≠ 0 then some (causeMisalign, 0, loWord src, hiWord src)
  else if n.toNat % w ≠ 0 then some (causeMisalign, 0, n, 0)
  else none

/-- COPYR (R247). Issues a reducing copy that adds source elements into the destination. -/
def execCopyr (form : BitVec 2) (bar : Bool) (j : BitVec 3) (d a b : BitVec 6) (s : State) :
    Host.Outcome State Fault Refusal :=
  .next (s.copyIssue (.copyr form bar j d a b) bar false j.toNat d.toNat 2 a.toNat 2 b.toNat (fun _ => [])
    (fun u k => reduceCheck (if form = 1 then 2 else 4) ((u.sl k).sPair d.toNat) ((u.sl k).sPair a.toNat)
      ((u.sl k).sVal b.toNat))
    (fun _ => none))

/-! ## Token buckets (R379, R380) -/

/-- COPYQOS_WRITE (R379). Sets a copy bucket and fills LEVEL to DEPTH. -/
def execCopyqosWrite (die part : Nat) (value : DWord) (s : State) : Host.Outcome State Fault Refusal :=
  .next (s.modDi die (fun d =>
    { d with
      copyqos := aset 0 d.copyqos part (value &&& 0xFFFFFFFFFF00FFFF)
      copyqst := aset 0 d.copyqst part (setBits (aget 0 d.copyqst part) 24 20 (bits value 24 20)) }))

/-- The refill of one partition's bucket: the pool and the bucket's COPYQST after it. -/
def refill (qos st : DWord) (pdepth pool : Nat) : Nat × DWord :=
  let rate := bits qos 0 16
  if rate = 0 then (pool, st)
  else
    let debt := bits st 44 20
    let p := min debt (rate / 2)
    (min pdepth (pool + p), BitVec.ofNat 64 ((debt - p) * 2 ^ 44 + min (bits qos 24 20) (bits st 24 20 + (rate - p)) * 2 ^ 24))

/-- COPY_TOKEN_REFILL (R380). Each us the pool and buckets refill and debts are repaid, once: State.tick calls it before every other
turn of the first cycle of a us. -/
def execCopyTokenRefill (die : Nat) (s : State) : Host.Outcome State Fault Refusal :=
  if s.ns / 1000 = (s.di die).refillUs then .next s
  else .next (s.modDi die (fun d =>
    let depth := bits d.poolcfg 24 20
    (List.range 16).foldl (fun e p =>
      let r := refill (aget 0 e.copyqos p) (aget 0 e.copyqst p) depth e.pool
      { e with pool := r.1, copyqst := aset 0 e.copyqst p r.2 })
      { d with pool := min depth (d.pool + bits d.poolcfg 0 16), refillUs := s.ns / 1000 }))

end Sys2Proof.Machine
end

