-- ==== Sys2Proof/Machine/Landing.lean ====
section
/-! DEFINITION. The landing of message bytes (spec R419, R422, R431) and the reads of a send's payload (R417, R418). -/

namespace Sys2Proof.Machine

open Sys2Proof

/-! ## Who asks -/

/-- The asker for the accesses of a team, resident or swapped out. -/
def State.ownerAsker (s : State) (t : Nat) : Asker :=
  let tm := s.anyTeam t
  ⟨tm.part, s.jobOf tm.part, some (headerBitmap tm.header.clear)⟩

/-- Core and slot of a team where it is resident, or where it was. -/
def State.seatOf (s : State) (t : Nat) : Nat × Nat :=
  if t < 2 ^ 24 then (coreOfTeam t, slotOfTeam t)
  else match s.saved.find? (fun x => decide (savedKey x.id = t)) with
    | none => (0, 0)
    | some x => (x.core, x.slot)

/-- A memory event of the receive engine for a team (R289, AGENT 5). -/
def State.recvEvent (s : State) (t : Nat) (addr : DWord) (tag : BitVec 20) (kind : BitVec 4) : State :=
  let tm := s.anyTeam t
  let (core, slot) := s.seatOf t
  s.appendEvent tm.part (memRecord addr tag 5 kind (whoBits tm.job tm.gen (16 * core + slot) (dieOfCore core)) s.selfPeer 1
    s.nsWord)

/-- A failed access of the receive engine: an event of KIND 1 for a denial, combined while the team is resident, of KIND 10
for any other error (R418, R422). -/
def State.recvFail (s : State) (t : Nat) (addr : DWord) (e : FarErr) (tag : BitVec 20) : State :=
  if e = .denied then (if t < 2 ^ 24 then s.noteDenial t 5 addr tag else s.recvEvent t addr tag 1)
  else s.recvEvent t addr tag 10

/-- The code of a failed access: DENIED or SEND_FAIL (R174). -/
def recvCode (e : FarErr) : BitVec 8 := if e = .denied then 9 else 6

/-! ## Receives -/

def State.recvOf (s : State) (id : Nat) : Option Recv := s.recvs.find? (fun r => decide (r.id = id))
/-- Have all bytes that the receive writes landed or been held, and has its message come to its end (R423)? -/
def Recv.over (r : Recv) : Bool :=
  !r.posted && decide (r.writes = 0) && (if r.rdv then r.endSeen && decide (r.pulls = []) else decide (r.len ≤ r.landed))

/-- A receive changed. One that comes to its end while its team is away takes its place in the order of what the team finds (R431). -/
def State.putRecv (s : State) (r : Recv) : State :=
  let ends := decide (2 ^ 24 ≤ r.team) && r.over && r.heldEnd.isNone
  { s with
    recvs := s.recvs.map (fun x => if x.id = r.id then (if ends then { r with heldEnd := some s.nextSeq } else r) else x)
    nextSeq := if ends then s.nextSeq + 1 else s.nextSeq }

def State.modRecv (s : State) (id : Nat) (f : Recv → Recv) : State :=
  match s.recvOf id with
  | none => s
  | some r => s.putRecv (f r)

/-- The engine reads the captured bytes of a receive: poison there is found once (R292). It lies at no far address. -/
def State.recvRead (s : State) (id : Nat) : State :=
  match s.recvOf id with
  | none => s
  | some r => if r.unfound then (s.putRecv { r with unfound := false }).recvEvent r.team 0 0 3 else s

/-- Box coordinates of a receive block. -/
def Recv.coords (r : Recv) : List Int := (List.range 4).map (fun i => sext (fieldW r.block (0x20 + 4 * i)))

/-- The nominal length N of the box. -/
def Recv.nominal (r : Recv) : Nat := descElem r.desc * descCount r.desc

/-- Where payload byte k goes (R243, R422): its far address, or none where the element lies outside the tensor; an address outside the
region of the tensor is an error. -/
def Recv.place (r : Recv) (k : Nat) : Except DWord (Option DWord) :=
  let e := descElem r.desc
  match tensorAddr r.desc r.coords (boxPos r.desc (k / e)) with
  | none => .ok none
  | some x => match inRegion (descBase r.desc) x with
    | .error a => .error a
    | .ok a => .ok (some (a + BitVec.ofNat 64 (k % e)))

/-- The far address of payload byte k in an event, or the box's base where the element lies outside the tensor. -/
def Recv.byteAddr (r : Recv) (k : Nat) : DWord :=
  match r.place k with
  | .error a => a
  | .ok a => a.getD (descBase r.desc)

/-- The first error stands. -/
def Recv.fail (r : Recv) (code : BitVec 8) : Recv := if r.code = 0 then { r with code := code } else r

/-- Does a far address name the scratchpad of a core? -/
def namesCore (a : DWord) (core : Nat) : Bool :=
  decide (bits a 62 2 = 1 ∧ bits a 40 22 = 0 ∧ bits a 35 2 = 0) &&
    decide (512 * bits a 37 3 + 256 * bits a 34 1 + bits a 19 15 % 256 = core ∧ bits a 27 7 = 0)

/-- The tag check of an access of the receive engine, a write or a read (R286). -/
def State.recvChecked (s : State) (t : Nat) (a : DWord) (write : Bool) : State :=
  s.checkedFor (s.ownerAsker t) a ⟨!write, write, false⟩ (fun u kind tag => u.recvEvent t a tag kind)

/-- Payload bytes with their places, as runs within one aligned word of the destination: each is written as one (R300). -/
def landRuns : List (Nat × DWord × Byte) → List (Nat × DWord × List Byte)
  | [] => []
  | (k, a, b) :: rest => match landRuns rest with
    | (k2, a2, bs) :: t =>
      if k2 = k + 1 ∧ a2 = a + 1 ∧ a2.toNat / 4 = a.toNat / 4 then (k, a, b :: bs) :: t else (k, a, [b]) :: (k2, a2, bs) :: t
    | [] => [(k, a, [b])]

/-- A run of payload bytes from offset k on written at an address (R422), or held while the team is away (R431). -/
def State.landRun (s : State) (id k : Nat) (a : DWord) (bs : List Byte) : State :=
  match s.recvOf id with
  | none => s
  | some r =>
    if 2 ^ 24 ≤ r.team ∧ namesCore a (s.seatOf r.team).1 then
      { s.putRecv { r with held := r.held ++ [(s.nextSeq, k, bs)] } with nextSeq := s.nextSeq + 1 }
    else
      let q := s.ownerAsker r.team
      let ps := (List.range bs.length).map (fun i => (a + BitVec.ofNat 64 i, s.resolve q (a + BitVec.ofNat 64 i) false true false))
      match ps with
      | (_, .peer p w) :: _ =>
        let u := s.sendRequest r.part r.die p w clsPcopyw 0 bs (s.farDue r.part) id 3 k
        u.1.putRecv { r with writes := r.writes + 1 }
      | _ =>
        let s1 := s.recvChecked r.team a true
        match ps.findSome? (fun p => match p.2 with | .fail e tag => some (p.1, e, tag) | _ => none) with
        | some (b, e, tag) => ((s1.putPlaces ps bs).putRecv (r.fail (recvCode e))).recvFail r.team b e tag
        | none => s1.putPlaces ps bs

/-- An element of the box whose address overflows sets the receive's code (R422). -/
def State.landOverflow (s : State) (id : Nat) (a : DWord) : State :=
  match s.recvOf id with
  | none => s
  | some r => (s.putRecv (r.fail 6)).recvEvent r.team a 0 10

/-- Payload bytes from offset k on landed: those at or beyond min(L, N) are discarded (R422). -/
def State.landBytes (s0 : State) (id k : Nat) (all : List Byte) : State :=
  let s := s0.recvRead id
  match s.recvOf id with
  | none => s
  | some r =>
    let bs := all.take (min r.len r.nominal - k)
    let ks := (List.range bs.length).map (k + ·)
    let outside := (ks.filterMap (fun n => match r.place n with | .error a => some (n / descElem r.desc, a) | .ok _ => none)).dedup
    let places := (ks.zip bs).filterMap (fun e => match r.place e.1 with | .ok (some a) => some (e.1, a, e.2) | _ => none)
    (landRuns places).foldl (fun t e => t.landRun id e.1 e.2.1 e.2.2) (outside.foldl (fun t e => t.landOverflow id e.2) s)

/-! ## Completion (R423, R424) -/

/-- Has everything the receive writes been performed or dropped, and its message come to its end (R423)? -/
def Recv.complete (r : Recv) : Bool := r.over && decide (r.held = [])

/-- The entry of a completed receive (R424). -/
def Recv.cookie (r : Recv) : List Byte :=
  natLe 4 (fieldW r.block 0x1C).toNat ++ natLe 4 r.code.toNat ++ natLe 4 r.mtag.toNat ++ natLe 4 r.len ++
    natLe 8 r.msrc.toNat ++ natLe 4 r.handle.toNat ++ natLe 4 0

/-- An entry appended to the cookie queue whose header stands at a key, or counted as dropped (R424). -/
def State.cookieAppend (s : State) (key : Nat) (entry : List Byte) : State :=
  let prod := s.word key
  let cons := s.word (key + 4)
  let n := s.num (key + 8) 4
  if 1 ≤ n ∧ n ≤ 4096 ∧ 2 ^ Nat.log2 n = n ∧ (prod - cons).toNat < n then
    (s.putMem (key + 32 + 32 * (prod.toNat % n)) entry).putWord key (prod + 1)
  else s.putWord (key + 12) (satInc (s.word (key + 12)))

/-- The actions of a completed receive in their order: barrier, cookie queue, token (R423). It leaves the engine. -/
def State.finishRecv (s : State) (r : Recv) : State :=
  let core := (s.seatOf r.team).1
  let s0 := ({ s with recvs := s.recvs.filter (fun x => decide (x.id ≠ r.id)) }).modTm r.team (fun x =>
    if r.posted then x else { x with landed := r.handle :: x.landed })
  let s1 := if r.bar then s0.barUpdate r.team 5 core (fieldW r.block 0x30) 1 (-(r.nominal : Int)) (decide (r.code ≠ 0)) none
    else s0
  let cq := coreKey core (fieldW r.block 0x34).toNat
  let s2 := if r.cq then
      (s1.noteFound r.team 5 (localKey core (fieldW r.block 0x34).toNat) cq 32).cookieAppend cq r.cookie
    else s1
  match r.tok with
  | none => s2
  | some j => s2.finishToken r.team j r.code

/-- A receive whose team is resident completes, when it can. -/
def State.endRecv (s : State) (id : Nat) : State :=
  match s.recvOf id with
  | none => s
  | some r => if r.complete ∧ r.team < 2 ^ 24 then (s.recvRead id).finishRecv r else s

/-- What was held while a team was away happens now, in the order in which it came to be held (R431). -/
def State.applyAway (s : State) (t : Nat) : State :=
  let rs := s.recvs.filter (fun r => decide (r.team = t))
  let waiting := rs.flatMap (fun r => r.held.map (fun e => (e.1, r.id, some e.2)) ++ (r.heldEnd.map (fun n => (n, r.id, none))).toList)
  let s1 := { s with recvs := s.recvs.map (fun (r : Recv) => if r.team = t then { r with held := [], heldEnd := none } else r) }
  (sortBy (fun a b => decide (a.1 < b.1)) waiting).foldl (fun u e => match e.2.2 with
    | some (k, bs) => u.landBytes e.2.1 k bs
    | none => u.endRecv e.2.1)
    ((rs.filter (fun r => r.complete && r.heldEnd.isNone)).foldl (fun u r => u.endRecv r.id) s1)

/-! ## Payload reads (R417, R418) -/

/-- A send's error: the first one stands until its token finishes. -/
def SendOp.fail (x : SendOp) (code : BitVec 8) : SendOp := if x.code = 0 then { x with code := code } else x

/-- A payload byte in the own core scratchpad of a team that is away, out of its record (R431). -/
def State.heldByte (s : State) (t : Nat) (a : DWord) : Option Byte :=
  if t < 2 ^ 24 then none
  else match s.saved.find? (fun x => decide (savedKey x.id = t)) with
    | none => none
    | some r => if namesCore a r.core ∧ r.team.spbase ≤ bits a 0 19 ∧ bits a 0 19 < r.team.splimit then
        some (aget 0 r.scratch (bits a 0 19 - r.team.spbase)) else none

/-- What one payload byte is read as: the byte, and the failure of its read. A denied one is zero, one that fails otherwise is 0xFF.
Payload that stands in another package is answered by that package (log entry 14). -/
def State.payByte (s : State) (t : Nat) (p : DWord × Target) : Byte × Option (FarErr × BitVec 20) :=
  let failed (e : FarErr) (tag : BitVec 20) : Byte × Option (FarErr × BitVec 20) :=
    (if e = .denied then 0 else 0xFF, some (e, tag))
  match s.heldByte t p.1 with
  | some b => (b, none)
  | none => match p.2 with
    | .key k => (s.byte k, none)
    | .fail e tag => failed e tag
    | .peer _ w =>
      let r := Config.peerReply s.freeNo w.toNat
      match statErr r.stat with
      | none => (r.data.extractLsb' 0 8, none)
      | some e => failed e 0

/-- The failures among the bytes of a payload, one for each line of 64 bytes: where, what and the tag. -/
def firstFails : List (DWord × Byte × Option (FarErr × BitVec 20)) → List Nat → List (DWord × FarErr × BitVec 20)
  | [], _ => []
  | (a, _, some (e, tag)) :: r, seen =>
    if seen.contains (a.toNat / 64) then firstFails r seen else (a, e, tag) :: firstFails r (a.toNat / 64 :: seen)
  | _ :: r, seen => firstFails r seen

/-- n payload bytes of a send from offset k on: the state with its events, one for each failing line, the bytes, and the first error's
code, 0 for none (R417, R418). -/
def State.readPayload (s : State) (x : SendOp) (k n : Nat) : State × List Byte × BitVec 8 :=
  let q := s.ownerAsker x.team
  let ps := (List.range n).map (fun i =>
    let a := x.addr + BitVec.ofNat 64 (k + i)
    (a, s.resolve q a true false false))
  let s1 := (linesOf (ps.map Prod.fst)).foldl (fun u l =>
    match ps.find? (fun p => decide (p.1.toNat / 64 = l)) with
    | some p => u.recvChecked x.team p.1 false
    | none => u) s
  let s2 := ps.foldl (fun u p => match p.2, s.heldByte x.team p.1 with
    | .key key, none => u.foundBy key 1 (fun v kind => v.recvEvent x.team p.1 (s.pageTag q p.1) kind)
    | _, _ => u) s1
  let got := ps.map (fun p => (p.1, s2.payByte x.team p))
  let bad := firstFails got []
  (bad.foldl (fun u e => u.recvFail x.team e.1 e.2.1 e.2.2) s2, got.map (fun g => g.2.1),
    match bad with | [] => 0 | e :: _ => recvCode e.2.1)

end Sys2Proof.Machine
end

