-- ==== Sys2Proof/Machine/Jobs.lean ====
section
/-! DEFINITION. Job directories and image headers (spec R356, R357, R392), what becomes of an arriving packet (R370, R393),
parked traffic (R371), acknowledgements and NACKs (R406, R407), and the streams at both ends. -/

namespace Sys2Proof.Machine

open Sys2Proof

/-! ## Directories and image headers -/

/-- Key of the structure that a word names: die [39:37] and address [36:0]. -/
def placeKey (w : DWord) : Nat := hbmKey (bits w 37 3) (bits w 0 37)

/-- Entry of a directory, as a JOBDIR register locates it, that holds a job: its index and the image header's place. -/
def State.dirFind (s : State) (reg : DWord) (job : BitVec 16) : Option (Nat × DWord) :=
  if !reg.getLsbD 0 ∨ job = 0 then none
  else
    let base := hbmKey (bits reg 37 3) (bits reg 12 25 * 4096)
    ((List.range 256).find? (fun e => decide (s.num (base + 16 * e) 2 = job.toNat))).map
      (fun e => (e, s.dword (base + 16 * e + 8)))

/-- The entry of a job in the directory that a partition uses since its last switch. -/
def State.jobEntry (s : State) (p : Nat) (job : BitVec 16) : Option (Nat × DWord) := s.dirFind (s.pt p).jobdirUsed job

/-- The partition whose current job is a job: it issues, or its tenant reset has begun. A job being switched out is current
no more (R370, R432). -/
def State.currentPart (s : State) (job : BitVec 16) : Option Nat :=
  (List.range 16).find? (fun p => decide ((s.pt p).switch = none) && (match (s.pt p).job with
    | some j => decide (j.job = job)
    | none => false))

/-- The partition whose directory holds a job, with the entry. -/
def State.directoryPart (s : State) (job : BitVec 16) : Option (Nat × Nat × DWord) :=
  (List.range 16).findSome? (fun p => (s.jobEntry p job).map (fun e => (p, e.1, e.2)))

/-- Key of a job's save image (R357, R364). -/
def State.imageKey (s : State) (header : DWord) : Nat := placeKey (s.dword (placeKey header + 0x60))

/-! ## What becomes of a packet (R370) -/

/-- Does a class carry requests, or one-way packets? -/
def isRequest (c : BitVec 4) : Bool := decide (c = clsPload ∨ c = clsPatom ∨ c = clsPull)
def isOneWay (c : BitVec 4) : Bool := decide (c = clsMsg ∨ c = clsRts ∨ c = clsPstore ∨ c = clsPcopyw)

inductive Fate where
  | deliver (part : Nat)
  | drop (part : Nat)             -- of another generation
  | park (image : Nat)
  | nack (stat : BitVec 4)
  deriving DecidableEq, Repr

/-- The outcome of R370. Management packets, answers and NACKs are neither parked nor NACKed. -/
def State.fate (s : State) (pkt : Packet) : Fate :=
  if pkt.cls = clsMgmt then .deliver 0
  else match s.currentPart pkt.job with
    | some p =>
      let g := (s.jobOf p).gen
      if !s.engineOn p ∧ (isRequest pkt.cls ∨ isOneWay pkt.cls) then .nack 1
      else if pkt.gen = g ∨ pkt.gen = g - 1 then .deliver p
      else .drop p
    | none =>
      if !(isRequest pkt.cls || isOneWay pkt.cls) then .deliver 0
      else match s.directoryPart pkt.job with
        | none => .nack 1
        | some (_, _, h) => if isRequest pkt.cls then .nack 0 else .park (s.imageKey h)

/-- The event of a packet of another generation. -/
def State.dropGen (s : State) (p : Nat) (pkt : Packet) : State :=
  ({ s with dropped := s.dropped + 1 }).memEventJob p pkt.dstDie.toNat 0 (pkt.gen.setWidth 20) 7 9 pkt.srcPeer

/-! ## Parked traffic (R371) -/

/-- A parked record: its header and the packet as carried, padded to 16. -/
def parkRecord (pkt : Packet) : List Byte :=
  let body := pktBytes pkt
  let head : BitVec 128 := pkt.seq ++ (0#16 ++ (pkt.cls ++ (pkt.gen ++ (BitVec.ofNat 32 body.length ++ (0#9 ++ (pkt.srcDie ++
    pkt.srcPeer))))))
  natLe 16 head.toNat ++ body ++ List.replicate ((16 - body.length % 16) % 16) 0

/-- A packet appended to the parked-traffic area of a save image; none when the area is full. -/
def State.parkPacket (s : State) (image : Nat) (pkt : Packet) : Option State :=
  let cap := (s.dword (image + 0x10)).toNat
  let off := (s.dword (image + 0x18)).toNat
  let used := (s.dword (image + 0x20)).toNat
  let r := parkRecord pkt
  if cap < off + used + r.length then none
  else some (((s.putMem (image + off + used) r).putDword (image + 0x20) (BitVec.ofNat 64 (used + r.length))).putWord (image + 0x88)
    (s.word (image + 0x88) + 1))

/-! ## Acknowledgements, NACKs and answers -/

/-- The packet that goes back for a packet: its ends exchanged. -/
def replyTo (pkt : Packet) (cls : BitVec 4) : Packet :=
  { dstPeer := pkt.srcPeer, dstDie := pkt.srcDie, srcPeer := pkt.dstPeer, srcDie := pkt.dstDie, cls := cls, det := false
    so := false, gen := pkt.gen, job := pkt.job, seq := 0, txid := pkt.txid, tag := 0, stat := 0, op := pkt.op
    addr := pkt.addr, dline := 0, payload := [] }

/-- SEQ and group of a packet in an ADDR field (DESIGN CHOICE, log entry 15). -/
def seqAddr (pkt : Packet) : BitVec 42 := 0#8 ++ (BitVec.ofNat 2 (groupOf pkt.cls) ++ pkt.seq)

/-- The stream and SEQ that an acknowledgement or a NACK names. -/
def namedStream (pkt : Packet) : StreamId := ⟨pkt.dstPeer, pkt.dstDie, pkt.srcPeer, pkt.srcDie, bits pkt.addr 32 2⟩
def namedSeq (pkt : Packet) : Word := pkt.addr.extractLsb' 0 32

/-- Is a packet the acknowledgement of a SEQ (DESIGN CHOICE, log entry 15)? -/
def isAck (pkt : Packet) : Bool := decide (pkt.cls = clsAns ∧ pkt.op = 0xFF)

/-- Packets of sends with these numbers in a stream are settled: accepted, or abandoned (R417). -/
def State.settleSends (s : State) (i : StreamId) (hit : Nat → Bool) : State :=
  if i.group ≠ 1 then s
  else { s with sends := s.sends.map (fun (x : SendOp) =>
    if x.die = i.srcDie.toNat ∧ x.dstPeer = i.dstPeer ∧ x.dstDie = i.dstDie then
      { x with packets := x.packets.filter (fun n => !hit n) } else x) }

/-- The source learns that a stream is acknowledged up to a SEQ (R406). -/
def State.acknowledged (s : State) (i : StreamId) (seq : Word) : State :=
  let s1 := (s.ackStream i seq).settleSends i (fun n => seqLe (BitVec.ofNat 32 n) seq)
  let t := s1.txOf i
  match t.nacked with
  | some (n, _) => if seqLe n seq then s1.putTx { t with nacked := none } else s1
  | none => s1

/-- A delivered packet is acknowledged to its source. -/
def State.sendAck (s : State) (pkt : Packet) : State :=
  if pkt.srcPeer = s.selfPeer then s.acknowledged (pktStream pkt) pkt.seq
  else s.putOnPath { replyTo pkt clsAns with op := 0xFF, addr := seqAddr pkt, txid := 0 }

/-- The event of a refusal with STAT 1, in the management log (R392, R410). -/
def State.logRefusal (s : State) (pkt : Packet) : State :=
  s.appendLog (memRecord (2#2 ++ (s.selfPeer ++ pkt.addr)) 0 7 8 (whoBits pkt.job pkt.gen 0 0) pkt.srcPeer 1 s.nsWord)

/-- A packet is refused to its source (R370, R407); OP is 1 where its park area was full, else 0 (R371; DESIGN CHOICE, log
entry 15). -/
def State.sendNack (s : State) (pkt : Packet) (stat : BitVec 4) (full : Bool) : State :=
  ((if stat = 1 then s.logRefusal pkt else s).sendPacket
    { replyTo pkt clsNack with stat := stat, addr := seqAddr pkt, op := (BitVec.ofBool full).setWidth 8 }).1

/-- An answer to a request, or to a one-way packet of group 2 (R410). -/
def State.sendAnswer (s : State) (pkt : Packet) (stat : BitVec 4) (tag : BitVec 20) (payload : List Byte) : State :=
  (s.sendPacket { replyTo pkt clsAns with stat := stat, tag := tag, payload := payload }).1

/-! ## The receiving end of a stream (R406, R407) -/

def State.rxOf (s : State) (i : StreamId) : RxStream :=
  ((s.rxStreams.find? (fun t => decide (t.id = i)))).getD ⟨i, 0, [], none⟩

def State.putRx (s : State) (t : RxStream) : State :=
  { s with rxStreams := s.rxStreams.filter (fun x => decide (x.id ≠ t.id)) ++ [t] }

/-- Packets of a stream that stand in the inbox. -/
def State.inboxOf (s : State) (i : StreamId) : List Packet := s.inbox.filter (fun q => decide (pktStream q = i))

/-- Is the packet the first of its stream in the inbox? -/
def State.isFirst (s : State) (pkt : Packet) : Bool := decide ((s.inboxOf (pktStream pkt)).head? = some pkt)

/-- The packet taken out of the inbox. -/
def State.take (s : State) (pkt : Packet) : State := { s with inbox := s.inbox.erase pkt }

/-- A packet is refused: it and every later packet of its stream that has come are NACKed, and the stream waits for it
to arrive again (R407). A packet of this package stays where it is instead. -/
def State.refuse (s : State) (pkt : Packet) (stat : BitVec 4) (full : Bool) : State :=
  let i := pktStream pkt
  if pkt.srcPeer = s.selfPeer then s
  else
    let t := s.rxOf i
    let after_ (q : Packet) : Bool := !seqLe q.seq pkt.seq
    let later := (s.inboxOf i).filter after_ ++ t.held
    let s1 := ({ s with inbox := s.inbox.filter (fun q => decide (pktStream q ≠ i) || seqLe q.seq pkt.seq && decide (q ≠ pkt)) }).putRx
      { t with expect := pkt.seq, held := [], nackFrom := some pkt.seq }
    later.foldl (fun u q => u.sendNack q 0 false) (s1.sendNack pkt stat full)

/-! ## Packets dropped from a stream that has been refused -/

/-- Packets of a stream abandoned at its sending end: the later ones take the freed SEQs (DESIGN CHOICE, log entry 15). -/
def State.abandon (s : State) (i : StreamId) (bad : Packet → Bool) : State :=
  let t := s.txOf i
  let first := (t.unacked.headD { replyTo (pktOfBytes []) 0 with seq := t.nextSeq }).seq
  let keep := t.unacked.filter (fun q => !bad q)
  if keep.length = t.unacked.length then s
  else
    let new (n : Nat) : Word := first + BitVec.ofNat 32 n
    let moved : List (Word × Word) := (List.range keep.length).zip keep |>.map (fun e => (e.2.seq, new e.1))
    let renum (w : Word) : Word := ((moved.find? (fun e => decide (e.1 = w))).map Prod.snd).getD w
    let gone := (t.unacked.filter bad).map (fun q => q.seq.toNat)
    let s1 := (s.putTx { t with
      unacked := keep.map (fun q => { q with seq := renum q.seq })
      sent := keep.foldl (fun m q => aput m (renum q.seq).toNat (aget 0 t.sent q.seq.toNat)) []
      nextSeq := new keep.length
      nacked := if keep = [] then none else t.nacked.map (fun e => (renum e.1, e.2)) }).settleSends i (fun n => gone.contains n)
    { s1 with
      peerReqs := s1.peerReqs.map (fun (r : PeerReq) => if r.stream = i then { r with seq := renum r.seq } else r)
      sends := s1.sends.map (fun (x : SendOp) =>
        if i.group = 1 ∧ x.die = i.srcDie.toNat ∧ x.dstPeer = i.dstPeer ∧ x.dstDie = i.dstDie then
          { x with packets := x.packets.map (fun n => (renum (BitVec.ofNat 32 n)).toNat) } else x) }

/-- Kept packets of a stream go out again, in SEQ order. -/
def State.resendSome (s : State) (i : StreamId) (which : Packet → Bool) : State :=
  let t := s.txOf i
  let out := t.unacked.filter which
  out.foldl (fun u q => u.putOnPath q) (s.putTx (t.mark out s.ns))

/-- Every kept packet of a stream goes out again, from a SEQ on (R406, R407). -/
def State.resend (s : State) (i : StreamId) (frm : Option Word) : State :=
  s.resendSome i (fun q => match frm with | none => true | some n => seqLe n q.seq)

/-- The kept packets of a stream that were last sent 20 us ago or earlier (R411). -/
def State.resendDue (s : State) (i : StreamId) (q : Packet) : Bool :=
  decide (aget 0 (s.txOf i).sent q.seq.toNat + 20000 ≤ s.ns)

end Sys2Proof.Machine
end

