-- ==== Sys2Proof/Machine/Keys.lean ====
section
/-! DEFINITION. Holds, wills, value waits and locks, the turns of waiting slices, and the walks that report deadlocks (spec
R306 to R325, R433). -/

namespace Sys2Proof.Machine

open Sys2Proof

/-! ## Keys of instructions (R306, R310) -/

/-- The address that SA names: a pair, or a local address of the slice's core as a key. -/
def State.keyAddr (s : State) (k : Nat) (loc : Bool) (a : Nat) : DWord :=
  if loc then localKey (coreOfSlice k) ((s.sl k).sVal a).toNat else (s.sl k).sPair a

/-- s registers that the key takes. -/
def keySrcs (loc : Bool) (a : Nat) : List Nat := if loc then [a] else [a, a + 1]

/-- The checks of R310 over n bytes; a gang that passes goes on with the key. -/
def State.keyChecked (s : State) (ms : List Nat) (k : Nat) (loc : Bool) (a n : Nat) (go : State → DWord → State) : State :=
  let tm := s.tm (s.sl k).team
  let l := (s.sl k).sVal a
  if loc then
    if l.toNat % n ≠ 0 then s.gangTrap ms causeMisalign 0 0xF l 0
    else if l.toNat < tm.spbase ∨ tm.splimit < l.toNat + n then s.gangTrap ms causeLocalBounds 0 0xF l 0
    else go s (s.keyAddr k loc a)
  else
    let p := (s.sl k).sPair a
    if p.toNat % n ≠ 0 then s.gangTrap ms causeMisalign 0 0xF (loWord p) (hiWord p) else go s p

/-- What another package answers to a registration (R306): formed or not, and whether it has room (log entry 14). -/
def State.peerRegister (s : State) (key : DWord) : PeerReply := Config.peerReply s.freeNo (2 ^ 64 + key.toNat)

/-- Where a registration on a key goes: the object it is kept under and whether its home has room, or the FARSTAT bit of a
far failure. -/
def State.keyHome (s : State) (t : Nat) (key : DWord) : Except Nat (DWord × Bool) :=
  match s.homeOf (s.tm t).part key with
  | .here _ o => .ok (o, true)
  | .fail b => .error b
  | .away =>
    let r := s.peerRegister key
    if r.stat ≠ 0 then .error farFault else .ok (key, !r.data.getLsbD 0)

/-- A far failure of an instruction of the gang, in its lead slice (R433). -/
def State.leadFails (s : State) (k : Nat) (agent : BitVec 4) (key : DWord) (e : FarErr) (tag : BitVec 20) : State :=
  (s.failEvent (s.sl k).team agent key e tag).farFailed k (farErrInfo e).1 0xF

/-- The failure that a FARSTAT bit names. -/
def errOfBit (b : Nat) : FarErr :=
  match b with
  | 0 => .timeout
  | 1 => .noPeer
  | 2 => .partition
  | _ => .fault

/-! ## Holds and wills (R311, R312) -/

/-- The effect of WHOLD and WWILL. -/
def State.addKind (s : State) (loc : Bool) (d a : BitVec 6) (kind : BitVec 2) (src : BitVec 3) : State :=
  s.once (keySrcs loc a.toNat) (fun u ms k => u.keyChecked ms k loc a.toNat 4 (fun v key =>
    let t := (v.sl k).team
    match v.keyHome t key with
    | .error b => (v.leadFails k 0 key (errOfBit b) 0).answer ms d.toNat 0
    | .ok (obj, room) =>
      match (if room ∨ (v.regOf t obj kind).isSome then v.addReg t obj kind src else none) with
      | some r => r.1.answer ms d.toNat (BitVec.ofNat 32 r.2)
      | none =>
        (match (v.entryOf t obj kind src 0).die with | some die => v.wftOverflow die | none => v).answer ms d.toNat 0))

/-- WHOLD (R311). Adds a hold registration on a key. -/
def execWhold (loc : Bool) (d a : BitVec 6) (s : State) : Host.Outcome State Fault Refusal := .next (s.addKind loc d a 1 5)

/-- WWILL (R311). Adds a will registration on a key. -/
def execWwill (loc : Bool) (d a : BitVec 6) (s : State) : Host.Outcome State Fault Refusal := .next (s.addKind loc d a 2 6)

/-- Kinds of entry that a WDROP kind names. -/
def dropKinds (kind : BitVec 2) : List (BitVec 2) := if kind = 0 then [1] else if kind = 1 then [2] else [1, 2]

/-- WDROP (R312). Drops hold or will registrations on a key. -/
def execWdrop (loc : Bool) (kind : BitVec 2) (d a : BitVec 6) (s : State) : Host.Outcome State Fault Refusal :=
  .next (s.once (keySrcs loc a.toNat) (fun u ms k => u.keyChecked ms k loc a.toNat 4 (fun v key =>
    let t := (v.sl k).team
    match v.keyHome t key with
    | .error b => (v.leadFails k 0 key (errOfBit b) 0).answer ms d.toNat 0xFFFFFFFF
    | .ok (obj, _) =>
      if (dropKinds kind).all (fun x => (v.regOf t obj x).isNone) then v.answer ms d.toNat 0xFFFFFFFF
      else
        let r := (dropKinds kind).foldl (fun (acc : State × Nat) x =>
          let y := acc.1.dropReg t obj x
          (y.1, acc.2 + y.2)) (v, 0)
        r.1.answer ms d.toNat (BitVec.ofNat 32 r.2))))

/-! ## Value waits and locks (R313, R314) -/

/-- What one access to the key's word gives: the state after and the word, or the failure with the page's tag. -/
def State.keyAccess (s : State) (k : Nat) (loc : Bool) (key : DWord) (n : Nat) (rmw : Bool) (new : Nat → Nat) :
    State × Except (FarErr × BitVec 20) Nat :=
  let t := (s.sl k).team
  let agent : BitVec 4 := if rmw then 2 else 0
  let at_ (u : State) (m : Nat) : State × Except (FarErr × BitVec 20) Nat :=
    let u1 := u.noteFound t agent key m n
    let old := u1.num m n
    (if rmw ∧ new old ≠ old then (if loc then u1.putMem m (natLe n (new old)) else u1.deliver m (natLe n (new old))) else u1, .ok old)
  if loc then at_ s (coreKey (coreOfSlice k) (bits key 0 19))
  else match s.resolve (s.teamAsker t) key true rmw rmw with
    | .key m => at_ (s.checkedTag t agent key) m
    | .fail e tag => (s.checkedTag t agent key, .error (e, tag))
    | .peer _ _ =>
      let r := Config.peerReply s.freeNo key.toNat
      match statErr r.stat with
      | some e => (s, .error (e, 0))
      | none => (s, .ok (r.data.toNat % 256 ^ n))

/-- Has the lead slice of a gang an earlier far access, not yet performed, to one of the n bytes that SA names (R172)? -/
def State.keyBehind (s : State) (loc : Bool) (a n : Nat) : Bool :=
  let k := (s.members s.cur).headD 0
  let key := s.keyAddr k loc a
  let at_ : Target := if loc then .key (coreKey (coreOfSlice k) (bits key 0 19)) else s.resolve (s.teamAsker (s.sl k).team) key true false false
  s.fars.any (fun f => decide (f.slice = k) && f.ops.any (fun o => !o.done && placesMeet at_ (s.farTarget f o.addr) n f.kind.width))

/-- The lock word that a team writes (R314). -/
def State.lockWord (s : State) (t : Nat) : DWord := 1#1 ++ (0#11 ++ (s.selfPeer ++ s.holderWord t))

/-- How an evaluation of a wait came out: the result for s[SD], whether the instruction acquires, and whether its condition
was met; or the wait goes on with the word read. -/
inductive KeyEnd where
  | ends (r : Word) (acq met : Bool)
  | waits (x : Word)
  deriving DecidableEq, Repr

/-- One evaluation of a value wait or lock wait by the gang ms with lead slice k. -/
def State.keyEval (s : State) (ms : List Nat) (k : Nat) (w : KeyWait) (once : Bool) : State × KeyEnd :=
  let t := (s.sl k).team
  if !w.lock then
    match s.keyAccess k w.loc w.key 4 false id with
    | (s1, .error (e, tag)) =>
      (s1.leadFails k 0 w.key e tag, .ends (if (farErrInfo e).2.2 then 0 else 0xFFFFFFFF) true false)
    | (s1, .ok n) =>
      let x := BitVec.ofNat 32 n
      (s1, if waitvHolds w.cond x w.comparand then .ends x true true else .waits x)
  else
    match s.keyAccess k w.loc w.key 8 true (fun old => if old = 0 then (s.lockWord t).toNat else old) with
    | (s1, .error (e, tag)) => (s1.leadFails k 2 w.key e tag, .ends 4 false false)
    | (s1, .ok old) =>
      if old ≠ 0 then (s1, if once then .ends 0 false true else .waits 0)
      else match s1.keyHome t w.key with
        | .error _ => (s1.modSls ms (fun x => x.stick stWftUnreg), .ends 3 true true)
        | .ok (obj, room) => match (if room ∨ (s1.regOf t obj 1).isSome then s1.addReg t obj 1 3 else none) with
          | some r => (r.1, .ends 1 true true)
          | none =>
            let s2 := match (s1.entryOf t obj 1 3 0).die with | some die => s1.wftOverflow die | none => s1
            (s2.modSls ms (fun x => x.stick stWftUnreg), .ends 3 true true)

/-- The instruction completes in every slice of the gang. -/
def State.keyDone (s : State) (ms : List Nat) (k : Nat) (d : BitVec 6) (r : Word) (acq met : Bool) : State :=
  let s1 := (s.waitOver k).modSls ms (fun x => { x with wait := none })
  let s2 := if met then s1.waitMet (s.sl k).team else s1
  (if acq then s2.acquireAll ms else s2).answer ms d.toNat r

/-- The far timeout that a wait of a team starts from, at the remaining time of the entry it takes over (R316, R325). -/
def State.keyTill (s : State) (t : Nat) (e : Option WftEntry) : Nat :=
  s.ns + (match e with
    | some x => if x.torem = 0 then (s.pt (s.tm t).part).farTimeoutNs else x.torem.toNat
    | none => (s.pt (s.tm t).part).farTimeoutNs)

/-- WAITV and LOCKACQ at issue. A registration that the target of a peer key cannot form ends them as a failed access does (R306). -/
def State.keyStart (s : State) (srcs : List Nat) (loc : Bool) (scope : BitVec 3) (d a : BitVec 6) (n : Nat) (once : Bool)
    (wait : State → Nat → DWord → KeyWait) : State :=
  if s.keyBehind loc a.toNat n then s
  else s.once srcs (fun u ms k => u.clampOnce ms k scope (ordInfo 1 scope) (fun v => v.keyChecked ms k loc a.toNat n (fun z key =>
    let w := wait z k key
    match z.keyEval ms k w once with
    | (z1, .ends r acq _) => z1.keyDone ms k d r acq false
    | (z1, .waits x) =>
      match z1.keyHome (z.sl k).team key with
      | .error b => (z1.leadFails k (if w.lock then 2 else 0) key (errOfBit b) 0).keyDone ms k d (if w.lock then 4 else 0xFFFFFFFF)
          (!w.lock) false
      | .ok (obj, room) =>
        z1.registering k ms obj (if w.lock then 3 else 2) room (fun y e => y.modSls ms (fun q =>
          { q with wait := some (.key { w with
              entry := e.map WftEntry.id, next := y.cycle + 64, backoff := 64, till := y.keyTill (z.sl k).team e, last := x } k) })))))

/-- WAITV (R313). Waits until a word meets a comparison, registering a wait. -/
def execWaitv (loc : Bool) (cond : BitVec 2) (scope : BitVec 3) (d a b : BitVec 6) (s : State) :
    Host.Outcome State Fault Refusal :=
  .next (s.keyStart (keySrcs loc a.toNat ++ [b.toNat]) loc scope d a 4 false (fun u k key =>
    ⟨loc, key, cond, (u.sl k).sVal b.toNat, scope, d, false, none, 0, 0, 0, 0⟩))

/-- LOCKACQ (R314). Acquires a lock word, waiting or trying once, and records a hold. -/
def execLockacq (loc once : Bool) (scope : BitVec 3) (d a : BitVec 6) (s : State) : Host.Outcome State Fault Refusal :=
  .next (s.keyStart (keySrcs loc a.toNat) loc scope d a 8 once (fun _ _ key =>
    ⟨loc, key, 0, 0, scope, d, true, none, 0, 0, 0, 0⟩))

/-- LOCKREL (R315). Releases a lock word and drops the team's hold. -/
def execLockrel (loc : Bool) (scope : BitVec 3) (d a : BitVec 6) (s : State) : Host.Outcome State Fault Refusal :=
  if s.keyBehind loc a.toNat 8 then .next s
  else if s.gangRelWaits scope then .next ((s.members s.cur).foldl (fun t k => t.markClamp k scope) s)
  else .next (s.once (keySrcs loc a.toNat) (fun u ms k => u.clampOnce ms k scope (ordInfo 2 scope) (fun v =>
    v.keyChecked ms k loc a.toNat 8 (fun z key =>
      let t := (z.sl k).team
      let r := (z.releaseAll ms).keyAccess k loc key 8 true (fun old => if 2 ^ 63 ≤ old then 0 else old)
      let (s1, held) : State × Nat := match r with
        | (y, .error (e, tag)) => (y.leadFails k 2 key e tag, 0)
        | (y, .ok old) => (y, old / 2 ^ 63)
      let o : DWord := match s1.homeOf (s1.tm t).part key with
        | .here _ o => o
        | _ => key
      if (s1.regOf t o 1).isSome then (s1.dropReg t o 1).1.answer ms d.toNat (BitVec.ofNat 32 held)
      else s1.answer ms d.toNat (BitVec.ofNat 32 (held + 2))))))

/-! ## Waiting gangs (R313, R314, R316, R317) -/

/-- The slices that stand in one gang-wide wait with lead slice k. -/
def State.keyGang (s : State) (k : Nat) : List Nat :=
  (s.tm (s.sl k).team).slices.filter (fun j => match (s.sl j).wait with
    | some (.key _ l) => decide (l = k)
    | _ => false)

/-- The wait goes on with the word read last. -/
def State.keyStays (s : State) (ms : List Nat) (f : KeyWait → KeyWait) : State :=
  s.modSls ms (fun x => { x with wait := match x.wait with
    | some (.key w l) => some (.key (f w) l)
    | w => w })

/-- A waiting gang evaluates its condition again. -/
def State.keyAgain (s : State) (k : Nat) (w : KeyWait) : State :=
  let ms := s.keyGang k
  match s.keyEval ms k w false with
  | (s1, .ends r acq met) => s1.keyDone ms k w.sd r acq met
  | (s1, .waits x) => s1.keyStays ms (fun y =>
      { y with last := x, backoff := min (2 * y.backoff) 8192, next := s.cycle + min (2 * y.backoff) 8192 })

/-- A registered wait of the gang with this lead slice evaluates again. -/
def State.keyEvent (s : State) (slice : Nat) (lock : Bool) : State :=
  match (s.sl slice).wait with
  | some (.key w l) => if l = slice ∧ w.lock = lock ∧ w.entry.isSome ∧ s.lives slice then s.keyAgain slice w else s
  | _ => s

/-- WAITV_REEVALUATE (R313). A registered value wait re-reads its word after a write or 1 us. -/
def execWaitvReevaluate (slice : Nat) (s : State) : Host.Outcome State Fault Refusal := .next (s.keyEvent slice false)

/-- LOCKACQ_RETRY (R314). A waiting lock acquire retries after a write or 1 us. -/
def execLockacqRetry (slice : Nat) (s : State) : Host.Outcome State Fault Refusal := .next (s.keyEvent slice true)

/-- Is a wait remote (R316): its key homed in another package, or a holder of its object there? -/
def State.waitRemote (s : State) (k : Nat) (w : KeyWait) : Bool :=
  let tm := s.tm (s.sl k).team
  if bits w.key 62 2 = 2 ∧ w.key.extractLsb' 42 20 ≠ s.selfPeer then true
  else match s.homeOf tm.part w.key with
    | .here _ o => (s.holders tm.part tm.job o).any (fun h => decide (2 ^ 52 ≤ h))
    | _ => false

/-- Does the timer of a wait run: an unregistered one's always, a registered one's while it is remote? -/
def State.waitTimer (s : State) (k : Nat) (w : KeyWait) : Bool := w.entry.isNone || s.waitRemote k w

/-- Is a wait's time over? -/
def State.waitTimed (s : State) (k : Nat) (w : KeyWait) : Bool := decide (w.till ≤ s.ns) && s.waitTimer k w

/-- While its timer does not run, a wait's end moves with the time (R316). -/
def State.holdTimers (s : State) (ns : Nat) : State :=
  { s with slices := s.slices.map (fun e => match e.2.wait with
      | some (.key w l) => if s.waitTimer e.1 w then e else (e.1, { e.2 with wait := some (.key { w with till := w.till + ns } l) })
      | _ => e) }

/-- The wait ends with TIMEOUT (R316, R433). -/
def State.keyExpires (s : State) (k : Nat) (w : KeyWait) : State :=
  (s.farFailed k farTimeout 0xF).keyDone (s.keyGang k) k w.sd (if w.lock then 4 else w.last) (!w.lock) false

/-- REMOTE_WAIT_TIMEOUT (R316). A remote wait's timer expires and the wait ends with TIMEOUT. -/
def execRemoteWaitTimeout (slice : Nat) (s : State) : Host.Outcome State Fault Refusal :=
  match (s.sl slice).wait with
  | some (.key w l) => if l = slice ∧ s.lives slice ∧ s.waitTimed slice w then .next (s.keyExpires slice w) else .next s
  | _ => .next s

/-- UNREGISTERED_WAIT_RECHECK (R317). An unregistered wait re-evaluates after its back-off interval. -/
def execUnregisteredWaitRecheck (slice : Nat) (s : State) : Host.Outcome State Fault Refusal :=
  if !s.lives slice then .next s
  else match (s.sl slice).wait with
    | some (.barwait ad parity scope none next backoff) =>
      if s.cycle < next then .next s
      else if s.barwaitMet slice ad parity then .next ((s.acquire slice).waitEnds slice)
      else
        let b := min (2 * backoff) 8192
        .next (s.modSl slice (fun x => { x with wait := some (.barwait ad parity scope none (s.cycle + b) b) }))
    | some (.tsync scope none next backoff) =>
      if s.cycle < next then .next s
      else if !(s.tm (s.sl slice).team).arrived.contains slice then .next ((s.acquire slice).waitEnds slice)
      else
        let b := min (2 * backoff) 8192
        .next (s.modSl slice (fun x => { x with wait := some (.tsync scope none (s.cycle + b) b) }))
    | some (.key w l) => if l = slice ∧ w.entry = none ∧ w.next ≤ s.cycle then .next (s.keyAgain slice w) else .next s
    | _ => .next s

/-! ## Walks reported (R320, R322) -/

/-- The cycle record of a DEADLOCK frame (R227). -/
def cycleWords (c : List (DWord × Word)) : List Word := (c.take 8).flatMap (fun e => [loWord e.1, hiWord e.1, e.2, 0])

/-- The slices that stand in the wait of slice k: its gang under a gang-wide wait. -/
def State.waitGang (s : State) (k : Nat) : List Nat :=
  match (s.sl k).wait with
  | some (.key _ l) => s.keyGang l
  | some (.yieldt m t) => (s.members k).filter (fun j => decide ((s.sl j).wait = some (.yieldt m t)))
  | _ => [k]

/-- DEADLOCK raised in the slices of one wait: each takes its own permit and the same record, each frame shows the gang as it stood
(R220), and the waits are withdrawn; one event is appended for them (R322). -/
def State.deadlock (s : State) (k : Nat) (c : List (DWord × Word)) : State :=
  let ms := s.waitGang k
  let rest := (s.members k).filter (fun j => !ms.contains j)
  let s1 := ((ms.foldl (fun t j => t.trap j ⟨causeDeadlock, 0, 0xF, BitVec.ofNat 32 (min c.length 8), BitVec.ofNat 32 c.length,
    (t.sl j).pc⟩ false (cycleWords c)) s).reframe s ms).settleGang rest
  match ms.find? (fun j => (s.sl j).frame.isNone && (s1.sl j).frame.isSome) with
  | none => s1
  | some j => match (s1.sl j).frame with
    | none => s1
    | some f => s1.trapEvent j (f.word 0) (f.word 1) (f.word 2) (f.word 3) 1

/-- WFT_WALK (R320, R322). A walk that is over is reported: a cut is counted, a cycle traps DEADLOCK. -/
def execWftWalk (slice : Nat) (s : State) : Host.Outcome State Fault Refusal :=
  match s.walks.find? (fun w => decide (w.slice = slice)) with
  | none => .next s
  | some w =>
    let s1 := { s with walks := s.walks.filter (fun x => decide (x.slice ≠ slice)) }
    if !s.teamRuns (s.sl slice).team ∨ w.path ≠ [] then .next s
    else if w.cut then .next (s1.wftCut w.die)
    else if w.cycle = [] ∨ s.sliceObjs (s.sl slice).team (s.sl slice) = [] then .next s1
    else .next ((s1.wftDlk w.die).deadlock slice w.cycle)

/-- Does a walk wait for the answer of a die to its probe about a team's object? -/
def Walk.asks (w : Walk) (die team : Nat) : Bool :=
  match w.path with
  | ⟨t, o :: _, []⟩ :: _ => decide (t = team ∧ objDie o = die)
  | _ => false

/-- WFT_PROBE (R320, R321). A walk probe message is answered by another die: the die's entries of the team are touched, and every walk
that asked goes on with the entries as they stand now. -/
def execWftProbe (die team : Nat) (s : State) : Host.Outcome State Fault Refusal :=
  let s0 := s.readEntries die
  let s1 := (s0.wft.filter (fun e => decide (e.die = some die ∧ e.team = team))).foldl
    (fun t e => (t.bringBack e.id).touchEntry e.id (fun x => x)) s0
  .next ((s.walks.filter (fun w => w.asks die team)).foldl
    (fun t w => t.putWalk (t.walkGo (some (die, team)) (t.walkFuel w) w)) s1)

/-! ## Management registers of the table (R308, R324) -/

/-- WFTSPILL_WRITE (R308). Sets a partition's spill area unless its job is resident. -/
def execWftspillWrite (die part : Nat) (value : DWord) (s : State) : Host.Outcome State Fault Refusal :=
  if (s.pt part).job.isSome then .next s
  else .next (s.modDi die (fun d => { d with wftspill := aset 0 d.wftspill part (value &&& 0xFFFFF81FFFFFF000) }))

/-- WFTSTAT_WRITE (R324). A write to WFTSTAT clears OVF, CUT and DLK. -/
def execWftstatWrite (die : Nat) (s : State) : Host.Outcome State Fault Refusal :=
  .next (s.modDi die (fun d => { d with wftstat := 0 }))

end Sys2Proof.Machine
end

