-- ==== Sys2Proof/Machine/Mmag.lean ====
section
/-! DEFINITION. Ganged matrix operations across cores (spec R264 to R276). -/

namespace Sys2Proof.Machine

open Sys2Proof

/-! ## Windows (R265 to R267) -/

/-- MMAGOK_OPEN (R266). Opens or replaces the core's ganged-operation window. -/
def execMmagokOpen (d a b : BitVec 6) (s : State) : Host.Outcome State Fault Refusal :=
  .next (s.once [a.toNat, b.toNat] (fun u ms k =>
    let core := coreOfSlice k
    let t := (u.sl k).team
    let w : MmagWindow := ⟨t, (u.tm t).job, (u.sl k).sVal a.toNat, bits ((u.sl k).sVal b.toNat) 0 4,
      u.vlanes ms (fun x => x.active)⟩
    match (u.co core).win with
    | none => (u.modCo core (fun c => { c with win := some w })).answer ms d.toNat 1
    | some old =>
      if old.team = t then (u.modCo core (fun c => { c with win := some w })).answer ms d.toNat 3
      else u.answer ms d.toNat 0))

/-- Is a part delivered to the team's window unfinished (R267)? -/
def State.partsOpen (s : State) (t : Nat) : Bool :=
  s.entries.any (fun e => decide (e.team = t) && (match e.op with | .gangPart _ _ _ _ _ _ _ => true | _ => false))

/-- Does the core hold a window of the team? -/
def State.ownWindow (s : State) (core t : Nat) : Bool :=
  match (s.co core).win with
  | some w => decide (w.team = t)
  | none => false

/-- The window of a team closes. -/
def State.closeWindow (s : State) (t : Nat) : State :=
  if s.ownWindow (coreOfTeam t) t then s.modCo (coreOfTeam t) (fun c => { c with win := none }) else s

/-- MMAGOK_CLOSE (R267). Waits for delivered parts to finish and closes the window. -/
def execMmagokClose (d : BitVec 6) (s : State) : Host.Outcome State Fault Refusal :=
  .next (s.once [] (fun u ms k =>
    let t := (u.sl k).team
    if !u.ownWindow (coreOfSlice k) t then u.answer ms d.toNat 0
    else if u.partsOpen t then u.modSls ms (fun x => { x with wait := some (.mmagokClose d k) })
    else (u.closeWindow t).answer ms d.toNat 1))

/-- MMAGOK_CLOSE_END (R267). The window closes once its delivered parts are finished. -/
def execMmagokCloseEnd (slice : Nat) (s : State) : Host.Outcome State Fault Refusal :=
  match (s.sl slice).wait with
  | some (.mmagokClose d l) =>
    let t := (s.sl slice).team
    if l ≠ slice ∨ s.partsOpen t ∨ !s.lives slice then .next s
    else
      let ms := (s.tm t).slices.filter (fun k => decide ((s.sl k).wait = some (.mmagokClose d l)))
      let s1 := ((s.modSls ms (fun x => { x with wait := none })).waitMet t).closeWindow t
      .next (s1.answer ms d.toNat (if s.ownWindow (coreOfSlice slice) t then 1 else 0))
  | _ => .next s

/-! ## Issue (R268 to R270) -/

/-- The enabled positions of a partner word, with their core keys in a cluster (R269). -/
def partnersOf (cluster : Nat) (w : Word) : List (Nat × Nat) :=
  ([1, 2, 3].filter (fun p => w.getLsbD (23 + p))).map (fun p => (p, 256 * cluster + bits w (8 * (p - 1)) 8))

/-- Step 4 of R270: an enabled partner names the issuer's core or repeats another one. -/
def badPartner (core : Nat) : List (Nat × Nat) → Option Nat
  | [] => none
  | e :: r => if e.2 = core ∨ r.any (fun x => decide (x.2 = e.2)) then some (e.2 % 256) else badPartner core r

/-- Does a ganged operation stall for want of room in the FIFO or under its token's count (R173, R198)? -/
def State.mmagStall (s : State) (i : Instr) (f : Long) : Bool :=
  decide (s.activeOf i (s.members s.cur) ≠ []) && (s.fifoFull (coreOfSlice s.cur) || s.tokenFull (bits f.ext8b 0 3))

/-- A ganged operation at issue. -/
def State.mmagIssue (s : State) (i : Instr) (f : Long) (nolocal : Bool) : State :=
  let core := coreOfSlice s.cur
  let j := bits f.ext8b 0 3
  if s.mmagStall i f then s
  else s.onceLong i (fun u ms k arg =>
    let t := (u.sl k).team
    let tm := u.tm t
    let scaled := f.ext8b.getLsbD 3
    let a := bits f.ext8 0 4
    let b := bits f.ext8 4 4
    match tm.pairCheck (if nolocal then none else some a) b scaled with
    | some c => u.checkTrap ms c
    | none =>
      let db := tm.desc b
      let da := if nolocal then db else tm.desc a
      let rows := if nolocal then [] else (u.vlanes ms (fun x => x.lanesOn f.pk f.pn)).filter (fun r => decide (r < da.rows))
      match (if rows = [] then none else tm.accCheck (arg 0) rows db.rows) with
      | some c => u.checkTrap ms c
      | none =>
        let ps := partnersOf (clusterOfCore core) (arg 1)
        match badPartner core ps with
        | some x => u.gangTrap ms causeAccRange 4 0xF (BitVec.ofNat 32 x) 0
        | none => u.gangBar ms k (arg 2) 5 (fun v =>
          let ub := if scaled then db.scaleOffs.map tm.unitAt else []
          let ta := if nolocal then tm.tiles.getD b 0 else tm.tiles.getD a 0
          let w := (v.bindToken t j).post t (v.pt tm.part).shadowExp (.mma scaled da db ta (tm.tiles.getD b 0)
            (if scaled ∧ !nolocal then da.scaleOffs.map tm.unitAt else []) ub) (if nolocal then 0 else arg 0) rows
          let g : GangOp := { id := w.nextId, team := t, token := j, bar := arg 2, scaled := scaled, partners := ps
                              descB := db, bBytes := [], bScales := [], bDead := [], sent := false, status := [], arriving := []
                              nolocal := nolocal, tileB := tm.tiles.getD b 0, unitsB := ub, entry := v.nextId, shadowExp := (v.pt tm.part).shadowExp }
          ({ w with nextId := w.nextId + 1, gangOps := w.gangOps ++ [g] }).advance ms 12))

/-- MMAG (R270). Posts a ganged matrix operation across up to four cores. -/
def execMmag (f : Long) (s : State) : Host.Outcome State Fault Refusal := .next (s.mmagIssue (.mmag f) f false)

/-- MMAG_NOLOCAL (R268). Posts a ganged operation with no local part. -/
def execMmagNolocal (f : Long) (s : State) : Host.Outcome State Fault Refusal := .next (s.mmagIssue (.mmagNolocal f) f true)

/-! ## Delivery (R272) -/

/-- The class-3 event of a failed partner (R391). -/
def State.partnerEvent (s : State) (g : GangOp) (pos core status : Nat) (cause : BitVec 8) (step : Nat) (info : Word) : State :=
  let tm := s.tm g.team
  s.appendEvent tm.part (BitVec.ofNat 8 core ++ (BitVec.ofNat 2 pos ++ (BitVec.ofNat 2 status ++ (cause ++ (BitVec.ofNat 4 step ++
    (0#8 ++ (info ++ (0#32 ++ (whoBits tm.job tm.gen g.team (dieOfCore (coreOfTeam g.team)) ++ (0#33 ++ (3#8 ++
    (0#8 ++ s.nsWord))))))))))))

/-- The checks of R272 at a partner, with the part's rows when it passes. -/
def Team.partCheck (t : Team) (w : MmagWindow) (g : GangOp) : Except CheckFail (List Nat) :=
  let da := t.desc w.tile
  let db : Desc := g.descB
  if g.bar.toNat % 16 ≠ 0 then .error ⟨causeMisalign, 0, g.bar⟩
  else if g.bar.toNat < t.spbase ∨ t.splimit < g.bar.toNat + 16 then .error ⟨causeLocalBounds, 0, g.bar⟩
  else if t.tiles.length ≤ w.tile ∨ !da.valid ∨ da.cols ≠ db.cols ∨ !mxPair da.etype db.etype then
    .error ⟨causeAccRange, 1, BitVec.ofNat 32 w.tile⟩
  else if g.scaled ∧ (!scalable da.etype ∨ da.blk ≠ db.blk) then .error ⟨causeScaleLayout, 2, BitVec.ofNat 32 da.soff⟩
  else match (if g.scaled then t.badUnit da else none) with
    | some o => .error ⟨causeScaleLayout, 2, BitVec.ofNat 32 o⟩
    | none =>
      let rows := w.rows.filter (fun r => decide (r < da.rows))
      match (if rows = [] then none else t.accCheck w.acc rows db.rows) with
      | some c => .error c
      | none => .ok rows

/-- A position settled. -/
def State.settlePart (s : State) (op pos : Nat) (status : BitVec 2) (arrives : Bool) : State :=
  { s with gangOps := s.gangOps.map (fun g => if g.id = op then
      { g with status := aput g.status pos status, arriving := if arrives then g.arriving ++ [pos] else g.arriving } else g) }

/-- The delivery to one position settled, or its part posted (R272): one entry whenever the checks pass, its status settled at once
when it has no rows. -/
def State.deliverPart (s : State) (op pos : Nat) : State :=
  match s.gangOps.find? (fun g => decide (g.id = op)) with
  | none => s
  | some g =>
    match g.partners.find? (fun p => decide (p.1 = pos)) with
    | none => s
    | some (_, core) =>
      let posted := s.entries.any (fun e => match e.op with | .gangPart o p _ _ _ _ _ => decide (o = op ∧ p = pos) | _ => false)
      if !g.sent ∨ posted ∨ (afind g.status pos).isSome then s
      else
        let gone := (s.partnerEvent g pos (core % 256) 3 0 0 0).settlePart op pos 3 false
        match (s.co core).win with
        | none => gone
        | some w =>
          if w.job ≠ (s.tm g.team).job ∨ (s.tm w.team).part ≠ (s.tm g.team).part then gone
          else match (s.tm w.team).partCheck w g with
            | .error c => ((s.partnerEvent g pos (core % 256) 2 c.cause c.step c.info).settlePart op pos 2
                (decide (c.step ≠ 0)))
            | .ok rows =>
              if s.fifoFull core then s
              else
                let t := s.tm w.team
                let da := t.desc w.tile
                ((if rows = [] then s.settlePart op pos 1 false else s).post w.team g.shadowExp (.gangPart op pos g.scaled da g.descB (t.tiles.getD w.tile 0)
                  (if g.scaled then da.scaleOffs.map t.unitAt else [])) w.acc rows)

/-- MMAG_DELIVERY (R272). A partner core settles a ganged delivery against its window. -/
def execMmagDelivery (op pos : Nat) (s : State) : Host.Outcome State Fault Refusal := .next (s.deliverPart op pos)

/-! ## Completion (R273, R274) -/

/-- The status vector. -/
def GangOp.vector (g : GangOp) : Byte :=
  BitVec.ofNat 8 ((if g.nolocal then 0 else 1) + ([1, 2, 3].map (fun p => 4 ^ p * (aget 0 g.status p).toNat)).foldl (· + ·) 0)

/-- A ganged operation whose parts are all settled completes (R274). -/
def State.endGangOp (s : State) (op : Nat) : State :=
  match s.gangOps.find? (fun g => decide (g.id = op)) with
  | none => s
  | some g =>
    if s.entries.any (fun e => decide (e.id = g.entry)) ∨ !g.partners.all (fun p => (afind g.status p.1).isSome) then s
    else
      let bad := g.status.any (fun e => decide (2 ≤ e.2.toNat))
      let cores := coreOfTeam g.team :: (g.partners.filter (fun p =>
        decide (aget 0 g.status p.1 = 1) || g.arriving.contains p.1)).map Prod.snd
      let s1 := { s with gangOps := s.gangOps.filter (fun x => decide (x.id ≠ op)) }
      let s2 := cores.foldl (fun u c => u.barUpdate g.team 9 c g.bar 1 0 bad (some g.vector)) s1
      (s2.finishToken g.team g.token (if bad then 5 else 0))

/-- MMAG_COMPLETE (R274). A ganged operation completes, updating barriers and finishing its token. -/
def execMmagComplete (op : Nat) (s : State) : Host.Outcome State Fault Refusal := .next (s.endGangOp op)

end Sys2Proof.Machine
end

