-- ==== Sys2Proof/Machine/Swap.lean ====
section
/-! DEFINITION. Halting a team, writing it to its save record, and placing it again (spec R181, R206, R210, R229, R263, R267,
R276, R325, R345, R431). -/

namespace Sys2Proof.Machine

open Sys2Proof

/-! ## Engine work that comes to its end before a team is recorded (R181, R206, R263, R267, R276)

A halted team issues nothing more; its engines go on in turns of their own, under the throttle and the token buckets as ever. -/

/-- Far requests of a team. -/
def State.farsOf (s : State) (t : Nat) : List Far := s.fars.filter (fun f => decide ((s.sl f.slice).team = t))

/-- The lowest handle that no paused copy of a cluster holds. -/
def State.freeHandle (s : State) (cluster : Nat) : BitVec 16 :=
  let used := s.copies.filterMap (fun c => if c.cluster = cluster then (match c.state with | .paused h _ _ => some h.toNat | _ => none) else none)
  BitVec.ofNat 16 (((List.range (used.length + 1)).find? (fun h => !used.contains h)).getD 0)

/-- Has a copy to go on before its team is recorded? -/
def Copy.busy (c : Copy) : Bool :=
  match c.state with
  | .paused _ _ _ => false
  | _ => c.kind.multicast || c.writing

/-- Nothing of the team is under way that its record cannot hold. -/
def State.quiet (s : State) (t : Nat) : Bool :=
  let core := coreOfTeam t
  !s.moves.any (fun m => decide (m.team = t)) && !s.entries.any (fun e => decide (e.team = t)) &&
    !s.gangOps.any (fun g => decide (coreOfTeam g.team = core) || g.partners.any (fun p => decide (p.2 = core))) &&
    (s.farsOf t).all (fun f => f.kind.isLoad) && !s.copies.any (fun c => decide (c.team = t) && c.busy) && !s.partsOpen t

/-! ## The save record (R229, R345, R366) -/

/-- Every gang of a team is parted by the PCs of its slices: each has executed an instruction or not (R156). -/
def State.partTeam (s : State) (t : Nat) : State :=
  (s.tm t).slices.foldl (fun u k => if ((u.members k).headD k) = k then u.part (u.members k) else u) s

/-- Bytes that are not zero, by their offset. -/
def assocBytes (bs : List Byte) : Assoc Byte := ((List.range bs.length).zip bs).filter (fun e => decide (e.2 ≠ 0))

/-- Bytes of a team's scratchpad that its record holds (R360): all of them, or the live part of a team that has yielded. -/
def scratchLive (size : Nat) (xs : List Slice) : Nat :=
  let live := xs.filter (fun x => !x.done)
  if live ≠ [] ∧ live.all (fun x => decide (x.wait = some .yieldp)) then
    min size (64 * (live.map (fun x => (x.slive.getD 0).toNat)).foldl max 0)
  else size

/-- A slice as its record keeps it: results of captured instructions discarded, and a register with an error that
no read has found yet dead, with no POISON record and no event (R29, R30, R229; what becomes of such a register is a DESIGN CHOICE, log entry
67). -/
def Slice.record (x : Slice) (now : Nat) : Slice :=
  let y := (x.discard now).landed (fun _ => true)
  { y.bad.foldl (fun z e => if e.1 then z.sKill e.2.1 else z.vKill e.2.1 e.2.2) y with bad := [] }

/-- A copy as its record keeps it. -/
def Copy.record (c : Copy) : Copy :=
  { c with
    asked := none, ans := none, got := [], piece := 0, part := 0, rows := [], mcKey := none
    state := match c.state with | .paused h k a => .paused h k a | _ => .queued }

/-- The record of a team (R345). -/
def State.recordOf (s : State) (t : Nat) (drained reclaimed : Bool) : SavedTeam :=
  let tm := s.tm t
  let core := coreOfTeam t
  let xs := tm.slices.map s.sl
  let size := tm.splimit - tm.spbase
  { id := s.nextId, part := tm.part, core := core, slot := slotOfTeam t
    team := { tm with halting := false, rgDue := tm.rgDue.map (fun e => (e.1, e.2 - s.cycle)) }
    slices := xs.map (fun x => x.record s.cycle)
    halts := tm.slices.map (fun k => s.buildFrame k ⟨0, 0, 0xF, 0, 0, (s.sl k).pc⟩ ((s.sl k).captured s.cycle) [])
    copies := (s.copies.filter (fun c => decide (c.team = t))).map Copy.record
    fars := (s.farsOf t).map (fun f => { f with sent := false, answer := none, known := [] })
    scratch := assocBytes (s.bytes (coreKey core tm.spbase) (scratchLive size xs))
    tiles := assocBytes (tm.tiles.flatMap (fun p => s.bytes (tileKey core p 0) 4096))
    scales := assocBytes ((List.range (4 * tm.tiles.length)).flatMap (fun u => s.bytes (scaleKey core (tm.unitAt (128 * u)) 0) 128))
    drained := drained, reclaimed := reclaimed, swapped := s.nsWord, waited := 0, words := [] }

/-- The time that remains on a wait whose timer runs or has run, for the entry it takes over (R316, R325). -/
def State.toremOf (s : State) (k : Nat) (e : WftEntry) : Word :=
  match (s.sl k).wait with
  | some (.key w _) =>
    let left := w.till - s.ns
    if w.entry = some e.id ∧ (s.waitRemote k w ∨ left < (s.pt (s.tm (s.sl k).team).part).farTimeoutNs) then BitVec.ofNat 32 (max 1 left)
    else 0
  | _ => 0

/-- A team's name changed in everything that refers to it. -/
def State.renameTeam (s : State) (old new : Nat) (slice : Nat → Nat) : State :=
  let swap (t : Nat) : Nat := if t = old then new else t
  let owner (o : GridOwner) : GridOwner := match o with | .token t j => .token (swap t) j | x => x
  { s with
    wft := s.wft.map (fun e => if e.team = old then
      { e with
        team := new, slice := if e.kind = 1 ∨ e.kind = 2 then e.slice else slice e.slice
        obj := if e.src = 1 ∧ new < 2 ^ 24 then tsyncKey new else e.obj } else e)
    recvs := s.recvs.map (fun r => { r with team := swap r.team })
    sends := s.sends.map (fun x => { x with team := swap x.team })
    grids := s.grids.map (fun g => { g with owner := owner g.owner })
    launches := s.launches.map (fun l => { l with owner := owner l.owner }) }

/-- A team's resources are freed: its slices and its own record leave the state; its core has no work from now on. -/
def State.freeTeam (s : State) (t : Nat) : State :=
  let ks := (s.tm t).slices
  let s := s.dropCopies (fun c => decide (c.team = t))
  { s with
    slices := ks.foldl adel s.slices
    teams := adel s.teams t
    fars := s.fars.filter (fun f => !ks.contains f.slice)
    peerReqs := s.peerReqs.filter (fun r => !(decide (r.kind = 0) && s.fars.any (fun f => decide (f.id = r.src) && ks.contains f.slice)))
    walks := s.walks.filter (fun w => !ks.contains w.slice)
    cores := aset Core.reset s.cores (coreOfTeam t) { s.co (coreOfTeam t) with idleSince := s.nsWord } }.modCl
      (clusterOfCore (coreOfTeam t)) (fun c => { c with idleSince := s.nsWord })

/-- A quiet team is written to its save record and leaves its core, its window closed (R267, R345). The record's number is `nextId`. -/
def State.putAway (s : State) (t : Nat) (drained reclaimed : Bool) : State :=
  let s0 := ((s.closeWindow t).closeDenialsOf t).partTeam t
  let r := s0.recordOf t drained reclaimed
  let s1 := { s0 with
    wft := s0.wft.map (fun (e : WftEntry) => if e.team = t ∧ e.kind = 0 then { e with torem := s0.toremOf e.slice e } else e)
    nextId := s0.nextId + 1, saved := s0.saved ++ [r] }
  ((s1.renameTeam t (savedKey r.id) (fun k => k)).freeTeam t).syncSpilled (savedKey r.id)

/-- A team is halted for a swap, and it is put away as soon as nothing is under way. -/
def State.swapOut (s : State) (t : Nat) (reclaimed : Bool) : State :=
  let s1 := s.modTm t (fun x => { x with halting := true })
  if s1.quiet t then s1.putAway t false reclaimed else s1

/-! ## Placing a recorded team (R210, R226, R229, R263, R325, R345, R431) -/

/-- How the places of a team move with it. -/
structure Move where
  oldSlices : List Nat
  newSlices : List Nat
  delta : Int
  deriving DecidableEq, Repr

/-- A slice key of the new place for one of the old; a number that is no slice of the team stays. -/
def Move.slice (m : Move) (k : Nat) : Nat :=
  match (m.oldSlices.zip m.newSlices).find? (fun e => decide (e.1 = k)) with
  | some e => e.2
  | none => k

/-- A local address moved. -/
def Move.addr (m : Move) (a : Word) : Word := wrap (a.toNat + m.delta) 32

/-- A copy at its team's new place. -/
def Copy.moved (c : Copy) (m : Move) (t : Nat) : Copy :=
  { c with
    team := t, lead := m.slice c.lead, members := c.members.map m.slice, bar := c.bar.map m.addr
    opers := c.locals.foldl (fun ws n => ws.set n (m.addr (ws.getD n 0))) c.opers
    kind := match c.kind with
      | .gather mc dense desc list n => .gather mc dense desc (m.addr list) n
      | .scatter dense desc list n => .scatter dense desc (m.addr list) n
      | k => k }

/-- A far address that named the issuing team's own core scratchpad, at the new place (R431). -/
def Move.far (m : Move) (old new : Nat) (a : DWord) : DWord :=
  if namesCore a old then localKey new (wrap ((bits a 0 19 : Int) + m.delta) 19).toNat else a

/-- A word of a captured structure replaced. -/
def setField (bs : List Byte) (off : Nat) (new : List Byte) : List Byte := bs.take off ++ new ++ bs.drop (off + new.length)

/-- A receive at its team's new place. -/
def Recv.moved (r : Recv) (m : Move) (old new : Nat) : Recv :=
  let at_ (bs : List Byte) (o : Nat) : List Byte := setField bs o (natLe 4 (m.addr (fieldW bs o)).toNat)
  { r with
    block := [0x18, 0x30, 0x34].foldl at_ r.block
    desc := setField r.desc 0 (natLe 8 (m.far old new (descBase r.desc)).toNat) }

/-- The wait of a slice that is placed again: it executes its instruction again, but for the states that go on. -/
def Wait.again (w : Option Wait) (now : Nat) : Option Wait :=
  match w with
  | some .stopped => some .stopped
  | some .yieldp => some .yieldp
  | some (.backoff _ held r) => some (.backoff now held r)
  | _ => none

/-- A slice resumed from its record and its halt frame (R226, R229), its gang and its REGANG wait apart. -/
def Slice.resume (x : Slice) (f : Frame) (now : Nat) : Slice :=
  { ({ x with inflight := [] } : Slice).restoreFrom f with
    pc := f.word 1 &&& ~~~3#32, wait := Wait.again x.wait now, ahead := false, acqHold := decide (x.fl ≠ 0) }

/-- The gang of a slice at its new place: key of the first member of the gang its record names, or its own. -/
def Move.gang (m : Move) (g k : Nat) : Nat := if g = aloneKey k then aloneKey (m.slice k) else m.slice g

/-- The place in a list of the first far request with a property. -/
def firstFar (p : Far → Bool) (fs : List Far) : Nat := (fs.takeWhile (fun f => !p f)).length

/-- A recorded far load issued again (R181), under new numbers from `base` on; it forms its requests when the queue has room. -/
def Far.again (f : Far) (base seqBase n : Nat) (fs : List Far) (slice due : Nat) : Far :=
  { f with
    id := base + n, slice := slice, formed := false, due := due, sent := false, answer := none, known := []
    seq := seqBase + (fs.filter (fun g => decide (g.seq < f.seq))).length
    parent := base + firstFar (fun g => decide (g.slice = f.slice ∧ g.parent = f.parent)) fs
    gangNo := base + firstFar (fun g => decide (g.gangNo = f.gangNo)) fs
    ops := f.ops.filter (fun o => !o.done) }

/-- A recorded team placed on a core. -/
def State.replaceTeam (s : State) (r : SavedTeam) (core : Nat) : State :=
  let (t, tm) := s.seatTeam core r.team
  let oldKeys := r.team.slices
  let m : Move := ⟨oldKeys, tm.slices, (tm.spbase : Int) - r.team.spbase⟩
  let tm1 : Team := { tm with
    arrived := tm.arrived.map m.slice, halting := false, rgDue := tm.rgDue.map (fun e => (e.1, s.cycle + e.2)) }
  let xs : List (Nat × Slice × Frame) := (oldKeys.zip (r.slices.zip r.halts)).map (fun e =>
    (m.slice e.1, { e.2.1.resume e.2.2 s.cycle with team := t, gang := m.gang e.2.1.gang e.1 }, e.2.2))
  let s1 := { s with
    saved := s.saved.filter (fun y => decide (y.id ≠ r.id))
    teams := aput s.teams t tm1
    slices := xs.foldl (fun (l : Assoc Slice) (e : Nat × Slice × Frame) => aput l e.1 e.2.1) s.slices }
  let s2 := tm1.tiles.foldl (fun u x => u.claimTile core (tm1.job, r.part) x) s1
  let s3 := s2.putMem (coreKey core tm1.spbase) ((List.range (tm1.splimit - tm1.spbase)).map (fun i => aget 0 r.scratch i))
  let s4 := (List.range tm1.tiles.length).foldl (fun u i =>
    u.putMem (tileKey core (tm1.tiles.getD i 0) 0) ((List.range 4096).map (fun o => aget 0 r.tiles (4096 * i + o)))) s3
  let s5 := (List.range (4 * tm1.tiles.length)).foldl (fun u i =>
    u.putMem (scaleKey core (tm1.unitAt (128 * i)) 0) ((List.range 128).map (fun o => aget 0 r.scales (128 * i + o)))) s4
  let s6 := s5.renameTeam (savedKey r.id) t m.slice
  let s7 : State := { s6 with
    recvs := s6.recvs.map (fun (x : Recv) => if x.team = t then x.moved m r.core core else x)
    sends := s6.sends.map (fun (x : SendOp) => if x.team = t then { x with addr := m.far r.core core x.addr } else x)
    wft := s6.wft.map (fun (e : WftEntry) => if e.team = t ∧ e.kind = 3 then { e with obj := m.far r.core core e.obj } else e)
    nextId := s6.nextId + r.fars.length, nextSeq := s6.nextSeq + r.fars.length
    fars := s6.fars ++ ((List.range r.fars.length).zip r.fars).map (fun e =>
      e.2.again s6.nextId s6.nextSeq e.1 r.fars (m.slice e.2.slice) (s.farDue r.part)) }
  let s8 := xs.foldl (fun u e => if (e.2.2.word 7).getLsbD 8 then u.modSl e.1 (fun x => { x with wait := some .regang }) else u) s7
  let s9 := r.copies.foldl (fun u c =>
    let d := c.moved m t
    match d.state with
    | .paused _ k a =>
      let h := u.freeHandle (clusterOfCore core)
      let e : Copy := { d with state := .paused h k a }
      ({ u with copies := u.copies ++ [e] }).pauseEvent e h k a
    | _ => { u with copies := u.copies ++ [d] }) s8
  (s9.applyAway t).syncSpilled t

end Sys2Proof.Machine
end

