-- ==== Sys2Proof/Machine/Launch.lean ====
section
/-! DEFINITION. The package distributor (spec R331 to R347): launching grids, release and retirement, placement, team swap,
power gating of idle cores (R342, R387). -/

namespace Sys2Proof.Machine

open Sys2Proof

/-! ## Launching from a program (R331, R332) -/

/-- Grids of a partition that have not completed. -/
def State.gridsOf (s : State) (p : Nat) : Nat :=
  (s.grids.filter (fun g => decide (g.part = p))).length + (s.launches.filter (fun l => decide (l.part = p))).length

/-- The token of a header in scratchpad. -/
def State.headerToken (s : State) (core : Nat) (a : Word) : Nat := (Header.ofBytes (s.bytes (coreKey core a.toNat) 128)).token

/-- A grid launched by a gang: number to the register, token bound, header handed to the distributor. -/
def State.launchFrom (s : State) (ms : List Nat) (k d : Nat) (a : Word) (param : Option DWord) : State :=
  let t := (s.sl k).team
  let tm := s.tm t
  let p := tm.part
  let key := coreKey (coreOfSlice k) a.toNat
  let s1 := s.noteFound t 8 (localKey (coreOfSlice k) a.toNat) key 128
  let h0 := Header.ofBytes (s1.bytes key 128)
  let h1 := match param with | some w => { h0 with param := w } | none => h0
  let h2 := if h1.clear = 0 then { h1 with clear := tm.header.clear } else h1
  let h3 := { h2 with ctl := setBits h2.ctl 6 3 (min h2.prio.toNat tm.launchPrio.toNat) }
  let g := (s1.jobOf p).gridCtr
  let s2 := s1.modPt p (fun x => { x with job := x.job.map (fun j => { j with gridCtr := (g + 1) % 2 ^ 32 }) })
  let s3 : State := { s2 with
    nextId := s2.nextId + 1, launches := s2.launches ++ [(⟨s2.nextId, p, g, .token t h3.token, some h3⟩ : Launch)] }
  (s3.bindToken t h3.token).answer ms d (BitVec.ofNat 32 g)

/-- Does a LAUNCH stall for want of a grid of the partition or of room under its token's count (R173, R332)? -/
def State.launchStall (s : State) (a : Nat) : Bool :=
  let k0 := (s.members s.cur).headD 0
  let t := (s.sl k0).team
  let at_ := (s.sl k0).sVal a
  decide ((s.tm t).spbase ≤ at_.toNat ∧ at_.toNat + 128 ≤ (s.tm t).splimit ∧ at_.toNat % 64 = 0) &&
    (decide (1024 ≤ s.gridsOf (s.tm t).part) || s.tokenFull (s.headerToken (coreOfSlice k0) at_))

/-- LAUNCH at issue: the checks of the header's address, then the launch. -/
def State.launchOp (s : State) (srcs : List Nat) (d a : Nat) (param : Slice → Option DWord) : State :=
  if s.launchStall a then s
  else s.once srcs (fun u ms k =>
    let x := u.sl k
    let tm := u.tm x.team
    let at_ := x.sVal a
    if at_.toNat % 64 ≠ 0 then u.gangTrap ms causeMisalign 0 0xF at_ 0
    else if at_.toNat < tm.spbase ∨ tm.splimit < at_.toNat + 128 then u.gangTrap ms causeLocalBounds 0 0xF at_ 0
    else u.launchFrom ms k d at_ (param x))

/-- LAUNCH (R332). Launches a grid from a header in scratchpad, binding a token. -/
def execLaunch (d a : BitVec 6) (s : State) : Host.Outcome State Fault Refusal :=
  .next (s.launchOp [a.toNat] d.toNat a.toNat (fun _ => none))

/-- LAUNCH_PARAM (R332). Launches a grid with the parameter pointer replaced from a register pair. -/
def execLaunchParam (d a b : BitVec 6) (s : State) : Host.Outcome State Fault Refusal :=
  .next (s.launchOp [a.toNat, b.toNat, b.toNat + 1] d.toNat a.toNat (fun x => some (x.sPair b.toNat)))

/-! ## Settling a launch (R332, R335) -/

/-- A token of a team finishes, wherever the team is (R333). -/
def State.finishAny (s : State) (t j : Nat) (e : BitVec 8) : State :=
  if t < 2 ^ 24 then s.finishToken t j e
  else { s with saved := s.saved.map (fun (r : SavedTeam) =>
    if savedKey r.id = t then { r with team := { r.team.modToken j (fun c => c.finish e) with wdCount := 0 } } else r) }

/-- LSSTAT of a partition: CODE, ERR, DONE, BUSY (R334). -/
def lsstatWord (code : BitVec 8) (err done busy : Bool) : Word :=
  0#16 ++ (code ++ (0#5 ++ (BitVec.ofBool err ++ (BitVec.ofBool done ++ BitVec.ofBool busy))))

def State.setLsstat (s : State) (p : Nat) (w : Word) : State := s.modPt p (fun x => { x with lsstat := w })

/-- A launch refused with a code: its token finishes, or its slot says so. -/
def State.refuseLaunch (s : State) (l : Launch) (code : BitVec 8) : State :=
  match l.owner with
  | .token t j => s.finishAny t j code
  | _ => s.setLsstat l.part (lsstatWord code true true false)

/-- SWSTAT.URGENT of a partition (R363). -/
def State.setUrgent (s : State) (p : Nat) (b : Bool) : State :=
  s.modPt p (fun x => { x with
    swstat := setBit x.swstat 2 b, job := x.job.map (fun j => { j with urgent := b }) })

/-- The distributor settles a launch: rejected, refused as cyclic, or accepted. -/
def State.settleLaunch (s : State) (id : Nat) : State :=
  match s.launches.find? (fun l => decide (l.id = id)) with
  | none => s
  | some l =>
    let s1 := { s with launches := s.launches.filter (fun x => decide (x.id ≠ id)) }
    let isToken := match l.owner with | .token _ _ => true | _ => false
    match l.header with
    | none => s1.refuseLaunch l 4
    | some h =>
      if s1.illFormed l.part h || (isToken && h.urgent) then s1.refuseLaunch l 4
      else if h.cyclic then s1.refuseLaunch l 3
      else
        let s2 := { s1 with grids := s1.grids ++ [⟨l.id, l.part, l.number, l.owner, h, 0, [], [], none⟩] }
        if h.urgent then s2.setUrgent l.part true else s2

/-- LAUNCH_SETTLE (R332). The distributor rejects, refuses as cyclic or accepts a launched grid. -/
def execLaunchSettle (launch : Nat) (s : State) : Host.Outcome State Fault Refusal := .next (s.settleLaunch launch)

/-! ## The launch slot (R334, R335) -/

/-- A header handed to the distributor for a partition by a slot, or as the root of its job. -/
def State.slotLaunch (s : State) (p : Nat) (owner : GridOwner) (h : Option Header) : State :=
  let g := (s.jobOf p).gridCtr
  let s1 := s.modPt p (fun x => { x with
    lsstat := lsstatWord 0 false false true, job := x.job.map (fun j => { j with gridCtr := (g + 1) % 2 ^ 32 }) })
  { s1 with nextId := s1.nextId + 1, launches := s1.launches ++ [⟨s1.nextId, p, g, owner, h⟩] }

/-- LSCTL_GO (R335). A write of GO launches the header in the partition's launch slot. -/
def execLsctlGo (part : Nat) (s : State) : Host.Outcome State Fault Refusal :=
  let x := s.pt part
  if x.lsstat.getLsbD 0 then .next s
  else if x.job.isNone then .next (s.setLsstat part (lsstatWord 4 true true (x.lsstat.getLsbD 0)))
  else .next (s.slotLaunch part .slot (some (Header.ofBytes ((List.range 128).map (fun i => aget 0 x.slot i)))))

/-! ## Release (R329, R336) -/

/-- Has a team of the grid retired? -/
def Grid.hasRetired (g : Grid) (n : Nat) : Bool := decide (n < g.base) || g.retired.contains n

/-- Is a team released (R336)? -/
def Grid.released (g : Grid) (n : Nat) : Bool :=
  decide (n < g.header.count) && (decide (g.header.ndeps = 0) ||
    (decide (n < g.base + 2 ^ 20) && (g.header.preds n).all g.hasRetired))

/-- Is it neither started nor retired? -/
def Grid.unstarted (g : Grid) (n : Nat) : Bool := !g.hasRetired n && !g.started.contains n

/-- Linear indices among which the first team to start lies. -/
def Grid.horizon (g : Grid) : Nat :=
  if g.header.ndeps = 0 then min g.header.count (g.base + g.retired.length + g.started.length + 1)
  else min g.header.count (g.base + 2 ^ 20)

/-- The scoreboard as the starts of a cycle see it: without the retirements of that cycle (R339). -/
def Grid.before (g : Grid) (cycle : Nat) : Grid :=
  match g.seen with
  | some (c, b, r) => if c = cycle then { g with base := b, retired := r } else g
  | none => g

/-- The released team that has not started with the lowest linear index (R337), in a cycle: one that a retirement of that cycle
releases starts in a later one (R339). -/
def Grid.nextTeam (g : Grid) (cycle : Nat) : Option Nat :=
  ((List.range (g.horizon - g.base)).find? (fun i => g.unstarted (g.base + i) && (g.before cycle).released (g.base + i))).map (g.base + ·)

/-- B moved up past retired teams; fuel is their number. -/
def Grid.slide : Nat → Grid → Grid
  | 0, g => g
  | n + 1, g => if g.retired.contains g.base then
      ({ g with base := g.base + 1, retired := g.retired.filter (fun x => decide (x ≠ g.base)) } : Grid).slide n
    else g

/-- The scoreboard before the first retirement of a cycle is kept through that cycle (R339). -/
def Grid.keepSeen (g : Grid) (cycle : Nat) : Grid :=
  match g.seen with
  | some (c, _, _) => if c = cycle then g else { g with seen := some (cycle, g.base, g.retired) }
  | none => { g with seen := some (cycle, g.base, g.retired) }

/-- A team of the grid retires (R336). -/
def Grid.retire (g : Grid) (n : Nat) : Grid :=
  ({ g with
      started := g.started.filter (fun x => decide (x ≠ n))
      retired := (g.retired.filter (fun x => decide (x < n))) ++ n :: (g.retired.filter (fun x => decide (n < x))) } : Grid).slide
    (g.retired.length + 1)

/-! ## Retirement (R333, R338) -/

/-- Has the team nothing left to do (R142, R181, R206, R338, R431)? -/
def State.canRetire (s : State) (t : Nat) : Bool :=
  let tm := s.tm t
  (afind s.teams t).isSome && s.partRuns tm.part && !tm.halting &&
    tm.slices.all (fun k => (s.sl k).done && decide ((s.sl k).fl = 0 ∧ (s.sl k).fs = 0)) &&
    !s.copies.any (fun c => decide (c.team = t)) && !s.moves.any (fun m => decide (m.team = t)) &&
    !s.entries.any (fun e => decide (e.team = t)) && !s.gangOps.any (fun g => decide (g.team = t)) &&
    !s.batches.any (fun b => decide (b.team = t)) && !s.sends.any (fun x => decide (x.team = t)) &&
    !s.recvs.any (fun r => decide (r.team = t) && !r.posted) && (List.range 8).all (fun j => decide ((tm.token j).count = 0))

/-- A grid whose teams have all retired completes (R333). -/
def State.completeGrid (s : State) (g : Grid) : State :=
  if g.base < g.header.count then s
  else
    let s1 := { s with grids := s.grids.filter (fun x => decide (x.id ≠ g.id)) }
    match g.owner with
    | .token t j => s1.finishAny t j 0
    | _ => s1.setLsstat g.part (lsstatWord 0 false true false)

/-- A grid of a partition by its number. -/
def State.gridNo (s : State) (p n : Nat) : Option Grid := s.grids.find? (fun g => decide (g.part = p ∧ g.number = n))

/-- A team retires: its receives that are unmatched and its wait-for entries are removed, its window closes, it releases, and
its grid goes on. -/
def State.retire (s : State) (t : Nat) : State :=
  let tm := s.tm t
  let s1 := (s.closeWindow t).closeDenialsOf t
  let s2 := { s1 with
    recvs := s1.recvs.filter (fun r => decide (r.team ≠ t)), wft := s1.wft.filter (fun e => decide (e.team ≠ t)) }
  let s3 := s2.freeTeam t
  match s3.gridNo tm.part tm.grid with
  | none => s3
  | some g =>
    let g1 := (g.keepSeen s.cycle).retire tm.index
    ({ s3 with grids := s3.grids.map (fun (x : Grid) => if x.id = g.id then g1 else x) }).completeGrid g1

/-- TEAM_RETIRE (R338). A team whose slices exited and operations finished releases and retires. -/
def execTeamRetire (team : Nat) (s : State) : Host.Outcome State Fault Refusal :=
  if s.canRetire team then .next (s.retire team) else .next s

/-! ## Placement (R337, R340 to R342) -/

/-- THERM and DROOP of a core, 255 while it is power-gated (R340). -/
def State.coreCost (s : State) (core : Nat) : Nat :=
  let off := (s.co core).gated || (s.cl (clusterOfCore core)).gated
  let th := if off then 255 else (s.co core).therm.toNat
  let dr := if off then 255 else (s.co core).droop.toNat
  bits s.foehn 8 4 * th + bits s.foehn 12 4 * dr

/-- Clusters in which the teams of a header of a partition's job may stand: none that is being reclaimed. -/
def State.clustersFor (s : State) (p : Nat) (h : Header) : List Nat :=
  (h.pick (s.jobClusters p)).filter (fun c => decide ((s.cl c).lent ≠ 2))

/-- The cores of a list of clusters, in ring order. -/
def ringOf (cs : List Nat) : List Nat := cs.flatMap (fun c => (List.range 256).map (fun i => 256 * c + i))

/-- The least costly of some cores, the earliest among equals. -/
def State.cheapest (s : State) : List Nat → Option Nat
  | [] => none
  | c :: r => match s.cheapest r with
    | none => some c
    | some d => if s.coreCost d < s.coreCost c then some d else some c

/-- The core that R340 chooses among some clusters, and where P moves. -/
def State.chooseCore (s : State) (p : Nat) (h : Header) (permits : Nat) (cs : List Nat) : Option (Nat × Nat) :=
  let ring := (ringOf cs).filter (fun c => s.admits c h permits)
  let from_ := (ring.filter (fun c => decide ((s.pt p).ptr ≤ c))) ++ (ring.filter (fun c => decide (c < (s.pt p).ptr)))
  match from_ with
  | [] => none
  | plain :: _ => (s.cheapest (from_.take (bits s.foehn 0 6 + 1))).map (fun c => (c, (plain + 1) % 4096))

/-- A waiting team: one swapped out, or a released one of a grid. -/
inductive Waiting where
  | back (r : SavedTeam)
  | fresh (g : Grid) (n : Nat)
  deriving DecidableEq, Repr

def Waiting.header : Waiting → Header
  | .back r => r.team.header
  | .fresh g _ => g.header

def Waiting.permits : Waiting → Nat
  | .back r => (r.slices.filter (fun x => x.frame.isSome)).length
  | .fresh _ _ => 0

/-- Is a swapped-out team a holder of an object with a registered waiter (R382)? -/
def State.heldFor (s : State) (t : Nat) : Bool := decide (s.waitersOf t ≠ [])

/-- Must a swapped-out team be placed at the next boundary, so that it is resident again before four have passed (R344)? -/
def SavedTeam.overdue (r : SavedTeam) : Bool := decide (2 ≤ r.waited)

/-- The order of swapped-out teams: those of a reclaim first (R382), then those whose bound is near (R344, log entry 65), then by
priority and time (R343). -/
def State.savedBefore (s : State) (a b : SavedTeam) : Bool :=
  let ta := savedKey a.id
  let tb := savedKey b.id
  if a.reclaimed ≠ b.reclaimed then a.reclaimed
  else if a.reclaimed ∧ s.heldFor ta ≠ s.heldFor tb then s.heldFor ta
  else if !a.reclaimed ∧ a.overdue ≠ b.overdue then a.overdue
  else if !a.reclaimed ∧ a.overdue then decide (a.swapped.toNat < b.swapped.toNat)
  else if s.effPrio ta ≠ s.effPrio tb then decide (s.effPrio tb < s.effPrio ta)
  else if a.reclaimed then decide (a.team.index < b.team.index)
  else decide (a.swapped.toNat < b.swapped.toNat)

/-- The order of grids (R337). -/
def gridBefore (a b : Grid) : Bool :=
  if a.header.prio = b.header.prio then decide (a.number < b.number) else decide (b.header.prio.toNat < a.header.prio.toNat)

/-- The waiting teams of a partition in queue order, one for each grid (R343). -/
def State.waiting (s : State) (p : Nat) : List Waiting :=
  (sortBy s.savedBefore (s.saved.filter (fun r => decide (r.part = p)))).map Waiting.back ++
    (sortBy gridBefore (s.grids.filter (fun g => decide (g.part = p)))).filterMap (fun g => (g.nextTeam s.cycle).map (fun n => .fresh g n))

/-- A waiting team goes to a core. -/
def State.putTeam (s : State) (p : Nat) (w : Waiting) (core : Nat) : State :=
  match w with
  | .back r => s.replaceTeam r core
  | .fresh g n =>
    let s1 := { s with grids := s.grids.map (fun (x : Grid) => if x.id = g.id then { x with started := x.started ++ [n] } else x) }
    s1.startTeam p g.number n g.header core

/-- Is a cluster being reconnected to a regulator group, so that a dispatch to one of its cores waits (R342, R384)? -/
def State.reconnecting (s : State) (core : Nat) : Bool := (s.cl (clusterOfCore core)).reconnect.isSome

/-- Does the dispatch of a waiting team wait for the reconnection of the cluster of the core that R340 chooses? -/
def State.dispatchWaits (s : State) (p : Nat) (w : Waiting) : Bool :=
  ((s.chooseCore p w.header w.permits (s.clustersFor p w.header)).map (fun c => s.reconnecting c.1)).getD false

/-- A waiting team placed as R340 says, among the clusters given, when some core admits it and its cluster is connected. -/
def State.tryPlace (s : State) (p : Nat) (w : Waiting) (cs : List Nat) : Option State :=
  match s.chooseCore p w.header w.permits cs with
  | none => none
  | some c => if s.reconnecting c.1 then none else some ((s.modPt p (fun x => { x with ptr := c.2 })).putTeam p w c.1)

/-- The first waiting team that finds a core starts (R337). -/
def State.placeFirst (s : State) (p : Nat) : List Waiting → State
  | [] => s
  | w :: r => match s.tryPlace p w (s.clustersFor p w.header) with
    | some s1 => s1
    | none => s.placeFirst p r

/-- TEAM_PLACE (R340). A released team is placed on an eligible core and starts. -/
def execTeamPlace (part : Nat) (s : State) : Host.Outcome State Fault Refusal :=
  if s.partRuns part ∧ (s.pt part).job.isSome then .next (s.placeFirst part (s.waiting part)) else .next s

/-- CORE_WAKE (R342). A gated core wakes for a dispatch. -/
def execCoreWake (core : Nat) (s : State) : Host.Outcome State Fault Refusal :=
  let c := clusterOfCore core
  if s.teamsOn core = [] ∨ (s.cl c).reconnect.isSome then .next s
  else .next ((s.modCo core (fun x => { x with gated := false })).modCl c (fun x => { x with gated := false }))

/-! ## Power gating of what is idle (R342, R387) -/

/-- The idle timer of the partition that holds a cluster, in ns; none where no gating begins (R383). -/
def State.idleTimer (s : State) (cluster : Nat) : Option Nat :=
  match s.partOfCluster cluster with
  | none => none
  | some p =>
    let x := bits (s.pt p).pwrcfg 48 16
    if x = 0 then none else some (1000 * x)

/-- The storage of a core reads as zero after waking: nothing of it stays. -/
def State.clearCore (s : State) (core : Nat) : State :=
  let inside (k : Nat) : Bool :=
    (decide (coreKey core 0 ≤ k ∧ k < coreKey core 0 + 2 ^ 19)) || (decide (tileKey core 0 0 ≤ k ∧ k < tileKey core 0 0 + 2 ^ 16)) ||
      (decide (scaleKey core 0 0 ≤ k ∧ k < scaleKey core 0 0 + 2 ^ 13))
  { s with
    mem := s.mem.filter (fun e => !inside e.1)
    poisoned := s.poisoned.filter (fun e => !inside (4 * e.1)) }

/-- A core begins power gating: it keeps no state. -/
def State.gateCore (s : State) (core : Nat) : State :=
  (s.clearCore core).modCo core (fun x => { Core.reset with gated := true, idleSince := x.idleSince, therm := x.therm, droop := x.droop })

/-- Does a cluster hold active work of engines: copies, ganged operations or far requests? -/
def State.clusterBusy (s : State) (c : Nat) : Bool :=
  s.copies.any (fun x => decide (x.cluster = c)) || s.gangOps.any (fun g => decide (clusterOfCore (coreOfTeam g.team) = c)) ||
    s.fars.any (fun f => decide (clusterOfCore (coreOfSlice f.slice) = c))

/-- IDLE_GATING (R387). The idle timer expires and a core or cluster begins power gating. -/
def execIdleGating (whole : Bool) (unit : Nat) (s : State) : Host.Outcome State Fault Refusal :=
  if whole then
    if !(s.cl unit).gated ∧ (s.idleTimer unit).isSome ∧ (List.range 256).all (fun i => (s.co (256 * unit + i)).gated) ∧
        s.teams.all (fun e => decide (clusterOfCore (coreOfTeam e.1) ≠ unit)) ∧ !s.clusterBusy unit then .next (s.modCl unit (fun x => { x with gated := true }))
    else .next s
  else match s.idleTimer (clusterOfCore unit) with
    | none => .next s
    | some n =>
      if !(s.co unit).gated ∧ s.teamsOn unit = [] ∧ (s.co unit).idleSince.toNat + n ≤ s.ns then .next (s.gateCore unit)
      else .next s

/-! ## Quantum boundaries (R343 to R345) -/

/-- May the team be swapped out at a boundary (R343)? -/
def State.swappable (s : State) (p t : Nat) : Bool :=
  let tm := s.tm t
  decide (tm.part = p) && tm.header.progress && !tm.halting && decide (tm.since.toNat + quantumNs (s.pt p).progq ≤ s.ns)

/-- Is the team blocked on objects all of whose holders are away? -/
def State.stuck (s : State) (t : Nat) : Bool :=
  let tm := s.anyTeam t
  s.blocked t && ((s.teamSlices t).filter (fun e => !e.2.done)).all (fun e =>
    (s.sliceObjs t e.2).all (fun o => (s.holders tm.part tm.job o).all (fun h => decide (2 ^ 24 ≤ h))))

/-- Do all its slices stand in YIELDT? -/
def State.allYielded (s : State) (t : Nat) : Bool :=
  let live := ((s.tm t).slices.map s.sl).filter (fun x => !x.done)
  decide (live ≠ []) && live.all (fun x => match x.wait with | some (.yieldt _ _) => true | _ => false)

/-- The rank of a victim, lower first: its class, its effective priority, the start of its residence. -/
def State.victimRank (s : State) (t : Nat) : Nat × Nat × Nat :=
  (if s.stuck t then 0 else if s.allYielded t then 1 else 2, s.effPrio t, (s.tm t).since.toNat)

def rankBefore (a b : Nat × Nat × Nat) : Bool :=
  if a.1 ≠ b.1 then decide (a.1 < b.1) else if a.2.1 ≠ b.2.1 then decide (a.2.1 < b.2.1) else decide (a.2.2 < b.2.2)

/-- The state with some teams' room given up, to ask what a core would admit. -/
def State.without (s : State) (ts : List Nat) : State :=
  ts.foldl (fun u t => { u with slices := (u.tm t).slices.foldl adel u.slices, teams := adel u.teams t }) s

/-- The victims on a core, in preference order, that make room for a waiting team; none when all of them do not. -/
def State.victimsFor (s : State) (p core : Nat) (w : Waiting) : Option (List Nat) :=
  let vs := sortBy (fun a b => rankBefore (s.victimRank a) (s.victimRank b)) ((s.teamsOn core).filter (s.swappable p))
  ((List.range vs.length).map (fun n => vs.take (n + 1))).find? (fun l => (s.without l).admits core w.header w.permits)

/-- The core whose first victim stands highest, with its victims. -/
def State.victimCore (s : State) (p : Nat) (w : Waiting) : Option (Nat × List Nat) :=
  ((ringOf (s.clustersFor p w.header)).filterMap (fun c => (s.victimsFor p c w).map (fun l => (c, l)))).foldl
    (fun (best : Option (Nat × List Nat)) e => match best with
      | none => some e
      | some b => if rankBefore (s.victimRank (e.2.headD 0)) (s.victimRank (b.2.headD 0)) then some e else some b) none

/-- Has this waiting team, or its grid, been passed over at this boundary? -/
def Waiting.skipped (w : Waiting) (back grids : List Nat) : Bool :=
  match w with
  | .back r => back.contains r.id
  | .fresh g _ => grids.contains g.id

/-- The waiting teams taken in queue order: each is placed, or victims make room for it, or it is passed over. -/
def State.boundary (s : State) (p : Nat) : Nat → List Nat → List Nat → State
  | 0, _, _ => s
  | n + 1, back, grids =>
    match (s.waiting p).find? (fun w => !w.skipped back grids) with
    | none => s
    | some w =>
      let back1 := match w with | .back r => r.id :: back | _ => back
      let grids1 := match w with | .fresh g _ => g.id :: grids | _ => grids
      match s.tryPlace p w (s.clustersFor p w.header) with
      | some s1 => s1.boundary p n back grids
      | none => match if s.dispatchWaits p w then none else s.victimCore p w with
        | none => s.boundary p n back1 grids1
        | some (_, vs) =>
          let s1 := vs.foldl (fun u t => u.swapOut t false) s
          let swapped := (s1.saved.filter (fun r => decide (s.nextId ≤ r.id))).map SavedTeam.id
          match s1.tryPlace p w (s1.clustersFor p w.header) with
          | some s2 => s2.boundary p n (swapped ++ back) grids
          | none => s1.boundary p n (swapped ++ back1) grids1

/-- Teams of a partition being swapped out whose work has come to its end are put away. -/
def State.finishSwaps (s : State) (p : Nat) : State :=
  ((s.teams.map Prod.fst).filter (fun t => decide ((s.tm t).part = p) && (s.tm t).halting)).foldl (fun u t =>
    if u.quiet t then u.putAway t false (decide ((u.cl (clusterOfCore (coreOfTeam t))).lent = 2)) else u) s

/-- QUANTUM_BOUNDARY (R343). At a quantum boundary waiting teams are placed, swapping out victims. -/
def execQuantumBoundary (part : Nat) (s : State) : Host.Outcome State Fault Refusal :=
  if !s.partRuns part ∨ (s.pt part).job.isNone then .next s
  else
    let s0 := s.finishSwaps part
    if s.ns < (s.pt part).nextQuantum.toNat then .next s0
    else
      let s1 := s0.modPt part (fun x => { x with
        nextQuantum := BitVec.ofNat 64 (x.nextQuantum.toNat + quantumNs x.progq) })
      let s2 := ((s1.teams.map Prod.fst).filter (fun t => decide ((s1.tm t).part = part))).foldl
        (fun u t => if u.canRetire t then u.retire t else u) s1
      let s3 := s2.boundary part 65536 [] []
      .next { s3 with saved := s3.saved.map (fun (r : SavedTeam) =>
        if r.part = part ∧ r.id < s2.nextId then { r with waited := r.waited + 1 } else r) }

end Sys2Proof.Machine
end

