-- ==== Sys2Proof/Machine/Recv.lean ====
section
/-! DEFINITION. The receive engine (spec R414 to R432): SEND, RPOST, RCANCEL, RPROBE, matching, landing, pulls and the
receive areas. -/

namespace Sys2Proof.Machine

open Sys2Proof

/-! ## Receive areas (R427) -/

/-- Key of the receive area of a job on a die, and its size. -/
def State.rxArea (s : State) (die p : Nat) (job : BitVec 16) : Option (Nat × Nat) :=
  let r := aget 0 (s.di die).rxcfg p
  let sl := bits r 58 6
  if sl < 24 ∨ 36 < sl then none
  else (s.jobEntry p job).map (fun e => (hbmKey die ((bits r 12 25 * 4096 + e.1 * 2 ^ sl) % 2 ^ 37), 2 ^ sl))

def rxKey (p : Nat) (job : BitVec 16) : Nat := p * 65536 + job.toNat

/-- Messages of a job's unexpected queue on a die, matched ones whose space is not reclaimed among them. -/
def State.unexpectedOf (s : State) (die p : Nat) (job : BitVec 16) : List Unexpected :=
  s.unexpected.filter (fun u => decide (u.die = die ∧ u.part = p ∧ u.job = job))

/-- The lowest number below a limit that a list does not hold. -/
def lowestSlot (used : List Nat) (limit : Nat) : Option Nat := (List.range (min limit (used.length + 1))).find? (fun i => !used.contains i)

/-- Pool offset for so many bytes at the pool's head (R427). -/
def State.poolPlace (s : State) (die p : Nat) (job : BitVec 16) (size room : Nat) : Option Nat :=
  let h := aget 0 (s.di die).rxHead (rxKey p job)
  let cap := size - 0x800000
  match (s.unexpectedOf die p job).find? (fun u => decide (u.room ≠ 0)) with
  | none => if h + room ≤ cap then some h else if room ≤ cap then some 0 else none
  | some o =>
    if room = 0 then some h
    else if o.pool < h then (if h + room ≤ cap then some h else if room ≤ o.pool then some 0 else none)
    else if h + room ≤ o.pool then some h else none

/-- The 64 bytes of an unexpected record; the widths of its fields are log entry 15's. -/
def Unexpected.record (u : Unexpected) : List Byte :=
  natLe 8 u.srcKey.toNat ++ natLe 4 u.tag.toNat ++ natLe 4 u.len ++ natLe 4 u.rdv.toNat ++ natLe 4 u.rdvHandle.toNat ++
    natLe 8 u.pool ++ natLe 8 u.id ++ List.replicate 24 0

/-- A message that leaves the unexpected queue; pool space is reclaimed from the oldest payload onward (R427). -/
def State.dropUnexpected (s : State) (u : Unexpected) : State :=
  let l1 := if u.room = 0 then s.unexpected.filter (fun x => decide (x.id ≠ u.id))
    else s.unexpected.map (fun x => if x.id = u.id then { x with gone := true } else x)
  let mine (x : Unexpected) : Bool := decide (x.die = u.die ∧ x.part = u.part ∧ x.job = u.job ∧ x.room ≠ 0)
  let freed := ((l1.filter mine).takeWhile (fun x => x.gone)).map (fun x => x.id)
  { s with unexpected := l1.filter (fun x => !freed.contains x.id) }

/-! ## Sources and matching (R414, R421) -/

/-- The source key of a message packet. -/
def packetSource (pkt : Packet) : DWord := 0#25 ++ (pkt.addr.extractLsb' 26 16 ++ (pkt.srcDie ++ pkt.srcPeer))

/-- Does a receive block match a tag and a source key? -/
def blockMatches (block : List Byte) (tag : Word) (src : DWord) : Bool :=
  decide ((tag ^^^ fieldW block 0) &&& fieldW block 4 = 0) && decide ((src ^^^ fieldD block 8) &&& fieldD block 0x10 = 0)

/-- The oldest posted receive of a job on a die that matches. -/
def State.postedFor (s : State) (die p : Nat) (job : BitVec 16) (tag : Word) (src : DWord) : Option Recv :=
  s.recvs.find? (fun r => r.posted && decide (r.die = die ∧ r.part = p ∧ r.job = job) && blockMatches r.block tag src)

/-- The oldest message of the unexpected queue that a block matches. -/
def State.oldestFor (s : State) (die p : Nat) (job : BitVec 16) (block : List Byte) : Option Unexpected :=
  (s.unexpectedOf die p job).find? (fun u => !u.gone && blockMatches block u.tag u.srcKey)

/-! ## Rendezvous pulls (R422) -/

/-- Chunks of 2,048 bytes that a rendezvous landing asks for. -/
def Recv.chunks (r : Recv) : Nat := max 1 ((min r.len r.nominal + 2047) / 2048)

/-- Bytes of a message that a chunk holds. -/
def Recv.chunkLen (r : Recv) (n : Nat) : Nat := min 2048 (r.len - 2048 * n)

/-- The first byte not landed, when so many chunks have landed at or beyond it (R432). -/
def Recv.front (r : Recv) (early : List Nat) : Nat → Nat → Nat
  | 0, at_ => at_
  | fuel + 1, at_ =>
    if at_ % 2048 = 0 ∧ at_ < r.len ∧ early.contains (at_ / 2048) then r.front early fuel (at_ + r.chunkLen (at_ / 2048)) else at_

/-- A chunk has come, or has failed with a code: its bytes land, and its request is over. -/
def State.chunkLands (s : State) (id n : Nat) (bs : List Byte) (code : BitVec 8) : State :=
  ((s.modRecv id (fun r => if code = 0 then r else r.fail code)).landBytes id (2048 * n) bs).modRecv id (fun r =>
    let early := n :: r.early
    let front := r.front early early.length r.landed
    { r with
      pulls := r.pulls.filter (fun c => decide (c ≠ n)), landed := front, early := early.filter (fun c => decide (front ≤ 2048 * c))
      endSeen := r.endSeen || decide (n + 1 = r.chunks) })

/-- A chunk fails: its bytes land as the fill, with the error's event at the place of its first byte unless the sender's
side has appended it. -/
def State.chunkFails (s : State) (id n : Nat) (denied : Bool) (tag : BitVec 20) (event : Bool) (bs : List Byte) : State :=
  match s.recvOf id with
  | none => s
  | some r =>
    let s1 := if event then s.recvEvent r.team (r.byteAddr (2048 * n)) tag (if denied then 1 else 10) else s
    let fill : Byte := if denied then 0 else 0xFF
    s1.chunkLands id n (bs ++ List.replicate (r.chunkLen n - bs.length) fill) (if denied then 9 else 6)

/-- PULL requests in increasing offset while fewer than 16 are outstanding; fuel bounds the rounds. -/
def State.pumpFor (s : State) (id : Nat) : Nat → State
  | 0 => s
  | fuel + 1 =>
    match s.recvOf id with
    | none => s
    | some r =>
      let n := r.nextPull
      if !r.rdv ∨ r.posted ∨ 16 ≤ r.pulls.length ∨ r.chunks ≤ n ∨ !s.engineOn r.part ∨ !s.teamGoes r.part r.team then s
      else
        let s1 := s.putRecv { r with nextPull := n + 1, pulls := r.pulls ++ [n] }
        if !s.peerReachable r.sender then (s1.chunkFails id n false 0 true []).pumpFor id fuel
        else
          let addr : BitVec 42 := r.rdvHandle ++ (BitVec.ofNat 21 n ++ 0#5)
          let u := s1.sendRequestTo r.senderDie r.part r.die r.sender addr clsPull (if n + 1 = r.chunks then 1 else 0) [] (s.farDue r.part) id 2 n
          u.1.pumpFor id fuel

/-- As many rounds as the message has chunks. -/
def State.pump (s : State) (id : Nat) : State := s.pumpFor id (((s.recvOf id).map Recv.chunks).getD 0 + 1)

/-! ## A match (R421, R422) -/

/-- The posted wait of a receive leaves the table, at the match (R430; DEDUCED against R309, log entry 58). -/
def State.dropPosted (s : State) (r : Recv) : State :=
  match r.wft with
  | none => s
  | some e => { s with wft := s.wft.filter (fun x => decide (x.id ≠ e)) }

/-- A receive matched with a message; its landing begins. -/
def State.matched (s : State) (r : Recv) (len : Nat) (tag : Word) (src : DWord) (rdv : Bool) (handle : BitVec 16) : State :=
  ((s.dropPosted r).putRecv { r with
    posted := false, wft := none, spill := none, len := len, mtag := tag, msrc := src, rdv := rdv
    sender := src.extractLsb' 0 20, senderDie := src.extractLsb' 20 3, rdvHandle := handle, landed := 0
    code := if r.nominal < len then 7 else 0 }).pump r.id

/-- Eager bytes that have arrived in order land, and are counted. -/
def State.landEager (s : State) (id off : Nat) (bs : List Byte) : State :=
  (s.landBytes id off bs).modRecv id (fun r => { r with landed := off + bs.length })

/-- A receive matched with a message of the unexpected queue: what has arrived lands from the receive area, whose poison is found
(R292). -/
def State.matchUnexpected (s : State) (r : Recv) (u : Unexpected) : State :=
  let s1 := (s.dropUnexpected u).matched r u.len u.tag u.srcKey u.rdv u.rdvHandle
  match s.rxArea u.die u.part u.job, u.rdv with
  | some (a, _), false =>
    let key := a + 0x800000 + u.pool
    (s1.foundBy key u.landed (fun v kind => v.recvEvent r.team (BitVec.ofNat 64 key) 0 kind)).landEager r.id 0 (s.bytes key u.landed)
  | _, _ => s1

/-- The engine reads the posted receives of a job on a die, up to the one that matches (R292). -/
def State.scanPosted (s : State) (die p : Nat) (job : BitVec 16) (tag : Word) (src : DWord) : State :=
  let mine := s.recvs.filter (fun r => r.posted && decide (r.die = die ∧ r.part = p ∧ r.job = job))
  let missed := mine.takeWhile (fun r => !blockMatches r.block tag src)
  (mine.take (missed.length + 1)).foldl (fun u r => u.recvRead r.id) s

/-! ## Arrivals (R421, R427) -/

/-- The header of a message (R428). -/
def messageHeader (pkt : Packet) : Word × Nat × BitVec 16 :=
  (fieldW pkt.payload 0, field pkt.payload 4 4, BitVec.ofNat 16 (field pkt.payload 8 2))

/-- A message taken by the engine of a die: matched, or appended to the unexpected queue, or refused with a STAT:
a partition without areas takes no message (R427). -/
def State.messageCome (s0 : State) (p : Nat) (pkt : Packet) : Except (BitVec 4) State :=
  let (tag, len, handle) := messageHeader pkt
  let rdv := decide (pkt.cls = clsRts)
  let src := packetSource pkt
  let die := pkt.dstDie.toNat
  let data := pkt.payload.drop 16
  match s0.rxArea die p pkt.job with
  | none => .error 2
  | some (a, size) =>
    let s := s0.scanPosted die p pkt.job tag src
    match s.postedFor die p pkt.job tag src with
    | some r =>
      let s1 := s.matched r len tag src rdv handle
      .ok (if rdv then s1 else s1.landEager r.id 0 data)
    | none =>
      let us := s.unexpectedOf die p pkt.job
      let room := if rdv then 0 else (len + 63) / 64 * 64
      match lowestSlot ((us.filter (fun u => !u.gone)).map (fun u => u.slot)) 65536, s.poolPlace die p pkt.job size room with
      | some slot, some at_ =>
        let u : Unexpected :=
          { id := s.nextId, part := p, job := pkt.job, die := die, srcKey := src, tag := tag, len := len, rdv := rdv
            rdvHandle := handle, slot := slot, pool := at_, room := room, landed := if rdv then 0 else data.length, gone := false }
        let s1 := ({ s with nextId := s.nextId + 1, unexpected := s.unexpected ++ [u] }).modDi die (fun d =>
          { d with rxHead := aset 0 d.rxHead (rxKey p pkt.job) (at_ + room) })
        .ok ((s1.putMem (a + 64 * slot) u.record).putMem (a + 0x800000 + at_) (if rdv then [] else data))
      | _, _ => .error 0

/-- Bytes of a later packet of an eager message (R422). -/
def State.messageGoes (s : State) (p : Nat) (pkt : Packet) : State :=
  let src := packetSource pkt
  let die := pkt.dstDie.toNat
  let off := bits pkt.addr 0 26
  match s.recvs.find? (fun r => !r.posted && !r.rdv && decide (r.die = die ∧ r.part = p ∧ r.job = pkt.job ∧ r.msrc = src ∧
      r.landed = off ∧ off < r.len)) with
  | some r => s.landEager r.id off pkt.payload
  | none => match s.unexpected.find? (fun u => !u.gone && !u.rdv && decide (u.die = die ∧ u.part = p ∧ u.job = pkt.job ∧
      u.srcKey = src ∧ u.landed = off ∧ off < u.len)), s.rxArea die p pkt.job with
    | some u, some (a, _) =>
      ({ s with unexpected := s.unexpected.map (fun (x : Unexpected) =>
          if x.id = u.id then { x with landed := off + pkt.payload.length } else x) }).putMem (a + 0x800000 + u.pool + off) pkt.payload
    | _, _ => { s with dropped := s.dropped + 1 }

/-- Is the packet the first of a message? -/
def isFirstOfMessage (pkt : Packet) : Bool :=
  decide (pkt.cls = clsRts) || (decide (pkt.cls = clsMsg) && decide (bits pkt.addr 0 26 = 0))

/-- A message of a stream is abandoned by its sender: a refusal with a STAT that ends it (R418). -/
def State.sendRefused (s : State) (pkt : Packet) : State :=
  let hit (x : SendOp) : Bool := decide (x.die = pkt.srcDie.toNat ∧ x.dstPeer = pkt.dstPeer ∧ x.dstDie = pkt.dstDie) &&
    x.packets.contains pkt.seq.toNat
  match s.sends.find? hit with
  | none => s
  | some x =>
    let s1 := (s.recvEvent x.team x.addr 0 10)
    { s1 with sends := s1.sends.map (fun (y : SendOp) =>
        if y.id = x.id then { y.fail 6 with endAnswered := true, packets := [] } else y) }

/-- A packet is no more one that was acknowledged when it was parked. -/
def State.unpark (s : State) (pkt : Packet) : State := { s with acked := s.acked.erase pkt }

/-- The acknowledgement of a packet that is taken; one that was parked has had it (R371). -/
def State.answerAck (s : State) (pkt : Packet) : State := if s.acked.contains pkt then s.unpark pkt else s.sendAck pkt

/-- A packet of group 1 that stands first in its stream is taken, parked, dropped or refused; one that was parked waits in its place
where it would be refused for want of room. -/
def State.takeMessage (s : State) (pkt : Packet) : State :=
  match s.fate pkt with
  | .drop p => ((s.take pkt).dropGen p pkt).answerAck pkt
  | .park image => match s.parkPacket image pkt with
    | some s1 => (s1.take pkt).answerAck pkt
    | none => if s.acked.contains pkt then s else s.refuse pkt 0 true
  | .nack n => if s.acked.contains pkt then { (s.take pkt).unpark pkt with dropped := s.dropped + 1 } else s.refuse pkt n false
  | .deliver p =>
    if isFirstOfMessage pkt then
      match s.messageCome p pkt with
      | .ok s1 => (s1.take pkt).answerAck pkt
      | .error stat =>
        if s.acked.contains pkt then (if stat = 0 then s else { (s.take pkt).unpark pkt with dropped := s.dropped + 1 })
        else if pkt.srcPeer = s.selfPeer ∧ stat ≠ 0 then
          let later := s.inbox.filter (fun q => decide (pktStream q = pktStream pkt) &&
            ((s.sends.find? (fun x => x.packets.contains pkt.seq.toNat)).map (fun x => x.packets.contains q.seq.toNat)).getD false)
          ({ s with inbox := s.inbox.filter (fun q => !later.contains q) }).sendRefused pkt
        else s.refuse pkt stat false
    else ((s.messageGoes p pkt).take pkt).answerAck pkt

/-- MESSAGE_ARRIVAL (R421). A message's first packet arrives and is matched or queued as unexpected. -/
def execMessageArrival (pkt : Packet) (s : State) : Host.Outcome State Fault Refusal :=
  if s.isFirst pkt ∧ isFirstOfMessage pkt then .next (s.takeMessage pkt) else .next s

/-- MESSAGE_PACKET_LANDING (R422). A later eager packet lands its bytes into the matched receive. -/
def execMessagePacketLanding (pkt : Packet) (s : State) : Host.Outcome State Fault Refusal :=
  if s.isFirst pkt ∧ pkt.cls = clsMsg ∧ !isFirstOfMessage pkt then .next (s.takeMessage pkt) else .next s

/-! ## Pulls answered (R417, R422) -/

/-- Bitmap of the target's principal for the puller's job: a package is no principal for itself (R422). -/
def State.pullBitmap (s : State) (p : Nat) (pkt : Packet) : Option (Option DWord) :=
  if pkt.srcPeer = s.selfPeer then none
  else some (((s.jobOf p).prins.find? (fun e => decide (e.1 = pkt.job))).map Prod.snd)

/-- Does the principal deny a byte of a payload, and with which tag? Without an entry every tag is denied. -/
def State.principalDenies (s : State) (p : Nat) (bitmap : Option (Option DWord)) (a : DWord) : Option (BitVec 20) :=
  match bitmap with
  | none => none
  | some none => some 0
  | some (some ptr) => match s.resolve ⟨p, s.jobOf p, some (some ptr)⟩ a true false false with
    | .fail .denied tag => some tag
    | _ => none

/-- The payload bytes that a PULL in time is answered with: what `readPayload` reads, with the principal's check of each byte. Beside
them the first error's code and the tag of the leaf denied. -/
def State.pullBytes (s : State) (p : Nat) (pkt : Packet) (x : SendOp) (k n : Nat) : State × List Byte × BitVec 8 × BitVec 20 :=
  let bitmap := s.pullBitmap p pkt
  let r := s.readPayload x k n
  let ds := (List.range n).map (fun i => (x.addr + BitVec.ofNat 64 (k + i), s.principalDenies p bitmap (x.addr + BitVec.ofNat 64 (k + i))))
  let bad := firstFails (ds.map (fun e => (e.1, (0 : Byte), e.2.map (fun tag => (FarErr.denied, tag))))) []
  let denied := decide (bad ≠ [] ∨ bitmap = some none)
  let tag := match bad with | e :: _ => e.2.2 | [] => 0
  let s1 := bad.foldl (fun u e => u.recvFail x.team e.1 e.2.1 e.2.2) r.1
  (if denied then s1.memEventJob p (placeDie x.addr) (x.addr + BitVec.ofNat 64 k) tag 7 1 pkt.srcPeer else s1,
    (r.2.1.zip ds).map (fun e => if e.2.2.isSome then 0 else e.1),
    if r.2.2 ≠ 0 then r.2.2 else if denied then 9 else 0, tag)

/-- The send that a PULL names. -/
def State.sendFor (s : State) (pkt : Packet) : Option SendOp :=
  s.sends.find? (fun x => x.rdv && decide (x.die = pkt.dstDie.toNat ∧ x.rdvHandle.toNat = bits pkt.addr 26 16 ∧
    x.dstPeer = pkt.srcPeer ∧ x.dstDie = pkt.srcDie ∧ x.job = pkt.job))

/-- A PULL answered from the payload of a partition's send. -/
def State.answerPull (s : State) (p : Nat) (pkt : Packet) : State :=
  match s.sendFor pkt with
  | none => s.sendAnswer pkt 2 0 []
  | some x =>
    let k := 2048 * bits pkt.addr 5 21
    let n := min 2048 (x.len - k)
    let late := linePassed s.ns pkt.dline
    let (s1, bs, code, tag) : State × List Byte × BitVec 8 × BitVec 20 :=
      if late then (s.recvFail x.team (x.addr + BitVec.ofNat 64 k) .timeout 0, [], 6, 0) else s.pullBytes p pkt x k n
    let y := if code = 0 then x else x.fail code
    let y1 := { y with endAnswered := y.endAnswered || pkt.op.getLsbD 0 }
    let stat : BitVec 4 := if late then 3 else if code = 9 then 4 else if code = 0 then 0 else 2
    ({ s1 with sends := s1.sends.map (fun (z : SendOp) => if z.id = x.id then y1 else z) }).sendAnswer pkt stat tag bs

/-- PULL_REQUEST (R422). The sender answers a rendezvous PULL from the payload. -/
def execPullRequest (pkt : Packet) (s : State) : Host.Outcome State Fault Refusal :=
  if !s.isFirst pkt ∨ pkt.cls ≠ clsPull then .next s
  else match s.fate pkt with
    | .deliver p => .next (((s.take pkt).answerPull p pkt).sendAck pkt)
    | .drop p => .next (((s.take pkt).dropGen p pkt).sendAck pkt)
    | .nack n => .next (s.refuse pkt n false)
    | .park _ => .next s

/-- The outstanding request that an answer is for. -/
def State.requestFor (s : State) (pkt : Packet) : Option PeerReq :=
  s.peerReqs.find? (fun r => decide (r.txid = pkt.txid ∧ r.stream.dstPeer = pkt.srcPeer ∧ r.stream.srcDie = pkt.dstDie))

def State.dropRequest (s : State) (r : PeerReq) : State := { s with peerReqs := s.peerReqs.erase r }

/-- Does the landing of a receive go on (R362)? One that stands still pulls its chunks again after the restore. -/
def State.recvGoes (s : State) (id : Nat) : Bool :=
  match s.recvOf id with
  | none => true
  | some r => s.teamGoes r.part r.team

/-- A PULL's answer applied to its receive; its errors are those of R422. A sender of this package has appended its own event when
it answered; what stands for an answer that has not come names no job. -/
def State.pullAnswered (s : State) (r : PeerReq) (pkt : Packet) : State :=
  let s1 := s.dropRequest r
  if !s.recvGoes r.src then s1
  else
  let s2 := match statErr pkt.stat with
    | none => s1.chunkLands r.src r.off pkt.payload 0
    | some e => s1.chunkFails r.src r.off (decide (e = FarErr.denied ∨ e = FarErr.partition)) pkt.tag
        (decide (pkt.srcPeer ≠ s.selfPeer ∨ pkt.job = 0 ∨ (pkt.payload = [] ∧ pkt.stat ≠ 3))) pkt.payload
  s2.pump r.src

/-- PULL_ANSWER (R422). A PULL answer arrives and its chunk lands. -/
def execPullAnswer (pkt : Packet) (s : State) : Host.Outcome State Fault Refusal :=
  match s.requestFor pkt with
  | none => .next s
  | some r =>
    if !s.isFirst pkt ∨ pkt.cls ≠ clsAns ∨ r.kind ≠ 2 then .next s
    else .next (((s.take pkt).sendAck pkt).pullAnswered r pkt)

/-! ## SEND (R416 to R418) -/

/-- Is the message of a length eager? -/
def isEager (rdv : Bool) (len : Nat) : Bool := !rdv && decide (len ≤ 65536)

/-- Rendezvous handles of a die in use. -/
def State.handlesOf (s : State) (die : Nat) : List Nat :=
  (s.sends.filter (fun x => x.rdv && decide (x.die = die))).map (fun x => x.rdvHandle.toNat)

/-- The next free rendezvous handle of a die; none when all are in use. -/
def State.nextHandle (s : State) (die : Nat) : Option (BitVec 16) :=
  let used := s.handlesOf die
  if 65536 ≤ used.length then none
  else
    let from_ := (s.di die).rdvNext
    ((List.range (used.length + 1)).map (fun i => from_ + BitVec.ofNat 16 i)).find? (fun h => !used.contains h.toNat)

/-- The 16 bytes of a message header (R428). -/
def headerBytes (tag : Word) (len : Nat) (handle : BitVec 16) : List Byte :=
  natLe 4 tag.toNat ++ natLe 4 len ++ natLe 2 handle.toNat ++ List.replicate 6 0

/-- A message packet of a send. -/
def State.messagePacket (s : State) (x : SendOp) (cls : BitVec 4) (off : Nat) (payload : List Byte) : Packet :=
  { dstPeer := x.dstPeer, dstDie := x.dstDie, srcPeer := s.selfPeer, srcDie := BitVec.ofNat 3 x.die, cls := cls, det := false
    so := false, gen := x.gen, job := x.job, seq := 0, txid := 0, tag := 0, stat := 0, op := 0
    addr := BitVec.ofNat 16 x.teamIndex ++ BitVec.ofNat 26 off, dline := 0, payload := payload }

/-- One message packet handed over for a send. -/
def State.sendMessage (s : State) (id : Nat) (pkt : Packet) : State :=
  let r := s.sendPacket pkt
  { r.1 with sends := r.1.sends.map (fun (x : SendOp) =>
      if x.id = id then { x with packets := x.packets ++ [r.2.toNat] } else x) }

/-- Eager payload cut into packets: 2,032 bytes behind the header, then 2,048 each; fuel is the length. -/
def cutEager : Nat → Nat → Nat → List (Nat × Nat)
  | 0, _, _ => []
  | f + 1, off, len =>
    let n := min (if off = 0 then 2032 else 2048) (len - off)
    if off ≠ 0 ∧ n = 0 then [] else (off, n) :: (if off + n < len then cutEager f (off + n) len else [])

/-- One packet of an eager message: its payload read, with what its errors leave in the send, and sent (R417, R418). -/
def State.sendEagerPart (s : State) (x : SendOp) (off n : Nat) : State :=
  let r := s.readPayload x off n
  let s1 := if r.2.2 = 0 then r.1
    else { r.1 with sends := r.1.sends.map (fun y => if y.id = x.id then y.fail r.2.2 else y) }
  s1.sendMessage x.id (s.messagePacket x clsMsg off ((if off = 0 then headerBytes x.tag x.len 0 else []) ++ r.2.1))

/-- Is an earlier message of a team to the same die still under way from another die (R415)? Its messages arrive in the order of their
SENDs. -/
def State.sendBehind (s : State) (x : SendOp) : Bool :=
  s.sends.any (fun y => decide (y.id < x.id ∧ y.team = x.team ∧ y.die ≠ x.die ∧ y.dstPeer = x.dstPeer ∧ y.dstDie = x.dstDie) &&
    (y.waits || decide (y.packets ≠ [])))

/-- A send sends: every packet of an eager message is read and sent, or the request to send is (R417). -/
def State.goSend (s : State) (x : SendOp) : State :=
  if x.rdv then s.sendMessage x.id (s.messagePacket x clsRts 0 (headerBytes x.tag x.len x.rdvHandle))
  else (cutEager (x.len + 1) 0 x.len).foldl (fun t e => t.sendEagerPart x e.1 e.2) s

/-- A send begins, or waits for its team's earlier ones. -/
def State.startSend (s : State) (x : SendOp) : State :=
  let s1 := { s with nextId := s.nextId + 1, sends := s.sends ++ [{ x with waits := s.sendBehind x }] }
  if s.sendBehind x then s1 else s1.goSend x

/-- A send that has waited for its team's earlier ones begins when they have been accepted. -/
def State.releaseSend (s : State) (id : Nat) : State :=
  match s.sends.find? (fun x => decide (x.id = id)) with
  | none => s
  | some x =>
    if !x.waits ∨ s.sendBehind x ∨ !s.engineOn x.part then s
    else
      let y := { x with waits := false }
      ({ s with sends := s.sends.map (fun (z : SendOp) => if z.id = id then y else z) }).goSend y

/-- Does a SEND stall for want of room under its token's count or of a rendezvous handle (R173, R418)? -/
def State.sendStall (s : State) (rdv : Bool) (j b : Nat) : Bool :=
  let k0 := (s.members s.cur).headD 0
  let len := ((s.sl k0).sVal b).toNat
  s.tokenFull j || decide (!isEager rdv len ∧ len < 2 ^ 31 ∧ (s.nextHandle (dieOfCore (coreOfSlice k0))).isNone)

/-- SEND (R417). Sends a message, eager or rendezvous, binding a token. -/
def execSend (rdv : Bool) (j : BitVec 3) (a b : BitVec 6) (s : State) : Host.Outcome State Fault Refusal :=
  let k0 := (s.members s.cur).headD 0
  let die := dieOfCore (coreOfSlice k0)
  if s.sendStall rdv j.toNat b.toNat then .next s
  else .next (s.once [a.toNat, a.toNat + 1, b.toNat, b.toNat + 1, b.toNat + 2] (fun u ms k =>
    let x := u.sl k
    let t := x.team
    let tm := u.tm t
    let len := (x.sVal b.toNat).toNat
    let dest := x.sVal (b.toNat + 2)
    let peer : BitVec 20 := dest.extractLsb' 0 20
    let addr := x.sPair a.toNat
    let u1 := u.bindToken t j.toNat
    let u2 :=
      if 2 ^ 31 ≤ len then u1.finishToken t j.toNat 6
      else if !u1.peerReachable peer then (u1.recvEvent t addr 0 10).finishToken t j.toNat 6
      else
        let eager := isEager rdv len
        let h := if eager then 0 else (u1.nextHandle die).getD 0
        let op : SendOp :=
          { id := u1.nextId, team := t, teamIndex := tm.index, part := tm.part, job := tm.job, gen := (u1.jobOf tm.part).gen
            die := die, token := j.toNat, addr := addr, len := len, tag := x.sVal (b.toNat + 1), dstPeer := peer
            dstDie := dest.extractLsb' 20 3, rdv := !eager, rdvHandle := h, packets := [], waits := false, endAnswered := eager, code := 0 }
        let u3 := if eager then u1 else u1.modDi die (fun d => { d with rdvNext := h + 1 })
        u3.startSend op
    u2.advance ms 4))

/-- A send whose packets are settled, and whose last PULL has been answered, finishes its token. -/
def State.finishSend (s : State) (send : Nat) : State :=
  match s.sends.find? (fun x => decide (x.id = send)) with
  | none => s
  | some x =>
    if x.waits ∨ x.packets ≠ [] ∨ !x.endAnswered then s
    else ({ s with sends := s.sends.filter (fun y => decide (y.id ≠ send)) }).finishAny x.team x.token x.code

/-- SEND_FINISH (R417). A send's token finishes when all packets are accepted or the END PULL answered. -/
def execSendFinish (send : Nat) (s : State) : Host.Outcome State Fault Refusal := .next (s.finishSend send)

/-! ## RPOST, RCANCEL, RPROBE (R420, R425, R426) -/

/-- Reserved fields of a receive block. -/
def blockClear (b : List Byte) : Bool :=
  decide (bits (fieldD b 8) 39 25 = 0) && decide (bits (fieldD b 0x10) 39 25 = 0) && decide (fieldD b 0x38 = 0)

/-- Room for one more posted receive: on the die (none), or a place in the job's spill room (R427). -/
def State.postRoom (s : State) (die p : Nat) (job : BitVec 16) : Option (Option (Nat × Nat)) :=
  if (s.recvs.filter (fun r => r.posted && decide (r.die = die) && r.spill.isNone)).length < 4096 then some none
  else match s.rxArea die p job with
    | none => none
    | some (a, _) => (lowestSlot ((s.recvs.filter (fun r => decide (r.die = die ∧ r.part = p ∧ r.job = job))).filterMap
        (fun r => r.spill)) 32768).map (fun n => some (n, a + 0x400000 + 128 * n))

/-- The next number of a job's receives on a die: from 1, wrapping to 1. -/
def nextRecv (x : BitVec 29) : BitVec 29 := if x = BitVec.allOnes 29 then 1 else x + 1

/-- The posted wait of a receive registered on its block's key (R430). -/
def State.registerPosted (s : State) (r : Recv) (k : Nat) (key : DWord) : State :=
  match s.addEntry (s.entryOf r.team key 3 4 k) with
  | some (s1, e) => s1.putRecv { r with wft := some e }
  | none => (s.wftOverflow r.die).modSl k (fun x => x.stick stWftUnreg)

/-- RPOST once its checks have passed. -/
def State.postRecv (s : State) (ms : List Nat) (k d : Nat) (tok cq bar : Bool) (j : Nat) (at_ : Word) (block desc : List Byte) : State :=
  let t := (s.sl k).team
  let tm := s.tm t
  let core := coreOfSlice k
  let die := dieOfCore core
  if !blockClear block ∨ !tensorOk desc then s.answer ms d 0xFFFFFFFF
  else match s.postRoom die tm.part tm.job with
    | none => s.answer ms d 0
    | some place =>
      let key := rxKey tm.part tm.job
      let n := nextRecv (aget 0 (s.di die).rxSeq key)
      let h : Word := BitVec.ofNat 3 die ++ n
      let r : Recv :=
        { id := s.nextId, part := tm.part, job := tm.job, die := die, handle := h, team := t, teamIndex := tm.index
          tok := if tok then some j else none, cq := cq, bar := bar, block := block, desc := desc, posted := true, code := 0
          len := 0, mtag := 0, msrc := 0, rdv := false, sender := 0, senderDie := 0, rdvHandle := 0, landed := 0, early := [], pulls := []
          nextPull := 0, endSeen := false, writes := 0, held := [], heldEnd := none, unfound := false, spill := place.map Prod.fst, wft := none }
      let s1 := ({ s with nextId := s.nextId + 1, recvs := s.recvs ++ [r] }).modDi die (fun x => { x with rxSeq := aset 0 x.rxSeq key n })
      let s2 := if tok then s1.bindToken t j else s1
      let s3 := match s2.oldestFor die tm.part tm.job block with
        | some u => s2.matchUnexpected r u
        | none => (match place with | some (_, m) => s2.putMem m (block ++ desc) | none => s2).registerPosted r k
            (localKey core at_.toNat)
      s3.answer ms d h

/-- RPOST (R420). Posts a receive from a receive block and returns a handle. -/
def execRpost (tok cq bar : Bool) (j : BitVec 3) (d a : BitVec 6) (s : State) : Host.Outcome State Fault Refusal :=
  if tok ∧ s.tokenFull j.toNat then .next s
  else .next (s.once [a.toNat] (fun u ms k =>
    let core := coreOfSlice k
    let tm := u.tm (u.sl k).team
    let at_ := (u.sl k).sVal a.toNat
    let block := u.capture core at_ 64
    let spans : List LocalSpan := [⟨at_, 64, 64⟩, ⟨fieldW block 0x18, 64, 64⟩] ++
      (if bar then [⟨fieldW block 0x30, 16, 16⟩] else []) ++ (if cq then [⟨fieldW block 0x34, 32, 32⟩] else [])
    match badSpan tm spans with
    | some (cause, b) => u.gangTrap ms cause 0 0xF b 0
    | none =>
      let t := (u.sl k).team
      let key1 := coreKey core at_.toNat
      let key2 := coreKey core (fieldW block 0x18).toNat
      let u1 := (u.noteFound t 5 (localKey core at_.toNat) key1 64).noteFound t 5 (localKey core (fieldW block 0x18).toNat) key2 64
      u1.postRecv ms k d.toNat tok cq bar j.toNat at_ block (u1.capture core (fieldW block 0x18) 64)))

/-- RCANCEL (R425). Withdraws an unmatched posted receive. -/
def execRcancel (d a : BitVec 6) (s : State) : Host.Outcome State Fault Refusal :=
  .next (s.once [a.toNat] (fun u ms k =>
    let t := (u.sl k).team
    let h := (u.sl k).sVal a.toNat
    match u.recvs.find? (fun r => decide (r.team = t ∧ r.handle = h)) with
    | none => u.answer ms d.toNat (if (u.tm t).landed.contains h then 0 else 2)
    | some r =>
      if !r.posted then u.answer ms d.toNat 0
      else ((u.dropPosted r).finishRecv { r with code := 8, len := 0, msrc := 0, mtag := fieldW r.block 0 }).answer ms d.toNat 1))

/-- The quad of a probe's result. -/
def Slice.putQuad (x : Slice) (d : Nat) (ws : List Word) : Slice :=
  ((List.range 4).zip ws).foldl (fun y e => y.sPut (d + e.1) e.2) x

/-- RPROBE (R426). Reports the oldest matching unexpected message without taking it. -/
def execRprobe (d a : BitVec 6) (s : State) : Host.Outcome State Fault Refusal :=
  .next (s.once [a.toNat] (fun u ms k =>
    let core := coreOfSlice k
    let t := (u.sl k).team
    let tm := u.tm t
    let at_ := (u.sl k).sVal a.toNat
    match badSpan tm [⟨at_, 64, 64⟩] with
    | some (cause, b) => u.gangTrap ms cause 0 0xF b 0
    | none =>
      let u1 := u.noteFound t 5 (localKey core at_.toNat) (coreKey core at_.toNat) 24
      let ws : List Word := match u1.oldestFor (dieOfCore core) tm.part tm.job (u1.capture core at_ 64) with
        | some m => [BitVec.ofNat 32 m.len, m.tag, loWord m.srcKey, hiWord m.srcKey]
        | none => [0xFFFFFFFF, 0, 0, 0]
      (u1.modSls ms (fun x => x.putQuad d.toNat ws)).advance ms 4))

/-! ## Completion (R423, R431) -/

/-- RECEIVE_COMPLETE (R423). A receive completes, updating barrier, cookie queue and token. -/
def execReceiveComplete (recv : Nat) (s : State) : Host.Outcome State Fault Refusal :=
  match s.recvOf recv with
  | none => .next s
  | some r => if s.engineOn r.part then .next (s.endRecv recv) else .next s

end Sys2Proof.Machine
end

