-- ==== Sys2Proof/Machine/Peer.lean ====
section
/-! DEFINITION. Packets that arrive and their order (spec R370, R371, R406, R407), requests of other packages settled at this
one (R409, R410), answers, refusals, resending and time-outs (R411, R412). -/

namespace Sys2Proof.Machine

open Sys2Proof

/-! ## Requests settled at this package (R410) -/

/-- A request as its target sees it: the bytes it names, and the permissions it needs. -/
structure PeerOp where
  bytes : List Nat                -- offsets from ADDR
  r : Bool
  w : Bool
  a : Bool
  deriving DecidableEq, Repr

/-- Offsets whose bit is set in the byte mask that begins a payload. -/
def maskOffsets (payload : List Byte) : List Nat := (List.range 64).filter (fun i => (payload.getD (i / 8) 0).getLsbD (i % 8))

def peerOp (pkt : Packet) : PeerOp :=
  if pkt.cls = clsPload then ⟨List.range 64, true, false, false⟩
  else if pkt.cls = clsPstore then ⟨maskOffsets pkt.payload, false, true, false⟩
  else if pkt.cls = clsPcopyw then ⟨List.range pkt.payload.length, false, true, false⟩
  else ⟨maskOffsets pkt.payload, true, true, decide (field pkt.payload 80 1 ≠ 4)⟩

/-- The type that the code of an atomic names (log entry 15). -/
def peerTy (n : Nat) : Ty :=
  match n with
  | 1 => .n32
  | 2 => .i64
  | 3 => .f32
  | _ => .i32

/-- The value of bytes at consecutive keys of a place list. -/
def State.valueAt (s : State) (ks : List Nat) : Nat := leNat (ks.map s.byte)

/-- The die of a memory that a physical key names. -/
def keyDie (k : Nat) : Nat :=
  if k < 2 ^ 40 then k / 2 ^ 37
  else if k < 2 ^ 41 then dieOfCore ((k - 2 ^ 40) / 2 ^ 19)
  else if k < 2 ^ 41 + 2 ^ 30 then dieOfCluster ((k - 2 ^ 41) / 2 ^ 25)
  else (k - 2 ^ 41 - 2 ^ 30) / 2 ^ 25

/-- Poison found by an agent that acts for no team: events of that agent with a TAG. -/
def State.foundForJob (s : State) (p : Nat) (agent : BitVec 4) (addr : DWord) (tag : BitVec 20) (keys : List Nat) (peer : BitVec 20) :
    State :=
  keys.foldl (fun u k => u.foundBy k 1 (fun v kind => v.memEventJob p (keyDie k) addr tag agent kind peer)) s

/-- Bytes written at keys that are given with their offsets, neighbours by one access (R292, R300). -/
def State.putKeys (s : State) (at_ : List (Nat × Nat)) (byte : Nat → Byte) : State :=
  s.putPlaces (at_.map (fun e => (0, .key e.2))) (at_.map (fun e => byte e.1))

/-- Bytes of the elements that OP's SIZE names (R159). -/
def opBytes (op : BitVec 8) : Nat :=
  match bits op 0 4 with
  | 0 | 1 => 1
  | 2 | 3 => 2
  | 5 => 8
  | 6 => 16
  | _ => 4

/-- One element of an atomic, at the keys of its bytes. -/
def State.peerElement (s : State) (pkt : Packet) (at_ : List (Nat × Nat)) : State :=
  let n := at_.length
  let old := s.valueAt (at_.map Prod.snd)
  let v := leNat (at_.map (fun e => pkt.payload.getD (8 + e.1) 0))
  let code := field pkt.payload 80 1
  let new := if code = 4 then reduceElem (pkt.op.extractLsb' 4 2) old v
    else atomNew (bits pkt.op 4 4) (peerTy code) old v (field pkt.payload 72 8 % 256 ^ n)
  let first := (at_.headD (0, 0)).1
  s.putKeys at_ (fun i => (natLe n new).getD (i - first) 0)

/-- The access of a request whose checks have passed, at the keys of its bytes: the state, and the bytes it answers. -/
def State.peerPerform (s : State) (p : Nat) (pkt : Packet) (addr : DWord) (tag : BitVec 20) (at_ : List (Nat × Nat)) : State × List Byte :=
  let keys := at_.map Prod.snd
  if pkt.cls = clsPload then
    let s1 := s.foundForJob p 7 addr tag keys pkt.srcPeer
    (s1, keys.map s1.byte)
  else if pkt.cls = clsPstore then
    (s.putKeys at_ (fun i => pkt.payload.getD (8 + i) 0), [])
  else if pkt.cls = clsPcopyw then
    (s.putKeys at_ (fun i => pkt.payload.getD i 0), [])
  else
    let s1 := s.foundForJob p 7 addr tag keys pkt.srcPeer
    let size := opBytes pkt.op
    ((at_.map (fun e => e.1 / size)).dedup.foldl (fun u j => u.peerElement pkt (at_.filter (fun e => decide (e.1 / size = j)))) s1,
      (List.range 64).map (fun i => match at_.find? (fun e => decide (e.1 = i)) with | some e => s1.byte e.2 | none => 0))

/-- The tag of the leaf that a request reaches, 0 where it reaches none (R410). -/
def State.peerTag (s : State) (p : Nat) (j : Job) (woff : BitVec 42) : BitVec 20 :=
  match windowAddr j woff with
  | none => 0
  | some a => s.pageTag ⟨p, j, none⟩ a

/-- A request settled: the state, STAT, TAG and the bytes of the answer, in the order of R410. `late` is judged between the
translation and the tag. A request that names no byte is checked at its ADDR. -/
def State.peerSettle (s : State) (p : Nat) (pkt : Packet) (late : Bool) : State × BitVec 4 × BitVec 20 × List Byte :=
  let j := s.jobOf p
  let o := peerOp pkt
  let far : DWord := 2#2 ++ (s.selfPeer ++ pkt.addr)
  let die := windowPlaceDie j pkt.addr
  match j.prins.find? (fun e => decide (e.1 = pkt.job)) with
  | none => (s.memEventJob p die far 0 7 1 pkt.srcPeer, 4, 0, [])
  | some (_, ptr) =>
    let ps := o.bytes.map (fun i => (i, s.resolveAsPeer p j pkt.job (pkt.addr + BitVec.ofNat 42 i) o.r o.w o.a))
    let bare := if o.bytes = [] then [(0, s.resolveAsPeer p j pkt.job pkt.addr o.r o.w o.a)] else []
    let fault := (ps ++ bare).any (fun e => match e.2 with | .fail .denied _ => false | .fail _ _ => true | _ => false)
    let denied := (ps ++ bare).findSome? (fun e => match e.2 with | .fail .denied tag => some tag | _ => none)
    let tag := s.peerTag p j (pkt.addr + BitVec.ofNat 42 (o.bytes.headD 0))
    let checked := match windowAddr j pkt.addr with
      | some a => s.checkedFor ⟨p, j, some (some ptr)⟩ a ⟨o.r, o.w, o.a⟩ (fun u kind tg => u.memEventJob p die far tg 7 kind pkt.srcPeer)
      | none => s
    if fault then (s.memEventJob p die far tag 7 7 pkt.srcPeer, 2, tag, [])
    else if late then (s, 3, tag, [])
    else match denied with
      | some tg => (checked.memEventJob p die far tg 7 1 pkt.srcPeer, 4, tg, [])
      | none =>
        let at_ := ps.filterMap (fun e => match e.2 with | .key k => some (e.1, k) | _ => none)
        let r := checked.peerPerform p pkt far tag at_
        (r.1, 0, tag, r.2)

/-- A request that is delivered: settled, acknowledged and answered. -/
def State.peerRequest (s : State) (p : Nat) (pkt : Packet) : State :=
  let r := s.peerSettle p pkt (linePassed s.ns pkt.dline)
  (r.1.sendAck pkt).sendAnswer pkt r.2.1 r.2.2.1 r.2.2.2

/-- A packet of group 2 that stands first in its stream is settled, parked, dropped or refused (R370). -/
def State.takeRequest (s : State) (pkt : Packet) : State :=
  match s.fate pkt with
  | .deliver p => (s.take pkt).peerRequest p pkt
  | .drop p => ((s.take pkt).dropGen p pkt).sendAck pkt
  | .park image => match s.parkPacket image pkt with
    | some s1 => ((s1.take pkt).sendAck pkt).sendAnswer pkt 0 0 []
    | none => s.refuse pkt 0 true
  | .nack n => s.refuse pkt n false

/-- Is the class one of requests and writes for a window? -/
def isWindowClass (c : BitVec 4) : Bool := decide (c = clsPload ∨ c = clsPatom ∨ c = clsPstore ∨ c = clsPcopyw)

/-- PEER_REQUEST (R410). A target settles a peer request and answers with STAT. -/
def execPeerRequest (pkt : Packet) (s : State) : Host.Outcome State Fault Refusal :=
  if s.isFirst pkt ∧ isWindowClass pkt.cls then .next (s.takeRequest pkt) else .next s

/-! ## Answers at the source (R410) -/

/-- A landing write that a peer has answered (R422). -/
def State.landingAnswered (s : State) (id at_ : Nat) (e : Option FarErr) (tag : BitVec 20) : State :=
  match s.recvOf id with
  | none => s
  | some r =>
    let r1 := { r with writes := r.writes - 1 }
    match e with
    | none => s.putRecv r1
    | some x =>
      let denied := decide (x = FarErr.denied ∨ x = FarErr.partition)
      (s.putRecv (r1.fail (if denied then 9 else 6))).recvEvent r.team (r.byteAddr at_) tag (if denied then 1 else 10)

/-- An answer, or what stands for one, applied to the request it is for. -/
def State.applyAnswer (s : State) (r : PeerReq) (pkt : Packet) : State :=
  match r.kind.toNat with
  | 0 =>
    let s1 := s.dropRequest r
    match s1.farOf r.src with
    | none => s1
    | some f => s1.putFar { f with answer := some pkt }
  | 1 =>
    let s1 := s.dropRequest r
    match s1.copyOf r.src with
    | none => s1
    | some c => if (c.asked.map CopyAsk.txid) = some r.txid then s1.putCopy { c with ans := some pkt } else s1
  | 2 => s.pullAnswered r pkt
  | _ => (s.dropRequest r).landingAnswered r.src r.off (statErr pkt.stat) pkt.tag

/-- ANSWER_ARRIVAL (R410). The source applies a peer answer to its request. An answer that no request waits for is
discarded. -/
def execAnswerArrival (pkt : Packet) (s : State) : Host.Outcome State Fault Refusal :=
  if !s.isFirst pkt ∨ pkt.cls ≠ clsAns then .next s
  else match s.requestFor pkt with
    | none => .next ((s.take pkt).sendAck pkt)
    | some r => if r.kind = 2 then .next s else .next (((s.take pkt).sendAck pkt).applyAnswer r pkt)

/-! ## Refusals at the source (R370, R407, R418) -/

/-- When a packet refused with STAT 0 goes out again: 10 us, or 1 ms for a one-way packet that found its park area full (R371). A
refusal says so by OP 1 (DESIGN CHOICE, log entry 15): a message for which a receive area has no room is refused with STAT 0 too. -/
def retryNs (nack : Packet) : Nat := if nack.op = 1 then 1000000 else 10000

/-- A packet is refused for good: its message is abandoned, or its request fails, and the stream goes on without it. -/
def State.refusedForGood (s : State) (i : StreamId) (q : Packet) (stat : BitVec 4) : State :=
  let s1 :=
    if i.group = 1 then
      let mates := match s.sends.find? (fun x => decide (x.die = i.srcDie.toNat ∧ x.dstPeer = i.dstPeer ∧ x.dstDie = i.dstDie) &&
          x.packets.contains q.seq.toNat) with
        | some x => x.packets
        | none => [q.seq.toNat]
      (s.sendRefused q).abandon i (fun y => mates.contains y.seq.toNat)
    else
      let t := match s.peerReqs.find? (fun r => decide (r.stream = i ∧ r.seq = q.seq)) with
        | some r => s.applyAnswer r { replyTo q clsAns with stat := stat }
        | none => s
      t.abandon i (fun y => decide (y.seq = q.seq))
  let t := s1.txOf i
  (s1.putTx { t with nacked := none }).resend i (some q.seq)

/-- A NACK reaches the sender of the stream it names. -/
def State.nackCome (s : State) (nack : Packet) : State :=
  let i := namedStream nack
  let n := namedSeq nack
  let t := s.txOf i
  match t.unacked.find? (fun q => decide (q.seq = n)) with
  | none => s
  | some q =>
    if nack.stat = 0 then
      match t.nacked with
      | some (m, _) => if seqLe m n ∧ m ≠ n then s else s.putTx { t with nacked := some (n, s.ns + retryNs nack) }
      | none => s.putTx { t with nacked := some (n, s.ns + retryNs nack) }
    else s.refusedForGood i q nack.stat

/-- NACK_RETRY (R407). A sender resends a NACKed stream from the NACKed packet. -/
def execNackRetry (nack : Packet) (s : State) : Host.Outcome State Fault Refusal :=
  let i := namedStream nack
  let t := s.txOf i
  match t.nacked with
  | none => .next s
  | some (n, due) =>
    if n ≠ namedSeq nack ∨ s.ns < due then .next s else .next ((s.putTx { t with nacked := none }).resend i (some n))

/-- PARK_RETRY (R371). A packet refused for a full park area is retried after 1 ms or resume. -/
def execParkRetry (stream : StreamId) (s : State) : Host.Outcome State Fault Refusal :=
  let t := s.txOf stream
  match t.nacked with
  | none => .next s
  | some (n, due) =>
    if s.ns < due then .next s else .next ((s.putTx { t with nacked := none }).resend stream (some n))

/-! ## Arrival (R370, R403, R405, R406) -/

/-- The packet that comes next in its stream is delivered, parked, dropped or refused. Behind packets of its stream that
their engine has not yet taken it waits its turn. -/
def State.accept (s : State) (pkt : Packet) : State :=
  let i := pktStream pkt
  let t := s.rxOf i
  let s1 := s.putRx { t with expect := pkt.seq + 1, nackFrom := none, held := t.held.filter (fun q => decide (q.seq ≠ pkt.seq)) }
  if pkt.cls = clsMgmt then s1.sendAck pkt
  else if pkt.cls = clsNack then (s1.sendAck pkt).nackCome pkt
  else
    let s2 := { s1 with inbox := s1.inbox ++ [pkt] }
    if s.inboxOf i ≠ [] then s2
    else match s2.fate pkt with
      | .deliver _ => s2
      | .drop p => ((s2.take pkt).dropGen p pkt).sendAck pkt
      | _ => if isWindowClass pkt.cls then s2.takeRequest pkt
        else if pkt.cls = clsPull then (match s2.fate pkt with | .nack n => s2.refuse pkt n false | _ => s2)
        else s2.takeMessage pkt

/-- Held packets that have come to be next. -/
def State.acceptHeld (s : State) (i : StreamId) : Nat → State
  | 0 => s
  | fuel + 1 =>
    let t := s.rxOf i
    match t.held.find? (fun q => decide (q.seq = t.expect)) with
    | none => s
    | some q => if t.nackFrom.isSome then s else (s.accept q).acceptHeld i fuel

/-- The last SEQ of a stream that is settled here. -/
def State.lastSettled (s : State) (i : StreamId) : Word :=
  match (s.inboxOf i).head? with
  | some q => q.seq - 1
  | none => (s.rxOf i).expect - 1

/-- A detoured packet of another package goes on to its destination (R403). -/
def State.forward (s : State) (pkt : Packet) : State :=
  let n := bits pkt.dstPeer 0 4
  if pkt.det ∧ !pkt.so ∧ bits pkt.dstPeer 4 16 = bits s.selfPeer 4 16 ∧ s.linkUp n then
    ({ s with outbox := pkt :: s.outbox }).transmit n pkt
  else { s with dropped := s.dropped + 1 }

/-- A packet arrives at this package. -/
def State.arrive (s : State) (pkt : Packet) : State :=
  if pkt.dstPeer ≠ s.selfPeer then s.forward pkt
  else if 10 ≤ pkt.cls.toNat then { s with dropped := s.dropped + 1 }
  else if isAck pkt then s.acknowledged (namedStream pkt) (namedSeq pkt)
  else
    let i := pktStream pkt
    let t := s.rxOf i
    if pkt.seq = t.expect then (s.accept pkt).acceptHeld i (t.held.length + 1)
    else if seqLe pkt.seq t.expect then
      if seqLe pkt.seq (s.lastSettled i) then s.sendAck { pkt with seq := s.lastSettled i } else s
    else if t.nackFrom.isSome then s.sendNack pkt 0 false
    else if t.held.any (fun q => decide (q.seq = pkt.seq)) then s
    else s.putRx { t with held := t.held ++ [pkt] }

/-- PACKET_ARRIVAL (R370, R411). A packet arrives, over scale-out in a datagram, and is delivered, parked, dropped or NACKed by job
and generation. -/
def execPacketArrival (come : Arrival) (s : State) : Host.Outcome State Fault Refusal :=
  if s.rot.recovery then .next s
  else .next (if come.datagram.all (s.datagramOk come.pkt) then s.arrive come.pkt else { s with dropped := s.dropped + 1 })

/-! ## Resending and time-outs (R406, R411, R412) -/

/-- PATH_CHANGE_RESEND (R406). On a path change the source resends unacknowledged packets in order. -/
def execPathChangeResend (stream : StreamId) (s : State) : Host.Outcome State Fault Refusal :=
  let t := s.txOf stream
  if t.unacked = [] ∨ t.nacked.isSome ∨ s.route stream.dstPeer = .none then .next s else .next (s.resend stream none)

/-- SCALEOUT_RESEND (R411). Unacknowledged scale-out packets are resent after 20 us. -/
def execScaleoutResend (stream : StreamId) (s : State) : Host.Outcome State Fault Refusal :=
  let t := s.txOf stream
  match s.route stream.dstPeer with
  | .scaleOut => if t.nacked.isSome then .next s else .next (s.resendSome stream (s.resendDue stream))
  | _ => .next s

/-- Requests whose stream has no path now are marked (R412). -/
def State.noteLost (s : State) : State :=
  { s with peerReqs := s.peerReqs.map (fun (r : PeerReq) =>
      if s.route r.stream.dstPeer = .none then { r with lost := true } else r) }

/-- ETHERNET_PORT_LINK_CHANGE (R411). An Ethernet port goes up or down, changing the scale-out port used by each stream. -/
def execEthernetPortLinkChange (port : Nat) (up : Bool) (s : State) : Host.Outcome State Fault Refusal :=
  if 8 ≤ port then .next s else .next ({ s with ethUp := setBit s.ethUp port up }).noteLost

/-- FAR_TIMEOUT (R170, R284, R412). A request without an answer at its deadline plus 2 us is declared TIMEOUT; so is a request of
this package without a response in time, named by its number from 65,536 on. -/
def execFarTimeout (req : Nat) (s : State) : Host.Outcome State Fault Refusal :=
  if 65536 ≤ req then .next (s.farExpire (req - 65536))
  else match s.peerReqs.find? (fun r => decide (r.txid.toNat = req)) with
  | none => .next s
  | some r =>
    if r.lost ∨ !linePassed (s.ns - 2000) r.dline ∨ s.route r.stream.dstPeer = .none then .next s
    else
      let t := s.txOf r.stream
      let s1 := s.applyAnswer r { replyTo (pktOfBytes []) clsAns with srcPeer := r.stream.dstPeer, stat := 3 }
      .next (if t.nacked.isSome then s1.abandon r.stream (fun q => decide (q.seq = r.seq)) else s1)

end Sys2Proof.Machine
end

