-- ==== Sys2Proof/Machine/Links.lean ====
section
/-! DEFINITION. Scale-up links: flits received and retried, widths, retraining, reports and detours (spec R400 to R403). -/

namespace Sys2Proof.Machine

open Sys2Proof

/-! ## Control flits (R400, R401; contents: log entry 15) -/

/-- A control flit sent by this end; like every flit it takes a sequence number and waits for room in the retry buffer. -/
def State.sendControl (s : State) (n : Nat) (bs : List Byte) : State := s.sendFlits n 0 false [bs ++ List.replicate (120 - bs.length) 0]

/-- The last good flit is named to the other end, in FACK. -/
def State.askRetry (s : State) (n : Nat) : State := s.sendControl n [1]

/-- Usable links of this package, bit n for local peer n. -/
def State.usableLinks (s : State) : BitVec 16 :=
  (List.range 16).foldl (fun (m : BitVec 16) n => setBit m n (s.linkUp n)) 0

/-! ## Retries and retraining (R401, R402) -/

/-- A link begins to retrain one step narrower. -/
def State.retrain (s : State) (n : Nat) : State :=
  (s.modPo n (fun p => { p with state := 3, full := false, recent := [] })).noteLost

/-- The other end asks for every flit after the one that it names in FACK: they go out again, one retry is counted, and more than 32
in 100 us retrain the link. -/
def State.retried (s : State) (n : Nat) : State :=
  let now := s.ns
  let s1 := s.modPo n (fun p => { p.replay with
    retry := satInc p.retry, lastRetry := now
    recent := (p.recent.filter (fun t => decide (now < t + 100000))) ++ [now] })
  if 32 < (s1.po n).recent.length then s1.retrain n else s1

/-- Is flit a covered by FACK f, counting modulo 4,096 from the oldest in the buffer? -/
def covered (oldest f a : BitVec 12) : Bool := decide ((a - oldest).toNat ≤ (f - oldest).toNat ∧ (f - oldest).toNat < 2048)

/-- FACK frees the flits it covers, and flits that waited for room go out. -/
def Port.freed (p : Port) (f : BitVec 12) : Port :=
  match p.buffer with
  | [] => p.drain
  | b :: _ => ({ p with buffer := p.buffer.filter (fun x => !covered (b.fseq.setWidth 12) f (x.fseq.setWidth 12)) } : Port).drain

/-! ## Packet bytes (R400) -/

/-- Whole packets at the head of the bytes received, and the bytes that remain. Where a packet would begin, a byte whose two lowest
bits are not zero is filler, which lasts to the end of the flit (DESIGN CHOICE, log entry 15). Fuel bounds the packets. -/
def splitPackets : Nat → List Byte → List Packet × List Byte
  | 0, bs => ([], bs)
  | fuel + 1, bs =>
    if bits (bs.headD 3) 0 2 ≠ 0 then ([], [])
    else if bs.length < 32 then ([], bs)
    else
      let n := 32 + headerLen bs
      if bs.length < n then ([], bs)
      else
        let r := splitPackets fuel (bs.drop n)
        (pktOfBytes (bs.take n) :: r.1, r.2)

/-- The payload of a data flit received in order. -/
def State.flitBytes (s : State) (n : Nat) (bs : List Byte) : State :=
  let all := (s.po n).rxBytes ++ bs
  let r := splitPackets (all.length / 32 + 1) all
  r.1.foldl State.arrive (s.modPo n (fun p => { p with rxBytes := r.2 }))

/-- The contents of a control flit act. -/
def State.controlCome (s : State) (port : Nat) (bs : List Byte) : State :=
  match bs.headD 0 with
  | 1 => s.retried port
  | 2 => (s.modPo port (fun p => { p with report := BitVec.ofNat 16 (field bs 1 2) })).noteLost
  | _ => s

/-- FLIT_RECEIVE (R401). A flit is received, checked by CRC and sequence, or discarded with a retry request. A PTP message in a flit of
type 2 takes its place in its stream (R405); what it does to the time unit is PTP_MESSAGE's. -/
def execFlitReceive (port : Nat) (flit : Flit) (s : State) : Host.Outcome State Fault Refusal :=
  if 16 ≤ port ∨ !s.linkUp port then .next s
  else if flitCrc flit ≠ flit.crc then .next ((s.modPo port (fun p => { p with crcerr := satInc p.crcerr })).askRetry port)
  else
    let s1 := s.modPo port (fun p => p.freed (flit.fack.setWidth 12))
    if flit.fseq.setWidth 12 ≠ (s.po port).recvSeq + 1 then .next (s1.askRetry port)
    else
      let s2 := s1.modPo port (fun p => { p with recvSeq := p.recvSeq + 1 })
      let kind := bits flit.ftype 0 4
      .next (if kind = 0 then s2.controlCome port flit.payload
        else if kind = 1 then s2.flitBytes port flit.payload
        else if kind = 2 then (splitPackets 4 flit.payload).1.foldl State.arrive s2
        else s2)

/-- LANE_LOCK_LOSS (R402). A lane loses lock or retries exceed 32 in 100 us and the link retrains. -/
def execLaneLockLoss (port : Nat) (s : State) : Host.Outcome State Fault Refusal :=
  if (s.po port).state = 2 then .next (s.retrain port) else .next s

/-- After a change of width the peer delay of a link has to be measured again (R413). -/
def State.measureAgain (s : State) (n : Nat) (w : BitVec 2) : State :=
  if (s.po n).width = w then s else s.modPtp n (fun p => { p with pending := true })

/-- May a training or a retrain end at a width: any for a training or from width 8, a narrower one else? -/
def Port.mayEndAt (p : Port) (w : BitVec 2) : Bool :=
  decide (p.state = 1) || decide (p.state = 3) && (p.full || decide (p.width.toNat < w.toNat))

/-- LINK_RETRAIN_DONE (R402). A retrain ends at a narrower width or takes the link down. -/
def execLinkRetrainDone (port : Nat) (width : Option (BitVec 2)) (s : State) : Host.Outcome State Fault Refusal :=
  let p := s.po port
  if p.state ≠ 1 ∧ p.state ≠ 3 then .next s
  else match width with
    | none => .next (s.modPo port (fun q => { q with state := 4, full := false, downSince := s.ns })).noteLost
    | some w =>
      if p.mayEndAt w then
        .next ((s.measureAgain port w).modPo port (fun q => { q.replay with state := 2, width := w, full := false, recent := [], lastRetry := s.ns }))
      else .next s

/-- LINK_WIDEN_ATTEMPT (R402). After its wait the link tries one step wider. -/
def execLinkWidenAttempt (port : Nat) (ok : Bool) (s : State) : Host.Outcome State Fault Refusal :=
  let p := s.po port
  if p.state ≠ 2 ∨ p.width = 0 ∨ s.ns < p.lastRetry + p.widenWait then .next s
  else .next ((if ok then s.measureAgain port (p.width - 1) else s).modPo port (fun q =>
    if ok then { q with width := q.width - 1, widenWait := 1000000000, lastRetry := s.ns }
    else { q with widenWait := min (2 * q.widenWait) 64000000000, lastRetry := s.ns }))

/-- LINK_DOWN_RETRY (R402). A down link retrains from width 8 every second. -/
def execLinkDownRetry (port : Nat) (s : State) : Host.Outcome State Fault Refusal :=
  let p := s.po port
  if p.state ≠ 4 ∨ s.ns < p.downSince + 1000000000 then .next s
  else .next ((s.measureAgain port 0).modPo port (fun q => { q with state := 3, full := true, width := 0 }))

/-- LINK_REPORT (R403). Link states are reported to every peer every 10 us: what the peer of a port reports is taken, and
this package's report goes out on the port. -/
def execLinkReport (port : Nat) (usable : BitVec 16) (s : State) : Host.Outcome State Fault Refusal :=
  if (s.po port).state ≠ 2 then .next s
  else .next (((s.modPo port (fun p => { p with report := usable })).sendControl port (2 :: natLe 2 s.usableLinks.toNat)).noteLost)

/-- LINKST of a port as it reads (R403). -/
def State.linkst (s : State) (n : Nat) : DWord :=
  let p := s.po n
  let k := if s.linkUp n ∨ !(s.popBit n && s.enBit n) then none else s.detour n
  p.retry ++ (p.crcerr ++ (0#19 ++ (BitVec.ofBool k.isSome ++ (BitVec.ofNat 4 (k.getD 0) ++ (0#2 ++ (p.width ++ (0#1 ++ p.state)))))))

/-- LINKST_WRITE (R403). A write to LINKST clears RETRY and CRCERR. -/
def execLinkstWrite (port : Nat) (s : State) : Host.Outcome State Fault Refusal :=
  .next (s.modPo port (fun p => { p with retry := 0, crcerr := 0 }))

/-- STATE of a port after a write of PODCFG (R398, R403): no link, disabled, or a training that begins. -/
def State.portState (s : State) (n : Nat) : BitVec 3 :=
  if n = bits s.podcfg 0 4 ∨ !s.popBit n then 0
  else if !s.enBit n then 5
  else if (s.po n).state = 0 ∨ (s.po n).state = 5 then 1
  else (s.po n).state

end Sys2Proof.Machine
end

