-- ==== Sys2Proof/Machine/Ptp.lean ====
section
/-! DEFINITION. The time unit's messages (spec R348, R349, R351, R413): data sets, the parent's port, delays and offsets, and what is
sent. What IEEE 1588-2019 lays down beside the spec is PRESUMED (log entry 16). -/

namespace Sys2Proof.Machine

open Sys2Proof

/-! ## Global time (R348, R351) -/

/-- The nominal increment: 1.25 ns in units of 2^-16 ns. -/
def nominalIncrement : Nat := 81920

/-- The increment under a correction, held within 200 ppm of nominal (R351). -/
def boundedIncrement (d : Int) : Nat := (nominalIncrement + max (-16) (min 16 d) : Int).toNat

/-- Does some partition of the package have a current job? -/
def State.anyJob (s : State) : Bool := (List.range 16).any (fun p => (s.pt p).job.isSome)

/-- A signed number of nanoseconds, saturating at 32 bits. -/
def satOffset (x : Int) : Word := wrap (max (-(2 ^ 31)) (min (2 ^ 31 - 1) x)) 32

/-- TIMESTAT after a measurement: OFFSET, PORT, STEPPED as it was, STATE. -/
def timestatWord (old : DWord) (offset : Int) (port : BitVec 8) (state : BitVec 2) : DWord :=
  satOffset offset ++ (0#8 ++ (port ++ (0#13 ++ (BitVec.ofBool (old.getLsbD 2) ++ state))))

/-! ## The best master clock (R349) -/

/-- Are PTP messages timestamped at a port (R413): a link that is up, an Ethernet port that is enabled and up? -/
def State.ptpPort (s : State) (port : BitVec 8) : Bool :=
  if port.toNat < 16 then s.linkUp port.toNat else decide (port.toNat < 24) && s.ethOk.contains (port.toNat - 16)

/-- The members of a data set in the order in which the comparison takes them. -/
def setMembers (x : PtpSet) : List Nat :=
  [x.priority1.toNat, x.grade.toNat, x.accuracy.toNat, x.variance.toNat, x.priority2.toNat, x.identity.toNat, x.steps.toNat, x.sender.toNat]

/-- Is a list of numbers before another, the first that differ deciding? -/
def numbersBefore : List Nat → List Nat → Bool
  | a :: x, b :: y => if a = b then numbersBefore x y else decide (a < b)
  | _, _ => false

/-- Is a data set better than another? -/
def setBetter (x y : PtpSet) : Bool := numbersBefore (setMembers x) (setMembers y)

/-- The identity of this package's clock. -/
def State.clockId (s : State) : DWord := s.selfPeer.setWidth 64

/-- The data set of this package's own clock, which has no reference beside its crystal. -/
def State.ownSet (s : State) : PtpSet := ⟨128, 248, 0xFE, 0xFFFF, 128, s.clockId, 0, s.clockId⟩

/-- An announcement holds for three intervals of 2 s. -/
def announceNs : Nat := 6000000000

/-- The data set that counts at a port: it carries PTP messages, its peer delay is measured, and its announcement holds still; none
while the time unit is free-running (R394, R413). -/
def State.heardAt (s : State) (n : Nat) : Option PtpSet :=
  if s.rot.freeRun || (s.ptp n).pending || !s.ptpPort (BitVec.ofNat 8 n) then none
  else (s.ptp n).heard.bind (fun e => if s.ns < e.2 + announceNs then some e.1 else none)

/-- The best of the data sets announced, with its port; the lowest port where two are alike. -/
def State.bestHeard (s : State) : Option (Nat × PtpSet) :=
  (List.range 24).foldl (fun best n => match s.heardAt n, best with
    | some x, some (m, y) => if setBetter x y then some (n, x) else some (m, y)
    | some x, none => some (n, x)
    | none, b => b) none

/-- The port toward the parent clock: none where this package's own clock is the best. -/
def State.parentPort (s : State) : Option Nat :=
  s.bestHeard.bind (fun e => if setBetter e.2 s.ownSet then some e.1 else none)

/-- TIMESTAT.PORT reads none where there is no parent (R351). -/
def State.parentShown (s : State) : State :=
  if s.parentPort = none then { s with timestat := setBits s.timestat 16 8 0xFF } else s

/-! ## What is sent -/

def ptpSync : BitVec 4 := 0
def ptpDelayReq : BitVec 4 := 1
def ptpPdelayReq : BitVec 4 := 2
def ptpPdelayResp : BitVec 4 := 3
def ptpFollowUp : BitVec 4 := 8
def ptpDelayResp : BitVec 4 := 9
def ptpPdelayFollowUp : BitVec 4 := 10
def ptpAnnounce : BitVec 4 := 11

/-- Is a message of the peer-to-peer mechanism? -/
def ofPeerDelay (type : BitVec 4) : Bool := decide (type = ptpPdelayReq ∨ type = ptpPdelayResp ∨ type = ptpPdelayFollowUp)

/-- Are messages of a type sent at a port: those of the delay mechanism that it uses, Announce and Sync where it is not the port toward
the parent, Delay_Req where it is? -/
def State.ptpSends (s : State) (port : Nat) (type : BitVec 4) : Bool :=
  if ofPeerDelay type then !(s.ptp port).e2e
  else if type = ptpDelayReq then (s.ptp port).e2e && decide (s.parentPort = some port)
  else if type = ptpDelayResp then (s.ptp port).e2e
  else decide (s.parentPort ≠ some port)

/-- A timestamp in ns: 48 bits of seconds and 32 of ns. -/
def ptpTime (ns : Nat) : List Byte := natBe 6 (ns / 1000000000) ++ natBe 4 (ns % 1000000000)

/-- The identity of a port of this package. -/
def State.portId (s : State) (port : Nat) : List Byte := natBe 8 s.clockId.toNat ++ natBe 2 (port + 1)

/-- A PTP message: the header, a timestamp, and the rest of its body. -/
def State.ptpBytes (s : State) (port : Nat) (type : BitVec 4) (twoStep : Bool) (number : BitVec 16) (time rest : List Byte) : List Byte :=
  [0#4 ++ type, 0x12] ++ natBe 2 (44 + rest.length) ++ [s.ptpDomain.setWidth 8, 0, if twoStep then 2 else 0, 0] ++ List.replicate 12 0 ++
    s.portId port ++ natBe 2 number.toNat ++ [0, 0] ++ time ++ rest

/-- The Ethernet frame of a message of Annex F, up to its check sequence. -/
def State.frameF (s : State) (type : BitVec 4) (bs : List Byte) : List Byte :=
  (if ofPeerDelay type then [0x01, 0x80, 0xC2, 0, 0, 0x0E] else [0x01, 0x1B, 0x19, 0, 0, 0]) ++ [2, 0, 0] ++ natBe 3 s.selfPeer.toNat ++
    [0x88, 0xF7] ++ bs

/-- The Ethernet frame of a message of Annex E, which ends its data with two more bytes. -/
def State.frameE (s : State) (type : BitVec 4) (bs : List Byte) : List Byte :=
  let peer := ofPeerDelay type
  let src := s.peerAddress s.selfPeer
  let dst : BitVec 128 := if peer then 0xFF02000000000000000000000000006B else 0xFF0E0000000000000000000000000181
  let udp : BitVec 16 := if type.toNat < 4 then 319 else 320
  let data := bs ++ [0, 0]
  [0x33, 0x33, 0, 0] ++ (if peer then [0, 0x6B] else [1, 0x81]) ++ [2, 0, 0] ++ natBe 3 s.selfPeer.toNat ++ [0x86, 0xDD] ++
    [0x60, 0, 0, 0] ++ natBe 2 (8 + data.length) ++ [17, if peer then 1 else 64] ++ natBe 16 src.toNat ++ natBe 16 dst.toNat ++
    natBe 2 udp.toNat ++ natBe 2 udp.toNat ++ natBe 2 (8 + data.length) ++ natBe 2 (udpChecksum src dst udp udp data).toNat ++ data

/-- A PTP message leaves at a port: as a class-0 packet of its stream on a link, as a frame at an Ethernet port. -/
def State.ptpPut (s : State) (port : Nat) (type : BitVec 4) (bs : List Byte) : State :=
  if port < 16 then (s.sendPacket (s.mgmtPacket (s.selfPeer.extractLsb' 4 16 ++ BitVec.ofNat 4 port) bs)).1
  else { s with ptpFrames := (port, if (s.ptp port).udp then s.frameE type bs else s.frameF type bs) :: s.ptpFrames }

/-- A message and, in two steps, its follow-up: in one step it carries its own timestamp; in two steps a Sync carries none, a Pdelay_Resp
that of the request, and the follow-up carries the message's. -/
def State.ptpStep (s : State) (port : Nat) (type : BitVec 4) (number : BitVec 16) (rest : List Byte) : State :=
  let now := ptpTime s.ns
  let none_ : List Byte := List.replicate 10 0
  if (s.ptp port).twoStep then
    let s1 := s.ptpPut port type (s.ptpBytes port type true number (if type = ptpSync then none_ else now) rest)
    let next := if type = ptpSync then ptpFollowUp else ptpPdelayFollowUp
    s1.ptpPut port next (s1.ptpBytes port next false number now rest)
  else s.ptpPut port type (s.ptpBytes port type false number (if type = ptpSync then now else none_) rest)

/-- What an Announce message of this package holds behind its timestamp: the data set of its grandmaster. -/
def State.announceBody (s : State) : List Byte :=
  let x := match s.parentPort, s.bestHeard with
    | some _, some (_, y) => { y with steps := y.steps + 1 }
    | _, _ => s.ownSet
  [0, 0, 0, x.priority1, x.grade, x.accuracy] ++ natBe 2 x.variance.toNat ++ [x.priority2] ++ natBe 8 x.identity.toNat ++
    natBe 2 x.steps.toNat ++ [0xA0]

/-- The turn of a port to send a message of a type. -/
def State.ptpSend (s : State) (port : Nat) (type : BitVec 4) : State :=
  let n := (s.ptp port).sequence
  if !s.ptpSends port type then s
  else
    let s1 := s.modPtp port (fun p => { p with sequence := n + 1 })
    let ask (u : State) : State := u.modPtp port (fun p => { p with asked := some (n, s.ns) })
    if type = ptpSync then s1.ptpStep port type n []
    else if type = ptpAnnounce then s1.ptpPut port type (s1.ptpBytes port type false n (List.replicate 10 0) s1.announceBody)
    else if type = ptpPdelayReq then ask (s1.ptpPut port type (s1.ptpBytes port type false n (ptpTime s.ns) (List.replicate 10 0)))
    else if type = ptpDelayReq then ask (s1.ptpPut port type (s1.ptpBytes port type false n (ptpTime s.ns) []))
    else s

/-! ## What is received -/

/-- An offset above 1 ms is slewed while a job is current, and STATE reads acquiring (R351); within 20 ns the clock is locked (R350,
PRESUMED, log entry 16). -/
def State.discipline (s : State) (port : BitVec 8) (offset : Int) : State :=
  { s with
    timestat := timestatWord s.timestat offset port (if offset.natAbs ≤ 20 then 2 else 1)
    increment := boundedIncrement (Config.discipline s.freeNo offset) }

/-- Both times of a Sync are known: sent by the parent at `origin`, received at `ingress`. An offset comes of it at the parent's port,
once the delay there is known. -/
def State.syncKnown (s : State) (port : BitVec 8) (origin ingress : Nat) (correction : Int) : State :=
  let d : Int := ingress - origin - correction
  let s1 := s.modPtp port.toNat (fun p => { p with sync := none, behind := d })
  match (s.ptp port.toNat).delay with
  | some y => if s.parentPort = some port.toNat then s1.discipline port (d - y) else s1
  | none => s1

/-- A delay is measured: it is half of a time to and fro. -/
def State.delayKnown (s : State) (port : Nat) (twice : Int) : State :=
  s.modPtp port (fun p => { p with delay := some (twice / 2), pending := false, asked := none, answer := none })

/-- The time at which the delay request of a number left. -/
def State.askedAt (s : State) (port : Nat) (number : BitVec 16) : Option Nat :=
  (s.ptp port).asked.bind (fun e => if e.1 = number then some e.2 else none)

/-- A message received at a port that carries PTP messages, timestamped as it comes. -/
def State.ptpCome (s : State) (port : BitVec 8) (kind : PtpKind) : State :=
  let n := port.toNat
  let x := s.ptp n
  match kind with
  | .announce set => s.modPtp n (fun p => { p with heard := some (set, s.ns) })
  | .sync number true _ c => s.modPtp n (fun p => { p with sync := some (number, s.ns, c) })
  | .sync _ false origin c => s.syncKnown port origin s.ns c
  | .followUp number origin c => match x.sync with
    | some (m, t, c1) => if m = number then s.syncKnown port origin t (c1 + c) else s
    | none => s
  | .pdelayReq number asker => if x.e2e then s else s.ptpStep n ptpPdelayResp number asker
  | .pdelayResp number two received c => match s.askedAt n number with
    | none => s
    | some t1 =>
      if x.e2e then s
      else if two then s.modPtp n (fun p => { p with answer := some (number, s.ns, received, c) })
      else s.delayKnown n (s.ns - t1 - c)
  | .pdelayFollowUp number sent c => match x.answer, s.askedAt n number with
    | some (m, t4, t2, c1), some t1 => if m = number then s.delayKnown n (t4 - t1 - (sent - t2) - c1 - c) else s
    | _, _ => s
  | .delayReq number asker =>
    if x.e2e then s.ptpPut n ptpDelayResp (s.ptpBytes n ptpDelayResp false number (ptpTime s.ns) asker) else s
  | .delayResp number received c => match s.askedAt n number with
    | some t3 => if x.e2e then s.delayKnown n (x.behind + (received - t3 - c)) else s
    | none => s
  | .send type => s.ptpSend n type

/-- PTP_MESSAGE (R349). A PTP message is timestamped and disciplines global time. One of another domain, or at a port that carries
none, has no effect, nor has any while the time unit is free-running (R394). -/
def execPtpMessage (msg : PtpMsg) (s : State) : Host.Outcome State Fault Refusal :=
  if !s.ptpPort msg.port ∨ msg.domain ≠ s.ptpDomain ∨ s.rot.freeRun then .next s
  else .next (s.ptpCome msg.port msg.kind)

end Sys2Proof.Machine
end

