-- ==== Sys2Proof/Machine/Time.lean ====
section
/-! DEFINITION. Global time, its steps and holdover, and the scheduler's lease (spec R348, R350 to R352). -/

namespace Sys2Proof.Machine

open Sys2Proof

/-! ## The timetable's entries in time (R353, R356) -/

def ttPart (e : TtEntry) : Nat := bits e.genp 12 4
def ttGen (e : TtEntry) : BitVec 12 := e.genp.extractLsb' 0 12
def ttResume (e : TtEntry) : Bool := e.mode.getLsbD 0
def ttOpen (e : TtEntry) : Bool := e.mode.getLsbD 1
def ttIdle (e : TtEntry) : Bool := e.mode.getLsbD 2

/-- Entries in the order of START. -/
def byStart (es : List TtEntry) : List TtEntry := sortBy (fun a b => decide (a.start.toNat < b.start.toNat)) es

/-- Entries whose START has come act before any other turn, in the order of START (R351, R356, R361). -/
def State.callStarts (s : State) : State :=
  { s with agenda := s.agenda ++ (byStart (s.timetable.filter (fun e => decide (e.start.toNat ≤ s.ns)))).map (fun e =>
      .start (ttPart e)) }

/-! ## Global time (R350, R351) -/

/-- TIME_STEP (R351). The time unit steps the count with no current job; the entries that it passes over start at once. -/
def execTimeStep (time : BitVec 64) (s : State) : Host.Outcome State Fault Refusal :=
  if s.anyJob then .next s
  else .next { s with time := time.toNat * 65536, timestat := setBit s.timestat 2 true }.callStarts

/-- TIMESTAT_WRITE (R351). A write to TIMESTAT clears STEPPED. -/
def execTimestatWrite (s : State) : Host.Outcome State Fault Refusal :=
  .next { s with timestat := setBit s.timestat 2 false }

/-- HOLDOVER (R350). The time unit loses its parent clock and enters holdover, STATE 3, with no port toward a parent, drifting at
most 50 ns per second. -/
def execHoldover (drift : Int) (s : State) : Host.Outcome State Fault Refusal :=
  if 50 < drift.natAbs ∨ s.rot.freeRun then .next s
  else .next { s with
    timestat := setBits (setBits s.timestat 0 2 3) 16 8 0xFF
    increment := (nominalIncrement + (nominalIncrement * drift).tdiv 1000000000 : Int).toNat }

/-! ## The lease (R352; announcements: log entry 16) -/

def leaseNs : Nat := 100000000

/-- The lease that a member holds valid now. -/
def State.leaseHeld (s : State) : Option (Word × Word) := if s.ns < s.lease.last + leaseNs then s.lease.holder else none

/-- A message of the election goes to every other member of the domain: identifier, epoch and the time of its sending. -/
def State.sendLease (s : State) (epoch : Word) : State :=
  (s.lease.members.filter (fun m => decide (m ≠ s.selfPeer))).foldl (fun u m =>
    (u.sendPacket (u.mgmtPacket m (natLe 4 s.lease.ident.toNat ++ natLe 4 epoch.toNat ++ natLe 8 s.ns))).1) s

/-- LEASE_MESSAGE (R352). A scheduler lease message is received and accepted or ignored. It holds for 100 ms from its sending. A
message of epoch 0 is no lease: it announces a member. -/
def execLeaseMessage (id : BitVec 32) (stamp : LeaseStamp) (s : State) : Host.Outcome State Fault Refusal :=
  let l := s.lease
  let epoch := stamp.epoch
  let from_ := min stamp.sent.toNat s.ns
  let hear : State := { s with lease := { l with
    epoch := if l.epoch.toNat < epoch.toNat then epoch else l.epoch
    heard := if l.announced.isSome then id :: l.heard else l.heard } }
  let keep : State := { s with lease := { l with
    epoch := epoch, holder := some (id, epoch), last := from_, announced := none, heard := [] } }
  if s.rot.recovery then .next s
  else if epoch = 0 ∨ epoch.toNat < l.epoch.toNat ∨ from_ + leaseNs ≤ s.ns then .next hear
  else match s.leaseHeld with
    | some (h, e) => .next (if e = epoch ∧ h.toNat < id.toNat then hear else keep)
    | none => .next keep

/-- LEASE_TIMEOUT (R352). No valid lease for 100 ms and the member announces itself. -/
def execLeaseTimeout (s : State) : Host.Outcome State Fault Refusal :=
  if s.rot.recovery ∨ s.lease.announced.isSome ∨ s.ns < s.lease.last + leaseNs then .next s
  else .next (({ s with lease := { s.lease with holder := none, announced := some s.ns, heard := [] } } : State).sendLease 0)

/-- ELECTION_DECIDE (R352). After 10 ms the lowest identifier takes the lease with a new epoch. -/
def execElectionDecide (s : State) : Host.Outcome State Fault Refusal :=
  let l := s.lease
  match l.announced with
  | none => .next s
  | some t =>
    if s.rot.recovery ∨ s.ns < t + 10000000 then .next s
    else if l.heard.all (fun h => decide (l.ident.toNat ≤ h.toNat)) then
      .next { s with lease := { l with
        epoch := l.epoch + 1, holder := some (l.ident, l.epoch + 1), last := s.ns, announced := none, heard := [] } }
    else .next { s with lease := { l with last := s.ns, announced := none, heard := [] } }

/-- LEASE_SEND (R352). The elected scheduler sends its lease message to every member at least every 25 ms. -/
def execLeaseSend (s : State) : Host.Outcome State Fault Refusal :=
  match s.leaseHeld with
  | some (h, e) =>
    .next (if h = s.lease.ident ∧ !s.rot.recovery then ({ s with lease := { s.lease with last := s.ns } } : State).sendLease e else s)
  | none => .next s

end Sys2Proof.Machine
end

