-- ==== Sys2Proof/Machine/Image.lean ====
section
/-! DEFINITION. The save image (spec R307, R364 to R369, R432): what a save writes, and what a restore reads. -/

namespace Sys2Proof.Machine

open Sys2Proof

/-! ## Bytes -/

def wordsBytes (ws : List Word) : List Byte := ws.flatMap (fun w => natLe 4 w.toNat)
def padBytes (n : Nat) (bs : List Byte) : List Byte := bs.take n ++ List.replicate (n - bs.length) 0
/-- Bytes made a multiple of m long with zeros. -/
def padMul (m : Nat) (bs : List Byte) : List Byte := bs ++ List.replicate ((m - bs.length % m) % m) 0
def frameBytes (f : Frame) : List Byte := wordsBytes ((List.range 256).map f.word)

/-- A word of a frame with its reserved bits zero (R220 to R222, R227). -/
def Frame.tidy (f : Frame) (n : Nat) : Word :=
  let w := f.word n
  if n = 0 then w &&& 0x00FFFFFF
  else if n = 1 then w &&& ~~~3#32
  else if n = 5 then 0
  else if n = 7 then w &&& 0x1FF
  else if n = 11 then w &&& 0xFFFF
  else if n < 16 then (if 12 ≤ n then lfsrFix w else w)
  else if n < 32 then w &&& (if n % 2 = 0 then 0x3FFFFFFF else 0xFC000000)
  else if (f.word 0).extractLsb' 0 8 = causeDeadlock then (if n < 64 ∧ n % 4 ≠ 3 then w else 0)
  else if (n - 32) / 28 < bits (f.word 0) 20 4 then (if (n - 32) % 28 = 3 then w &&& 0x800FFFFF else w)
  else 0

/-- A frame from its 1,024 bytes; the reserved bits of an image written by software read as zero (R6). -/
def frameOf (bs : List Byte) : Frame :=
  let f := frameFrom 0 ((List.range 256).map (fun i => fieldW bs (4 * i)))
  frameFrom 0 ((List.range 256).map f.tidy)

/-- A far address that names the team's own core scratchpad, held as an offset from SPBASE (R431; the form is log entry 17's). -/
def heldFar (core spbase : Nat) (a : DWord) : DWord :=
  if namesCore a core then 0xFFFFFFFF#32 ++ BitVec.ofInt 32 ((bits a 0 19 : Int) - spbase) else a
def unheldFar (core spbase : Nat) (a : DWord) : DWord :=
  if hiWord a = 0xFFFFFFFF then localKey core ((loWord a).toInt + spbase).toNat else a

/-- A local address held as an offset, and back. -/
def heldWord (spbase : Nat) (a : Word) : Word := a - BitVec.ofNat 32 spbase
def unheldWord (spbase : Nat) (a : Word) : Word := a + BitVec.ofNat 32 spbase

/-! ## Slice records (R367) -/

/-- Registers with a live lane. -/
def Slice.liveRegs (x : Slice) : List Nat := (List.range 256).filter (fun i => (List.range 4).any (fun l => (afind x.v (4 * i + l)).isSome))

/-- Far-load records of a slice: address, destination, size, lane, issue order; the slices of a gang's instruction have one place in the
order, by which they are known again (DESIGN CHOICE, log entry 17). -/
def farRecords (fs : List Far) : List (List Byte) :=
  fs.flatMap (fun f => match f.kind with
    | .load z vd => f.ops.map (fun o =>
        natLe 8 o.addr.toNat ++ natLe 4 (vd.toNat + 256 * z.toNat + 2048 * o.lane) ++ natLe 4 f.gangNo)
    | _ => [])

/-- STATUS in a slice record. -/
def Slice.savedStatus (x : Slice) (f : Frame) (progress : Bool) : Word :=
  let b (i : Nat) (c : Bool) : Word := if c then BitVec.ofNat 32 (2 ^ i) else 0
  (x.sticky &&& 0x27) ||| b 3 (x.poison.getLsbD 10) ||| b 4 (decide (bits x.farstat 0 4 ≠ 0)) ||| b 6 x.trapMode |||
    b 7 ((f.word 6).getLsbD 8) ||| b 8 progress

/-- One slice record. -/
def sliceRecord (progress : Bool) (x : Slice) (f : Frame) (fs : List Far) : List Byte :=
  let sw (i : Nat) : Word := match afind x.s i with | some (some w) => w | _ => 0
  let dead := (List.range 64).foldl (fun n i => if afind x.s i = some none then n + 2 ^ i else n) 0
  let slive := (x.slive.getD 0).toNat
  let flag (c : Bool) (i : Nat) : Nat := if c then 2 ^ i else 0
  let isBack := match x.wait with | some (.backoff _ _ _) => true | _ => false
  let sst := slive / 128 % 64 * 1024 + flag (decide (x.wait = some .yieldp)) 9 + flag isBack 8 +
    flag (decide (x.wait = some .stopped)) 7 + flag x.trapMode 6
  let live := x.liveRegs
  let recs := farRecords fs
  let map := (x.v.filter (fun e => decide (e.1 < 1024))).foldl (fun n e => n + 2 ^ e.1) 0
  let head := wordsBytes ((List.range 64).map sw) ++ natLe 8 dead ++ natLe 4 x.idx ++ natLe 4 sst ++ natLe 4 (slive % 128) ++
    wordsBytes [x.fairCount ++ x.fair] ++ wordsBytes [x.fpmode, x.savedStatus f progress, x.farstat, x.poison, x.trapen,
      BitVec.ofNat 32 (x.fl + 64 * x.fs + 4096 * x.cp + 262144 * x.tl)]
  padMul 64 (padBytes 0x200 head ++ frameBytes f ++ frameBytes (x.frame.getD []) ++ natLe 128 map ++ natLe 4 live.length ++
    natLe 4 recs.length ++ List.replicate 0x38 0 ++
    live.flatMap (fun i => (List.range 4).flatMap (fun l => natLe 4 ((afind x.v (4 * i + l)).getD 0).toNat)) ++ recs.flatten)

/-! ## Copy and team records (R366, R367) -/

/-- The captured descriptor of a copy. -/
def CopyKind.desc : CopyKind → List Byte
  | .tensor _ _ _ _ d => d
  | .scale _ _ d => d
  | .gather _ _ d _ _ => d
  | .scatter _ d _ _ => d
  | _ => []

/-- One copy record; local addresses are offsets from SPBASE. -/
def copyRecord (spbase : Nat) (c : Copy) : List Byte :=
  let held := c.locals.foldl (fun ws n => ws.set n (heldWord spbase (ws.getD n 0))) c.opers
  let pause := match c.state with | .paused h k _ => k.toNat % 16 * 65536 + h.toNat | _ => 0
  padBytes 192 (padBytes 0x40 (natLe 4 c.granule.toNat ++ natLe 4 pause ++ natLe 8 (c.cursor * c.kind.elem) ++ wordsBytes held) ++
    padBytes 0x40 c.kind.desc)

/-- Scratchpad bytes that a team's record holds. -/
def SavedTeam.live (r : SavedTeam) : Nat := scratchLive (r.team.splimit - r.team.spbase) r.slices

/-- Its slices that have not exited, with their halt frames and old keys. -/
def SavedTeam.liveSlices (r : SavedTeam) : List (Nat × Slice × Frame) :=
  (r.team.slices.zip (r.slices.zip r.halts)).filter (fun e => !e.2.1.done)

/-- One team record; `gi` is its grid's index, `eff` its effective priority, `before` the halt's time. -/
def teamRecord (gi eff : Nat) (before : DWord) (r : SavedTeam) : List Byte :=
  let tm := r.team
  let xs := r.liveSlices
  let flag (c : Bool) (i : Nat) : Nat := if c then 2 ^ i else 0
  let arrived := (tm.slices.zip (List.range tm.slices.length)).foldl (fun n e => if tm.arrived.contains e.1 then n + 2 ^ e.2 else n) 0
  let state := flag (decide (r.swapped.toNat < before.toNat)) 2 + flag r.drained 1 +
    flag (decide (xs ≠ []) && xs.all (fun e => decide (e.2.1.wait = some .yieldp))) 0
  let head := natLe 4 state ++ natLe 4 gi ++ natLe 8 tm.index ++ natLe 4 xs.length ++ natLe 4 r.copies.length ++ natLe 4 r.live ++
    natLe 4 arrived ++ natLe 4 (tm.prio.toNat + 16 * eff + 256 * tm.launchPrio.toNat) ++ natLe 4 tm.trapvec.toNat ++
    wordsBytes ((List.range 8).map (fun j => (tm.token j).word)) ++
    (List.range 16).flatMap (fun i => natLe 8 (aget 0 tm.md i).toNat) ++ natLe 8 tm.scaleValid.toNat
  padBytes 1024 head ++
    xs.flatMap (fun e => sliceRecord tm.header.progress e.2.1 e.2.2 (r.fars.filter (fun f => decide (f.slice = e.1)))) ++
    r.copies.flatMap (copyRecord tm.spbase) ++ padMul 64 ((List.range r.live).map (fun i => aget 0 r.scratch i)) ++
    (List.range (4096 * tm.tiles.length)).map (fun i => aget 0 r.tiles i) ++
    (List.range (512 * tm.tiles.length)).map (fun i => aget 0 r.scales i)

/-! ## The sections of a job (R364, R365, R368, R432) -/

/-- The job's grids in increasing grid number, and its saved teams in the order of their records. -/
def State.imageGrids (s : State) (p : Nat) : List Grid :=
  sortBy (fun a b => decide (a.number < b.number)) (s.grids.filter (fun g => decide (g.part = p)))
def State.imageTeams (s : State) (p : Nat) : List SavedTeam :=
  (s.imageGrids p).flatMap (fun g => sortBy (fun (a b : SavedTeam) => decide (a.team.index < b.team.index))
    (s.saved.filter (fun r => decide (r.part = p ∧ r.team.grid = g.number))))

/-- The place of a team's record among the team records, by the team's key. -/
def teamPlace (ts : List SavedTeam) (t : Nat) : Nat :=
  match ((List.range ts.length).zip ts).find? (fun e => decide (savedKey e.2.id = t)) with
  | some e => e.1
  | none => 0xFFFFFFFF

/-- Released teams of a grid that have not started. -/
def Grid.waitingTeams (g : Grid) : List Nat :=
  let top := if g.header.ndeps = 0 then g.header.count else min g.header.count (g.base + 2 ^ 20)
  ((List.range (top - g.base)).map (g.base + ·)).filter (fun n => g.unstarted n && g.released n)

/-- One grid record (R365). -/
def gridRecord (ts : List SavedTeam) (g : Grid) : List Byte :=
  let owner := match g.owner with | .token t _ => teamPlace ts t | _ => 0xFFFFFFFF
  let rel := g.waitingTeams
  let n := (ts.filter (fun r => decide (r.team.grid = g.number))).length
  let score := g.retired.foldl (fun m i => m + 2 ^ (i - g.base)) 0
  padBytes 0x100 (g.header.bytes ++ natLe 4 g.number ++ natLe 4 owner ++ natLe 8 g.base ++ natLe 4 rel.length ++ natLe 4 n) ++
    (if g.header.ndeps = 0 then [] else natLe 0x20000 score) ++ rel.flatMap (natLe 8 ·)

/-- One wait entry (R307). The key of a posted wait is held as R431 holds local addresses. -/
def State.entryRecord (s : State) (e : WftEntry) : List Byte :=
  let seat := s.seatOf e.team
  let obj := if e.kind = 3 then heldFar seat.1 (s.anyTeam e.team).spbase e.obj else e.obj
  recBytes (s.entryBits e obj)

/-- The wait entries of a team as the image holds them. -/
def State.entryWords (s : State) (r : SavedTeam) : List (BitVec 256) :=
  (s.wft.filter (fun e => decide (e.team = savedKey r.id))).map (fun e => BitVec.ofNat 256 (leNat (s.entryRecord e)))

/-- RSTATE of a receive record (R432). -/
def rstate (code : BitVec 8) (tok : Nat) (t c b rdv : Bool) (kind : BitVec 2) : Word :=
  0#8 ++ (code ++ (0#5 ++ (BitVec.ofNat 3 tok ++ (0#2 ++ (BitVec.ofBool t ++ (BitVec.ofBool c ++ (BitVec.ofBool b ++
    (BitVec.ofBool rdv ++ kind))))))))

/-- One record of a posted receive or a landing. -/
def State.recvRecord (s : State) (ts : List SavedTeam) (r : Recv) : List Byte :=
  let base := (s.anyTeam r.team).spbase
  let at_ (bs : List Byte) (o : Nat) : List Byte := setField bs o (natLe 4 (heldWord base (fieldW bs o)).toNat)
  let desc := setField r.desc 0 (natLe 8 (heldFar (s.seatOf r.team).1 base (descBase r.desc)).toNat)
  padBytes 192 (padBytes 64 ([0x18, 0x30, 0x34].foldl at_ r.block) ++ padBytes 64 desc ++
    natLe 4 (rstate r.code (r.tok.getD 0) r.tok.isSome r.cq r.bar r.rdv (if r.posted then 0 else 1)).toNat ++
    natLe 4 r.handle.toNat ++ natLe 4 (teamPlace ts r.team) ++ natLe 4 r.die ++ natLe 8 r.landed ++ natLe 4 r.len ++
    natLe 4 r.mtag.toNat ++ natLe 8 r.msrc.toNat ++ natLe 4 r.rdvHandle.toNat)

/-- One send record. `sent` is the count of its bytes that have been accepted. -/
def State.sendRecord (s : State) (ts : List SavedTeam) (x : SendOp) (sent : Nat) : List Byte :=
  let base := (s.anyTeam x.team).spbase
  padBytes 192 (padBytes 128 (natLe 8 (heldFar (s.seatOf x.team).1 base x.addr).toNat ++ natLe 4 x.len ++ natLe 4 x.tag.toNat ++
      natLe 4 (x.dstPeer.toNat + 2 ^ 20 * x.dstDie.toNat)) ++
    natLe 4 (rstate x.code x.token true false false x.rdv 2).toNat ++ natLe 4 x.rdvHandle.toNat ++
    natLe 4 (teamPlace ts x.team) ++ natLe 4 x.die ++ natLe 8 sent ++ natLe 4 x.len)

/-- Bytes of a send that have been accepted: those before its first packet still kept; for a rendezvous send whose request
has been accepted, the 16 bytes of its header (log entry 17). -/
def State.sentBytes (s : State) (x : SendOp) : Nat :=
  let i : StreamId := ⟨s.selfPeer, BitVec.ofNat 3 x.die, x.dstPeer, x.dstDie, 1⟩
  let mine := ((s.txOf i).unacked ++ s.inboxOf i).filter (fun q => x.packets.contains q.seq.toNat)
  match mine with
  | q :: _ => bits q.addr 0 26
  | [] => if x.waits then 0 else if x.rdv then 16 else x.len

/-- One scratchpad share: a header, then the partition's coloured bytes (R368). -/
def State.shareRecord (s : State) (key : Nat → Nat) (index n : Nat) (cs : List Nat) : List Byte :=
  padBytes 64 (natLe 8 index ++ natLe 8 n) ++ (List.range n).map (fun o => s.byte (key (colourByte cs o)))

/-- Clusters of a partition's own range, and their dies. -/
def State.ownClusters (s : State) (p : Nat) : List Nat := (List.range 16).filter (s.pt p).inRange
def State.ownDies (s : State) (p : Nat) : List Nat := ((s.ownClusters p).map dieOfCluster).dedup

/-- The six sections, each with its count of records. -/
def State.imageSections (s : State) (p : Nat) (halt : DWord) : List (Nat × List Byte) :=
  let gs := s.imageGrids p
  let ts := s.imageTeams p
  let place (r : SavedTeam) : Nat := (gs.takeWhile (fun g => decide (g.number ≠ r.team.grid))).length
  let job := s.jobOf p
  let es := s.wft.filter (fun e => decide (e.part = p ∧ e.job = job.job))
  let rs := s.recvs.filter (fun r => decide (r.part = p ∧ r.job = job.job))
  let xs := s.sends.filter (fun x => decide (x.part = p ∧ x.job = job.job))
  let cs := colourList (s.pt p).colours
  [(gs.length, gs.flatMap (gridRecord ts)),
    (ts.length, ts.flatMap (fun r => teamRecord (place r) (s.effPrio (savedKey r.id)) halt r)),
    (es.length, es.flatMap s.entryRecord),
    (rs.length + xs.length, rs.flatMap (s.recvRecord ts) ++ xs.flatMap (fun x => s.sendRecord ts x (s.sentBytes x))),
    ((s.ownClusters p).length, (s.ownClusters p).flatMap (fun c => s.shareRecord (clusterKey c) c (cs.length * 0x180000) cs)),
    ((s.ownDies p).length, (s.ownDies p).flatMap (fun d => s.shareRecord (dieKey d) d (cs.length * 0x200000) cs))]

/-- Where each section begins, and where the last one ends. -/
def sectionPlaces : Nat → List (Nat × List Byte) → List Nat × Nat
  | at_, [] => ([], at_)
  | at_, x :: r =>
    let b := (at_ + 4095) / 4096 * 4096
    let q := sectionPlaces (b + x.2.length) r
    (b :: q.1, q.2)

/-- SVSTATE (R364). -/
def svstate (urg late valid : Bool) : Word := 0#29 ++ (BitVec.ofBool urg ++ (BitVec.ofBool late ++ BitVec.ofBool valid))

/-- The image written; none when the sections would reach PARKOFF. -/
def State.writeImage (s : State) (p image : Nat) (halt : DWord) (urg late : Bool) : Option State :=
  let secs := s.imageSections p halt
  let places := sectionPlaces 4096 secs
  let j := s.jobOf p
  if s.num (image + 0x18) 8 < places.2 then none
  else
    let s1 := (places.1.zip secs).foldl (fun t e => t.putMem (image + e.1) e.2.2) s
    let s2 := s1.putMem (image + 4) (natLe 4 (j.job.toNat + 65536 * j.gen.toNat + 2 ^ 28 * p) ++ natLe 8 halt.toNat)
    let s3 := s2.putMem (image + 0x28) (natLe 4 j.gridCtr ++ natLe 4 (s.pt p).lsstat.toNat ++ places.1.flatMap (natLe 8 ·))
    let s4 := s3.putMem (image + 0x70) (secs.flatMap (fun e => natLe 4 e.1))
    some (s4.putWord image (svstate urg late true))

/-! ## Reading an image (R369) -/

/-- A token from its word (R173). -/
def tokenOf (w : Word) : Token := ⟨bits w 16 16, w.extractLsb' 8 8, w.getLsbD 1⟩

/-- The lane loads of the far-load records of a slice as far instructions, one for each issue order. -/
def farsOfRecords (slice : Nat) (recs : List (List Byte)) : List Far :=
  ((recs.map (fun b => field b 12 4)).dedup).map (fun q =>
    let mine := recs.filter (fun b => decide (field b 12 4 = q))
    let w := fieldW (mine.headD []) 8
    { id := 0, slice := slice, kind := .load (w.extractLsb' 8 3) (w.extractLsb' 0 8)
      ops := mine.map (fun b => ⟨bits (fieldW b 8) 11 2, fieldD b 0, 0, 0, 0, false⟩)
      formed := false, seq := q, parent := 0, gangNo := q, due := 0, sent := false, txid := 0, answer := none, known := [] })

/-- A slice from its record, over what the package remembers of it. -/
def sliceOf (base : Slice) (head vdata : List Byte) : Slice :=
  let w (o : Nat) : Word := fieldW head o
  let dead := fieldD head 0x100
  let sst := w 0x10C
  let map := field head 0xA00 128
  let live := (List.range 256).filter (fun i => decide (map / 2 ^ (4 * i) % 16 ≠ 0))
  let cnt := w 0x12C
  { base with
    idx := bits (w 0x108) 0 5
    v := ((List.range live.length).zip live).flatMap (fun e => (List.range 4).filterMap (fun l =>
      if map / 2 ^ (4 * e.2 + l) % 2 = 1 then some (4 * e.2 + l, fieldW vdata (16 * e.1 + 4 * l)) else none))
    s := (List.range 64).foldl (fun m i => aset (some 0) m i (if dead.getLsbD i then none else some (w (4 * i)))) []
    fair := (w 0x114).extractLsb' 0 16, fairCount := (w 0x114).extractLsb' 16 16, fpmode := fpmodeWrite (w 0x118), sticky := w 0x11C &&& 0x27
    farstat := w 0x120 &&& 0x00FF000F, poison := w 0x124 &&& 0x0000FFFF, trapen := w 0x128 &&& 0x3F, fl := bits cnt 0 6, fs := bits cnt 6 6, cp := bits cnt 12 6, tl := bits cnt 18 6
    frame := if sst.getLsbD 6 ∨ sst.getLsbD 7 then some (frameOf ((head.drop 0x600).take 0x400)) else none
    slive := none, done := false, exited := (fieldW head 0x21C).extractLsb' 0 4
    wait := if sst.getLsbD 7 then some .stopped
      else if sst.getLsbD 8 then (match base.wait with | some (.backoff _ h r) => some (.backoff 0 h r) | _ => some (.backoff 0 none none))
      else match base.wait with
        | some (.waitt m) => some (.waitt m)
        | some (.yieldt m a) => some (.yieldt m a)
        | _ => none }

/-- A parsed slice record: the slice, its halt frame, its far loads, its old core slice index and the record's size. -/
structure ReadSlice where
  slice : Slice
  halt : Frame
  fars : List (List Byte)
  oldIndex : Nat
  first : Nat                     -- old core slice index of its gang's first member
  size : Nat
  deriving Repr

/-- The core slice index that a frame's REMAP gives for a position. -/
def remapAt (f : Frame) (n : Nat) : Nat := bits (f.word (8 + n / 4)) (8 * (n % 4)) 8

def State.readSlice (s : State) (key : Nat) (base : Nat → Slice) : ReadSlice :=
  let head := s.bytes key 0xAC0
  let nv := field head 0xA80 4
  let nfl := field head 0xA84 4
  let rest := s.bytes (key + 0xAC0) (16 * (nv + nfl))
  let f := frameOf ((head.drop 0x200).take 0x400)
  { slice := sliceOf (base (field head 0x108 4 % 32)) head rest, halt := f
    fars := (List.range nfl).map (fun n => (rest.drop (16 * (nv + n))).take 16)
    oldIndex := remapAt f (bits (f.word 6) 2 3), first := remapAt f 0
    size := (0xAC0 + 16 * (nv + nfl) + 63) / 64 * 64 }

/-- So many slice records from a key on, and the key after them. -/
def State.readSlices (s : State) (base : Nat → Slice) : Nat → Nat → List ReadSlice × Nat
  | 0, key => ([], key)
  | n + 1, key =>
    let r := s.readSlice key base
    let q := s.readSlices base n (key + r.size)
    (r :: q.1, q.2)

/-- A copy from its record (R263), over what the package remembers of it. -/
def State.readCopy (s : State) (key spbase n : Nat) (base : Copy) : Copy :=
  let b := s.bytes key 192
  let g := fieldW b 0
  let i := match decode g 0 0 with | .ok i => i | .error _ => .nop
  let raw := (List.range 9).map (fun m => fieldW b (0x10 + 4 * m))
  let desc := (b.drop 0x40).take 64
  let barred := match i with
    | .copy _ bar _ _ _ _ | .copytLd _ bar _ _ _ _ | .copyg _ bar _ _ _ _ | .copyr _ bar _ _ _ _ => bar
    | .copytSt bar _ _ _ _ | .copytSc bar _ _ _ _ | .copys bar _ _ _ _ => bar
    | _ => false
  let c0 : Copy := { base with kind := copyKindOf i raw desc, bar := if barred then some 0 else none }
  let opers := c0.locals.foldl (fun ws m => ws.set m (unheldWord spbase (ws.getD m 0))) raw
  let kind := copyKindOf i opers desc
  let p := fieldW b 4
  { c0 with
    id := n, granule := g, opers := opers, kind := kind, token := bits g 26 3
    bar := if barred then some (opers.getD 7 0) else none
    cursor := field b 8 8 / kind.elem
    state := if bits p 16 4 = 0 then .queued
      else .paused (p.extractLsb' 0 16) ((p.extractLsb' 16 4).setWidth 8) (match base.state with | .paused _ _ a => a | _ => 0) }

/-- A copy of which nothing is remembered. -/
def Copy.blank : Copy :=
  { id := 0, team := 0, lead := 0, members := [], token := 0, granule := 0, opers := [], bar := none, kind := .copy false 0 0 0
    group := none, mcKey := none, cursor := 0, denied := false, state := .queued, saved := [], piece := 0, part := 0, rows := [], asked := none, ans := none
    got := [] }

/-- A team of which nothing is remembered. -/
def SavedTeam.blank (p : Nat) (g : Grid) (n : Nat) : SavedTeam :=
  let keys := (List.range g.header.nslices).map (fun i => 2 ^ 19 + i)
  { id := 0, part := p, core := 0, slot := 0
    team := { Team.absent with
      part := p, grid := g.number, index := n, header := g.header, slices := keys, spbase := 0, splimit := g.header.scratch
      tiles := List.range g.header.ntiles }
    slices := (List.range g.header.nslices).map (fun i => { Slice.absent with idx := i, gang := 2 ^ 19 + i / 8 * 8 })
    halts := keys.map (fun _ => []), copies := [], fars := [], scratch := [], tiles := [], scales := []
    drained := false, reclaimed := false, swapped := 0, waited := 0, words := [] }

/-- What the package remembers of a team whose record stands in an image. -/
def State.remembered (s : State) (p : Nat) (job : BitVec 16) (g : Grid) (n : Nat) : SavedTeam :=
  (s.kept.find? (fun r => decide (r.part = p ∧ r.team.job = job ∧ r.team.grid = g.number ∧ r.team.index = n))).getD
    (SavedTeam.blank p g n)

/-- Pairs of a number and a byte that is not zero. -/
def State.assocAt (s : State) (key n : Nat) : Assoc Byte := assocBytes (s.bytes key n)

/-- One team record read: the saved team under a new number, and the key after it. -/
def State.readTeam (s : State) (p : Nat) (job : Job) (gs : List Grid) (key id : Nat) : SavedTeam × Nat :=
  let h := s.bytes key 1024
  let g := gs.getD (field h 4 4) ⟨0, p, 0, .root, Header.zero, 0, [], [], none⟩
  let n := field h 8 8
  let base := s.remembered p job.job g n
  let r := s.readSlices (fun i => base.slices.getD i Slice.absent) (field h 0x10 4) (key + 1024)
  let known := decide (base.id ≠ 0)
  let keys := base.team.slices
  let at_ (i : Nat) : Option ReadSlice := r.1.find? (fun x => decide (x.slice.idx = i))
  let ofIndex (c : Nat) : Nat := match r.1.find? (fun x => decide (x.oldIndex = c)) with
    | some x => keys.getD x.slice.idx 0
    | none => 0
  let idxs := List.range keys.length
  let slices := idxs.map (fun i => match at_ i with
    | some x => if known then x.slice else { x.slice with gang := ofIndex x.first }
    | none => { base.slices.getD i Slice.absent with done := true, fl := 0, fs := 0 })
  let fars := r.1.flatMap (fun x => farsOfRecords (keys.getD x.slice.idx 0) x.fars)
  let nc := field h 0x14 4
  let live := field h 0x18 4
  let k1 := r.2 + 192 * nc
  let k2 := k1 + (live + 63) / 64 * 64
  let t := base.team.tiles.length
  let arrived := field h 0x1C 4
  let prio := fieldW h 0x20
  ({ base with
      id := id, reclaimed := false, drained := (fieldW h 0).getLsbD 1
      swapped := if known then base.swapped else if (fieldW h 0).getLsbD 2 then 0 else 1
      team := { base.team with
        job := job.job, gen := job.gen, halting := false
        arrived := (idxs.filter (fun i => decide (arrived / 2 ^ i % 2 = 1))).map (fun i => keys.getD i 0)
        prio := prio.extractLsb' 0 3, launchPrio := prio.extractLsb' 8 3, trapvec := fieldW h 0x24 &&& ~~~3#32
        tokens := (List.range 8).foldl (fun m j => aset Token.reset m j (tokenOf (fieldW h (0x28 + 4 * j)))) []
        md := (List.range 16).foldl (fun m j => aset 0 m j (descWrite (fieldD h (0x48 + 8 * j)))) []
        scaleValid := fieldD h 0xC8, openSet := []
        rgDue := (r.1.filter (fun x => (x.halt.word 7).getLsbD 8 && decide (x.halt.word 10 ≠ 0))).foldl
          (fun m x => aput m (x.slice.idx / 8) (x.halt.word 10).toNat) [] }
      slices := slices, halts := idxs.map (fun i => match at_ i with | some x => x.halt | none => [])
      copies := (List.range nc).map (fun m => s.readCopy (r.2 + 192 * m) base.team.spbase m (base.copies.getD m Copy.blank))
      fars := ((List.range fars.length).zip fars).map (fun e => { e.2 with id := e.1, parent := e.1 })
      scratch := s.assocAt k1 live, tiles := s.assocAt k2 (4096 * t), scales := s.assocAt (k2 + 4096 * t) (512 * t) },
    k2 + 4608 * t)

/-- So many team records; the records take the numbers from `id` on. -/
def State.readTeams (s : State) (p : Nat) (job : Job) (gs : List Grid) : Nat → Nat → Nat → List SavedTeam
  | 0, _, _ => []
  | n + 1, key, id =>
    let r := s.readTeam p job gs key id
    r.1 :: s.readTeams p job gs n r.2 (id + 1)

/-- So many grid records, their owners still to be set: each with its OWNER word. -/
def State.readGrids (s : State) (p : Nat) : Nat → Nat → Nat → List (Grid × Nat)
  | 0, _, _ => []
  | n + 1, key, id =>
    let b := s.bytes key 0x100
    let h := Header.ofBytes b
    let base := field b 0x88 8
    let nrel := field b 0x90 4
    let score := if h.ndeps = 0 then 0 else s.num (key + 0x100) 0x20000
    let k1 := key + 0x100 + (if h.ndeps = 0 then 0 else 0x20000)
    let rel := (List.range nrel).map (fun i => s.num (k1 + 8 * i) 8)
    let retired := if h.ndeps = 0 then (List.range (h.count - base)).filterMap (fun i =>
          if rel.contains (base + i) then none else some (base + i))
      else (List.range (2 ^ 20)).filterMap (fun i => if score / 2 ^ i % 2 = 1 then some (base + i) else none)
    (⟨id, p, field b 0x80 4, .root, h, base, retired, [], none⟩, field b 0x84 4) :: s.readGrids p n (k1 + 8 * nrel) (id + 1)

/-- The grids with their owners, and with the teams that have started. -/
def linkGrids (gs : List (Grid × Nat)) (ts : List SavedTeam) (slot : Bool) : List Grid :=
  gs.map (fun e =>
    let mine := (ts.filter (fun r => decide (r.team.grid = e.1.number))).map (fun r => r.team.index)
    { e.1 with
      owner := if e.2 < ts.length then .token (savedKey ((ts.getD e.2 (SavedTeam.blank 0 e.1 0)).id)) e.1.header.token
        else if slot then .slot else .root
      started := mine, retired := e.1.retired.filter (fun n => !mine.contains n) })

/-- The team of an entry of an image: that whose record it was saved with, equal ones in their order. An image of which nothing is
remembered does not say which team a TEAMW names, and a free value does (log entry 17). -/
def State.entryTeam (s : State) (ts : List SavedTeam) (r : BitVec 256) (earlier : List (BitVec 256)) : Option SavedTeam :=
  let mine := ts.flatMap (fun t => (t.words.filter (fun w => decide (w = r))).map (fun _ => t))
  match mine[(earlier.filter (fun w => decide (w = r))).length]? with
  | some t => some t
  | none => ts[Config.entryTeam s.freeNo (r.extractLsb' 160 32) % max 1 ts.length]?

/-- Wait entry i of a section read. -/
def State.readEntry (s : State) (p : Nat) (job : BitVec 16) (ts : List SavedTeam) (at_ i : Nat) : Option WftEntry :=
  let word (n : Nat) : BitVec 256 := BitVec.ofNat 256 (s.num (at_ + 32 * n) 32)
  let r := word i
  let kind := r.extractLsb' 158 2
  (s.entryTeam ts r ((List.range i).map word)).map (fun t =>
    let slice := ((t.team.slices.find? (fun k => decide (k % 64 = bits r 149 6))).getD (t.team.slices.headD 0))
    { id := 0, part := p, job := job
      obj := if kind = 3 then unheldFar t.core t.team.spbase (r.extractLsb' 192 64) else r.extractLsb' 192 64
      team := savedKey t.id, kind := kind, src := r.extractLsb' 155 3
      slice := if kind = 1 ∨ kind = 2 then 0 else slice, count := bits r 128 16, time := r.extractLsb' 64 64
      torem := r.extractLsb' 32 32, spilled := none, touched := 0, unfound := false })

/-- One record of the receive section. -/
inductive ReadRecv where
  | recv (r : Recv)
  | send (x : SendOp) (sent : Nat)
  deriving DecidableEq, Repr

def State.readRecv (s : State) (p : Nat) (job : Job) (ts : List SavedTeam) (key id : Nat) : Option ReadRecv :=
  let b := s.bytes key 192
  let st := fieldW b 0x80
  match ts[field b 0x88 4]? with
  | none => none
  | some t =>
    let base := t.team.spbase
    let cursor := field b 0x90 8
    let len := field b 0x98 4
    let die := field b 0x8C 4 % 8
    let code := st.extractLsb' 16 8
    if bits st 0 2 = 2 then
      let q2 := fieldW b 0x10
      some (.send
        { id := id, team := savedKey t.id, teamIndex := t.team.index, part := p, job := job.job, gen := job.gen, die := die
          token := bits st 8 3, addr := unheldFar t.core base (fieldD b 0), len := field b 8 4, tag := fieldW b 0xC
          dstPeer := q2.extractLsb' 0 20, dstDie := q2.extractLsb' 20 3, rdv := st.getLsbD 2
          rdvHandle := (fieldW b 0x84).extractLsb' 0 16, packets := [], waits := false, endAnswered := !st.getLsbD 2, code := code } cursor)
    else
      let at_ (bs : List Byte) (o : Nat) : List Byte := setField bs o (natLe 4 (unheldWord base (fieldW bs o)).toNat)
      let desc := (b.drop 0x40).take 64
      let src := fieldD b 0xA0
      let posted := decide (bits st 0 2 = 0)
      let r : Recv :=
        { id := id, part := p, job := job.job, die := die, handle := fieldW b 0x84, team := savedKey t.id, teamIndex := t.team.index
          tok := if st.getLsbD 5 then some (bits st 8 3) else none, cq := st.getLsbD 4, bar := st.getLsbD 3
          block := [0x18, 0x30, 0x34].foldl at_ (b.take 64)
          desc := setField desc 0 (natLe 8 (unheldFar t.core base (descBase desc)).toNat)
          posted := posted, code := code, len := len, mtag := fieldW b 0x9C, msrc := src, rdv := st.getLsbD 2
          sender := src.extractLsb' 0 20, senderDie := src.extractLsb' 20 3, rdvHandle := (fieldW b 0xA8).extractLsb' 0 16
          landed := cursor, early := [], pulls := [], nextPull := cursor / 2048, endSeen := false, writes := 0, held := [], heldEnd := none
          unfound := false, spill := none
          wft := none }
      some (.recv { r with endSeen := !posted && r.rdv && decide (r.chunks * 2048 ≤ cursor ∨ (len ≠ 0 ∧ len ≤ cursor)) })

end Sys2Proof.Machine
end

