-- ==== Sys2Proof/Machine/Power.lean ====
section
/-! DEFINITION. Partitions' clusters and their power: configuration, lending, regulator groups, the energy meter and the hang
watchdog (spec R377, R381 to R388). -/

namespace Sys2Proof.Machine

open Sys2Proof

/-! ## Regulator groups (R383, R384) -/

/-- Teams resident in a cluster. -/
def State.clusterTeams (s : State) (c : Nat) : List Nat :=
  (s.teams.map Prod.fst).filter (fun t => decide (clusterOfCore (coreOfTeam t) = c))

/-- The regulator group that the partition which holds a cluster has taken. -/
def State.properGroup (s : State) (c : Nat) : Option Nat := (s.partOfCluster c).bind (fun p => (s.pt p).group)

/-- A cluster that holds no team and belongs to another group than it is connected to begins to be reconnected, gated until then. -/
def State.regroup (s : State) (c : Nat) : State :=
  match s.properGroup c with
  | none => s
  | some g =>
    if s.clusterTeams c ≠ [] ∨ (s.cl c).reconnect.isSome ∨ (s.cl c).group = g then s
    else s.modCl c (fun x => { x with reconnect := some g })

/-- The clusters that a partition holds, regrouped. -/
def State.regroupAll (s : State) (p : Nat) : State :=
  ((List.range 16).filter (s.holdsCluster p)).foldl State.regroup s

/-- REGULATOR_RECONNECT (R384). A cluster is gated, reconnected to its group and woken; its cores have kept no state (R387). Where it had to wait for its teams to
leave, the reconnection begins with this event, and it ends with the next. -/
def execRegulatorReconnect (cluster : Nat) (s : State) : Host.Outcome State Fault Refusal :=
  match (s.cl cluster).reconnect with
  | none => .next (s.regroup cluster)
  | some g =>
    if s.clusterTeams cluster ≠ [] then .next s
    else
    let s1 := (List.range 256).foldl (fun u i => (u.gateCore (256 * cluster + i)).modCo (256 * cluster + i) (fun x =>
      { x with gated := false, idleSince := s.nsWord })) s
    .next (s1.modCl cluster (fun x => { x with group := g, reconnect := none, gated := false, idleSince := s.nsWord }))

/-- Is a group used by another enabled partition? -/
def State.groupTaken (s : State) (p g : Nat) : Bool :=
  (List.range 16).any (fun q => decide (q ≠ p) && decide ((s.pt q).group = some g))

/-- GROUP of a partition's PWRCFG (R383). -/
def Part.groupField (x : Part) : Nat := bits x.pwrcfg 45 3

/-- The group that a partition holds after a write of PARTCFG or PWRCFG: none while it is not enabled, and none that another holds, in
which case it keeps what it had (DEDUCED, log entry 60). -/
def State.groupFor (s : State) (p : Nat) (x : Part) : Option Nat :=
  if !x.en then none else if s.groupTaken p x.groupField then x.group else some x.groupField

/-- PWRCFG_WRITE (R383). Sets idle timer, regulator group and power allotment, ignoring a group in use. -/
def execPwrcfgWrite (part : Nat) (value : DWord) (s : State) : Host.Outcome State Fault Refusal :=
  let new := bits value 45 3
  let v := setBits (setBits value 0 32 0) 45 3 (if s.groupTaken part new then (s.pt part).groupField else new)
  let y : Part := { s.pt part with pwrcfg := v }
  .next ((s.modPt part (fun _ => { y with group := s.groupFor part y })).regroupAll part)

/-- RGGROUP_WRITE (R384). Changes a group's voltage and clock with an ordered ramp. -/
def execRggroupWrite (group : Nat) (value : Word) (s : State) : Host.Outcome State Fault Refusal :=
  let v := value &&& 0xFF1F
  .next (s.modRg group (fun x => { x with reg := v, ramping := x.ramping || decide (v ≠ x.applied) }))

/-- The next setting of a ramp (R384): the voltage alone where it rises, the clock alone where it falls, else the whole register. -/
def rampStep (applied reg : Word) : Word :=
  if bits applied 8 8 < bits reg 8 8 then (reg &&& 0xFF00) ||| (applied &&& 0x1F)
  else if groupClock reg < groupClock applied then (applied &&& 0xFF00) ||| (reg &&& 0x1F)
  else reg

/-- RGGROUP_RAMP_DONE (R384). A regulator group's voltage and clock ramp ends within 20 us at the new setting: the first part of a ramp
of both, or the ramp. -/
def execRggroupRampDone (group : Nat) (s : State) : Host.Outcome State Fault Refusal :=
  if (s.rg group).ramping then .next (s.modRg group (fun x =>
    let v := rampStep x.applied x.reg
    { x with applied := v, ramping := decide (v ≠ x.reg) }))
  else .next s

/-! ## Partitions (R377) -/

/-- Do two partitions' ranges or colours overlap? -/
def Part.overlaps (a b : Part) : Bool :=
  (List.range 16).any (fun c => a.inRange c && b.inRange c) || decide (a.colours &&& b.colours ≠ 0)

/-- Are EN, BASE, LIMIT and COLOURS of a partition locked: a current job, or a cluster lent out or borrowed? -/
def State.partLocked (s : State) (p : Nat) : Bool :=
  (s.pt p).job.isSome || (s.pt p).switch.isSome ||
    (List.range 16).any (fun c => decide ((s.cl c).lent ≠ 0) && ((s.pt p).inRange c || decide ((s.cl c).borrower.toNat = p)))

/-- ALLOT in units of 2^-8 pJ per us (R383, R386). -/
def Part.allot (x : Part) : Int :=
  let a := bits x.pwrcfg 32 13
  (if a = 0 then 1 else if 4500 < a then 4500 else a : Nat) * 256000000

/-- PARTCFG_WRITE (R377). Configures a partition, ignoring overlapping or locked changes. Enabling it starts its meter with a
credit of 8A and throttle level 0 (R386). -/
def execPartcfgWrite (part : Nat) (value : DWord) (s : State) : Host.Outcome State Fault Refusal :=
  let old := s.pt part
  let lock : DWord := if s.partLocked part then 0x80000000FFFF00FF else 0
  let v := ((value &&& ~~~lock) ||| (old.partcfg &&& lock)) &&& 0xE0FFFFFFFFFF00FF
  let new := { old with partcfg := v, group := s.groupFor part { old with partcfg := v } }
  if new.en ∧ (List.range 16).any (fun q => decide (q ≠ part) && (s.pt q).en && new.overlaps (s.pt q)) then .next s
  else if new.en ∧ !old.en then
    let s1 := s.modPt part (fun _ => { new with credit := 8 * new.allot, throttle := 0, meterUs := s.ns / 1000 })
    let s2 := ((List.range 16).filter new.inRange).foldl (fun u c => u.modCl c (fun x => { x with enaccSeen := x.enacc })) s1
    .next (s2.regroupAll part)
  else .next ((s.modPt part (fun _ => new)).regroupAll part)

/-! ## Lending and reclaim (R381, R382) -/

/-- The partition whose range holds a cluster. -/
def State.ownerOf (s : State) (c : Nat) : Option Nat := (List.range 16).find? (fun p => (s.pt p).inRange c)

/-- CLEND as it reads: STATE, BORROWER, OWNER. -/
def State.clend (s : State) (c : Nat) : Word :=
  0#2 ++ ((s.cl c).lent.setWidth 2 ++ (0#20 ++ ((s.cl c).borrower ++ BitVec.ofNat 4 ((s.ownerOf c).getD 0))))

/-- Was a command written in this cycle? -/
def ClendMark.isNow (m : Option ClendMark) (cycle : Nat) : Bool := decide (m.map ClendMark.cycle = some cycle)

/-- CLEND_LEND (R381). Lends an empty cluster to another partition. With a RECLAIM of the same cycle it leaves the cluster as it was
(R382). -/
def execClendLend (cluster : Nat) (borrower : BitVec 4) (s : State) : Host.Outcome State Fault Refusal :=
  let q := borrower.toNat
  let x := s.cl cluster
  let mark (took : Bool) : Option ClendMark := some ⟨s.cycle, took, x.reconnect⟩
  if ClendMark.isNow x.reclaimAt s.cycle then
    .next (s.modCl cluster (fun y => { y with
      lendAt := mark false, lent := if (y.reclaimAt.map ClendMark.took).getD false then 1 else y.lent }))
  else if s.clusterTeams cluster ≠ [] ∨ x.lent ≠ 0 ∨ !(s.pt q).en ∨ (s.ownerOf cluster).isNone ∨ s.ownerOf cluster = some q then
    .next (s.modCl cluster (fun y => { y with lendAt := mark false }))
  else .next ((s.modCl cluster (fun y => { y with lent := 1, borrower := borrower, lendAt := mark true })).regroup cluster)

/-- A cluster returns to its owner. -/
def State.returnCluster (s : State) (c : Nat) : State := (s.modCl c (fun x => { x with lent := 0, borrower := 0 })).regroup c

/-- Clusters that a partition has borrowed. -/
def State.borrowed (s : State) (p : Nat) : List Nat :=
  (List.range 16).filter (fun c => decide ((s.cl c).lent ≠ 0 ∧ (s.cl c).borrower.toNat = p))

/-- CLEND_RECLAIM (R382). Starts reclaiming a lent cluster: it is eligible no more, and its teams are swapped out from the next cycle
on. With a LEND of the same cycle it leaves the cluster as it was (DEDUCED, log entry 61). -/
def execClendReclaim (cluster : Nat) (s : State) : Host.Outcome State Fault Refusal :=
  let x := s.cl cluster
  let mark (took : Bool) : Option ClendMark := some ⟨s.cycle, took, none⟩
  if ClendMark.isNow x.lendAt s.cycle then
    .next (s.modCl cluster (fun y =>
      match y.lendAt with
      | some ⟨_, true, r⟩ => { y with reclaimAt := mark false, lent := 0, borrower := 0, reconnect := r }
      | _ => { y with reclaimAt := mark false }))
  else .next (s.modCl cluster (fun y =>
    { y with reclaimAt := mark (decide (y.lent = 1)), lent := if y.lent = 1 then 2 else y.lent }))

/-- RECLAIM_COMPLETE (R382). The teams are swapped out as their work comes to its end, and with the last one the cluster returns to its
owner. -/
def execReclaimComplete (cluster : Nat) (s : State) : Host.Outcome State Fault Refusal :=
  if (s.cl cluster).lent ≠ 2 ∨ ClendMark.isNow (s.cl cluster).reclaimAt s.cycle then .next s
  else
    let s1 := if s.partRuns (s.cl cluster).borrower.toNat then
        (s.clusterTeams cluster).foldl (fun u t => u.swapOut t true) s
      else s
    if s1.clusterTeams cluster = [] then .next (s1.returnCluster cluster) else .next s1

/-! ## The meter (R386) -/

/-- Energy of a cluster over the last us, in units of 2^-8 pJ, in which it is a whole number. -/
def Cluster.energy (x : Cluster) : Int :=
  (bits x.clcal 48 16 * (x.enacc - x.enaccSeen).toNat + 256000 * bits x.clcal 32 16 : Nat)

/-- POWER_METER_UPDATE (R386). Each us a partition's energy credit and throttle level update, once: State.tick calls it before every
other turn of the first cycle of a us. -/
def execPowerMeterUpdate (part : Nat) (s : State) : Host.Outcome State Fault Refusal :=
  if !(s.pt part).en ∨ s.ns / 1000 = (s.pt part).meterUs then .next s
  else
    let cs := (List.range 16).filter (s.holdsCluster part)
    let e : Int := (cs.map (fun c => (s.cl c).energy)).foldl (· + ·) 0
    let s1 := cs.foldl (fun u c => u.modCl c (fun x => { x with enaccSeen := x.enacc })) s
    .next (s1.modPt part (fun x =>
      let a := x.allot
      let cr := max (min (x.credit + a - e) (8 * a)) (-(8 * a))
      { x with
        meterUs := s.ns / 1000, credit := cr
        throttle := if cr < 0 then min (x.throttle + 1) 15 else if 4 * a ≤ cr then x.throttle - 1 else x.throttle }))

/-! ## The hang watchdog (R388) -/

/-- Does a slice stand in a state in which its team's count does not rise? -/
def State.excused (s : State) (k : Nat) : Bool :=
  let x := s.sl k
  let tm := s.tm x.team
  match x.wait with
  | some (.waitc fl fs cp tl) => !x.atLimits fl fs cp tl
  | some (.waitt mask) | some (.yieldt mask _) => !tm.tokensMet mask
  | some (.backoff _ _ _) | some .yieldp => true
  | some w => match w.entry with
    | none => false
    | some _ => (s.sliceObjs x.team x).any (fun o => (s.holders tm.part tm.job o).any (fun h =>
        (s.teamSlices h).any (fun e => decide (e.2.lastIssue ≠ 0 ∧ s.cycle < e.2.lastIssue + 1024))))
  | none => false

/-- Does a cycle add 1 to a team's watchdog count? -/
def State.wdCounts (s : State) (t : Nat) : Bool :=
  s.teamRuns t && s.clockEdge (coreOfTeam t) && !s.withheld (s.tm t).part && !((s.tm t).slices.filter (fun k => !(s.sl k).done)).all s.excused

/-- The watchdog counts of a cycle. -/
def State.wdTick (s : State) : State :=
  (s.teams.map Prod.fst).foldl (fun u t => if s.wdCounts t then u.modTm t (fun x => { x with wdCount := x.wdCount + 1 }) else u) s

/-- WATCHDOG (R388). The hang watchdog count reaches its threshold and raises WATCHDOG: in the lowest-numbered slice that has
not exited and is not in trap mode, or as an event alone, which then names the lowest-numbered slice that has not exited and its PC
(R227 does not say which: DESIGN CHOICE, log entry 70). -/
def execWatchdog (team : Nat) (s : State) : Host.Outcome State Fault Refusal :=
  let tm := s.tm team
  match (s.pt tm.part).wdThreshold with
  | none => .next s
  | some n =>
    if (afind s.teams team).isNone ∨ tm.wdCount < n ∨ !s.teamRuns team then .next s
    else
      let s1 := s.modTm team (fun x => { x with wdCount := 0 })
      let i : TrapInfo := ⟨causeWatchdog, 0, 0xF, BitVec.ofNat 32 n, BitVec.ofNat 32 (n / 2 ^ 32), 0⟩
      let live := tm.slices.filter (fun k => !(s.sl k).done)
      match live.find? (fun k => !(s.sl k).trapMode) with
      | some k => .next (s1.modSl k (fun x => { x with boundary := x.boundary ++ [i] }))
      | none => .next (s1.trapEvent (live.headD 0) (causeWord 0 i) (s.sl (live.headD 0)).pc i.info0 i.info1 1)

end Sys2Proof.Machine
end

