-- ==== Sys2Proof/Machine/Switch.lean ====
section
/-! DEFINITION. The timetable store, the switch between jobs, restore, and urgent pre-emption (spec R353 to R376, R408, R432). -/

namespace Sys2Proof.Machine

open Sys2Proof

/-! ## The timetable store (R353 to R355) -/

/-- An entry from its 32 bytes. -/
def ttOfBytes (bs : List Byte) : TtEntry :=
  { start := fieldD bs 0, job := BitVec.ofNat 16 (field bs 8 2), genp := BitVec.ofNat 16 (field bs 0xA 2)
    clusters := BitVec.ofNat 16 (field bs 0xC 2), mode := BitVec.ofNat 16 (field bs 0xE 2), lead := fieldW bs 0x10
    resv := fieldW bs 0x14, epoch := fieldW bs 0x18, seq := fieldW bs 0x1C }

/-- Check 1 of R354. -/
def State.ttMalformed (s : State) (e : TtEntry) : Bool :=
  decide (bits e.mode 3 13 ≠ 0 ∨ e.resv ≠ 0 ∨ 1000000 < e.lead.toNat) ||
    (!ttIdle e && (decide (e.clusters = 0) ||
      (List.range 16).any (fun c => e.clusters.getLsbD c && !(s.pt (ttPart e)).inRange c)))

/-- Stored entries of a partition. -/
def State.ttOf (s : State) (p : Nat) : List TtEntry := s.timetable.filter (fun x => decide (ttPart x = p))

/-- An entry submitted to the store: the state after, and the code of R354. Only the local window places OPEN entries, and
only those (R355). -/
def State.ttSubmit (s : State) (e : TtEntry) (window : Bool) : State × BitVec 8 :=
  let opn := ttOpen e
  if s.ttMalformed e ∨ opn ≠ window then (s, 1)
  else if !opn ∧ e.epoch.toNat < s.ttepoch.toNat then (s, 2)
  else
    let s1 := if opn then s else { s with ttepoch := e.epoch }
    let mine := s.ttOf (ttPart e)
    if !opn ∧ e.start.toNat < s.ns + 2000000 then (s1, 3)
    else if !opn ∧ mine.any (fun x => decide (x.start ≠ e.start ∧ x.start.toNat < e.start.toNat + 1000000 ∧
        e.start.toNat < x.start.toNat + 1000000)) then (s1, 4)
    else if mine.any (fun x => decide (x.start = e.start)) then
      ({ s1 with timetable := s1.timetable.map (fun x => if ttPart x = ttPart e ∧ x.start = e.start then e else x) }, 5)
    else if 256 ≤ s1.timetable.length then (s1, 6)
    else ({ s1 with timetable := s1.timetable ++ [e] }, 0)

/-- TIMETABLE_ENTRY_ARRIVAL (R354). An arriving timetable entry is checked and stored or rejected. The code for the sender
stands in hostRead. -/
def execTimetableEntryArrival (entry : TtEntry) (s : State) : Host.Outcome State Fault Refusal :=
  if s.rot.recovery then .next s
  else
    let r := s.ttSubmit entry false
    .next { r.1 with hostRead := r.2.setWidth 64 }

/-- LTCTL_GO (R355). A write of GO submits the local entry window to the store. -/
def execLtctlGo (part : Nat) (s : State) : Host.Outcome State Fault Refusal :=
  let r := s.ttSubmit (ttOfBytes ((List.range 32).map (fun i => aget 0 (s.pt part).window i))) true
  .next (r.1.modPt part (fun x => { x with ltstat := 0x100#32 ||| r.2.setWidth 32 })).callStarts

/-! ## What comes next (R356, R358) -/

/-- Stored entries of a partition in the order of START. -/
def State.ttSorted (s : State) (p : Nat) : List TtEntry := byStart (s.ttOf p)

/-- Is an entry for another job or generation than a job's? -/
def ttSwitches (j : Job) (e : TtEntry) : Bool := ttIdle e || decide (e.job ≠ j.job ∨ ttGen e ≠ j.gen)

/-- Has START - LEAD of an entry that will switch come? -/
def State.preqDue (s : State) (p : Nat) : Bool :=
  match (s.pt p).job with
  | none => false
  | some j => match (s.ttSorted p).find? (ttSwitches j) with
    | none => false
    | some e => decide (e.start.toNat ≤ s.ns + e.lead.toNat)

/-- PREQ_RISE (R358). At START minus LEAD the partition's pre-emption request rises. -/
def execPreqRise (part : Nat) (s : State) : Host.Outcome State Fault Refusal :=
  if (s.pt part).switch.isNone ∧ s.preqDue part then .next (s.modPt part (fun x => { x with preq := true })) else .next s

/-! ## The end of a switch -/

/-- A switch has come to its end; the first failure stands in LAST (R363). -/
def State.endSwitch (s : State) (p : Nat) (code : BitVec 8) : State :=
  let s1 := s.modPt p (fun x =>
    let failed := (x.switch.map (fun w => w.failure)).getD 0
    { x with
      swstat := setBit (setBits x.swstat 8 8 (if failed ≠ 0 then failed else code).toNat) 0 false
      switch := none, nextQuantum := BitVec.ofNat 64 (s.ns + quantumNs x.progq) })
  (s1.modPt p (fun x => { x with preq := x.job.isSome && (s1.preqDue p || x.urgHalt.isSome) })).callStarts

/-! ## The incoming job (R356, R357, R369, R408) -/

/-- n bytes at a virtual address of a partition's current job, read through translation without a tag check; none when they
cannot be read. -/
def State.readVirt (s : State) (p : Nat) (va : DWord) (n : Nat) : Option (List Byte) :=
  let j := s.jobOf p
  let keys : List (Option Nat) := (List.range n).map (fun i =>
    let a := va + BitVec.ofNat 64 i
    match hbmVa a with
    | none => none
    | some v => match s.translateFor p j v true false false with
      | .error _ => none
      | .ok (m, _) => if s.isPoisoned (hbmKey (ownerDie v) m.pa) then none else some (hbmKey (ownerDie v) m.pa))
  if keys.all Option.isSome then some ((keys.filterMap id).map s.byte) else none

/-- The keys of what readVirt reads, as far as they translate, for the poison found there (R292). -/
def State.virtKeys (s : State) (p : Nat) (va : DWord) (n : Nat) : List Nat :=
  (List.range n).filterMap (fun i => match hbmVa (va + BitVec.ofNat 64 i) with
    | none => none
    | some v => match s.translateFor p (s.jobOf p) v true false false with
      | .error _ => none
      | .ok (m, _) => some (hbmKey (ownerDie v) m.pa))

/-- The window and the principals of a peer table; none when it breaks the layout of R408. -/
def peerTable (head entries : List Byte) : Option (DWord × List (BitVec 16 × DWord)) :=
  let win := fieldD head 0
  let n := field head 8 4
  let prins := (List.range n).map (fun e => (BitVec.ofNat 16 (field entries (16 * e) 2), fieldD entries (16 * e + 8)))
  if bits win 48 10 ≠ 0 ∨ bits win 1 11 ≠ 0 ∨ 64 < n ∨ field head 0xC 0x34 ≠ 0 ∨
      (List.range n).any (fun e => decide (field entries (16 * e + 2) 6 ≠ 0)) ∨
      prins.any (fun e => decide (bits e.2 48 16 ≠ 0 ∨ bits e.2 0 12 ≠ 0)) then none
  else some (win, prins)

/-- The peer table of the current job read: its window and its principals, or none of them and an event (R408). -/
def State.loadPeers (s : State) (p : Nat) : State :=
  let at_ := (s.jobOf p).peertab
  let n := match s.readVirt p at_ 64 with | some h => min 64 (field h 8 4) | none => 0
  let tag := s.pageTag ⟨p, s.jobOf p, none⟩ at_
  let s1 := s.foundForJob p 8 at_ tag (s.virtKeys p at_ (64 + 16 * n)) s.selfPeer
  let t := match s.readVirt p at_ 64, s.readVirt p (at_ + 64) (16 * n) with
    | some h, some e => peerTable h e
    | _, _ => none
  match t with
  | some (win, prins) => s1.modPt p (fun x => { x with job := x.job.map (fun j => { j with win := some win, prins := prins }) })
  | none => s1.memEventJob p (placeDie at_) at_ tag 8 2 s1.selfPeer

/-- A job as its image header describes it, before its peer table is read. -/
def State.jobFrom (s : State) (header : Nat) (job : BitVec 16) (gen : BitVec 12) : Job :=
  { job := job, gen := gen, codeva := s.dword header, root := s.dword (header + 8)
    rootw := (List.range 8).map (fun d => s.dword (header + 0x10 + 8 * d)), peertab := s.dword (header + 0x50)
    evq := s.dword (header + 0x58), save := s.dword (header + 0x60), gridCtr := 0, win := none, prins := []
    urgent := false }

/-- The job becomes the partition's current job. -/
def State.setJob (s : State) (p : Nat) (j : Job) : State := (s.modPt p (fun x => { x with job := some j })).loadPeers p

/-- The parked records of an image: their packets in arrival order; fuel bounds their number. -/
def State.parkedFrom (s : State) : Nat → Nat → Nat → List Packet
  | 0, _, _ => []
  | n + 1, key, left =>
    let len := s.num (key + 4) 4
    let size := 16 + (len + 15) / 16 * 16
    if left < size then []
    else pktOfBytes (s.bytes (key + 16) len) :: s.parkedFrom n (key + size) (left - size)

/-- A parked packet that finds no room in its receive area, or comes behind one, stands in its stream until its engine takes it. -/
def State.keepParked (s : State) (pkt : Packet) : State := { s with inbox := s.inbox ++ [pkt], acked := s.acked ++ [pkt] }

/-- One parked packet delivered to the restored job (R370, R372). It has been acknowledged when it was parked. -/
def State.deliverParked (s : State) (p : Nat) (pkt : Packet) : State :=
  let g := (s.jobOf p).gen
  if pkt.gen ≠ g ∧ pkt.gen ≠ g - 1 then s.dropGen p pkt
  else if isWindowClass pkt.cls then (s.peerSettle p pkt false).1
  else if (s.acked.any (fun q => decide (pktStream q = pktStream pkt))) then s.keepParked pkt
  else if isFirstOfMessage pkt then
    match s.messageCome p pkt with
    | .ok s1 => s1
    | .error 0 => s.keepParked pkt
    | .error _ => { s with dropped := s.dropped + 1 }
  else s.messageGoes p pkt

/-- The parked records of an image delivered to the partition's current job, those of older generations first (R370, R372); none is
left. -/
def State.deliverAllParked (s : State) (p image : Nat) : State :=
  let age (q : Packet) : Nat := ((s.jobOf p).gen - q.gen).toNat
  let qs := s.parkedFrom (s.num (image + 0x88) 4) (image + s.num (image + 0x18) 8) (s.num (image + 0x20) 8)
  let s1 := (sortBy (fun a b => decide (age b < age a)) qs).foldl (fun u q => u.deliverParked p q) s
  if qs = [] then s1 else (s1.putDword (image + 0x20) 0).putWord (image + 0x88) 0

/-- Has the root header of the partition's current job URGENT set (R374)? -/
def State.rootUrgent (s : State) (p : Nat) : Bool :=
  match s.readVirt p (s.jobOf p).root 128 with
  | none => false
  | some bs => (Header.ofBytes bs).urgent

/-- The current job starts: its root header is launched as a slot launch (R335, R356). -/
def State.startJob (s : State) (p : Nat) (urgent : Bool) : State :=
  let root := (s.jobOf p).root
  let tag := s.pageTag ⟨p, s.jobOf p, none⟩ root
  let s0 := s.foundForJob p 8 root tag (s.virtKeys p root 128) s.selfPeer
  let s1 := match s.readVirt p root 128 with
    | some bs =>
      let h := Header.ofBytes bs
      let s1 := s0.slotLaunch p .root (some h)
      if h.urgent then s1.setUrgent p true else s1
    | none => (((s0.slotLaunch p .root none).settleLaunch s0.nextId).memEventJob p (placeDie root) root tag 8 7 s0.selfPeer)
  let s2 := s1.deliverAllParked p (placeKey (s1.jobOf p).save)
  (if urgent then s2.setUrgent p true else s2).endSwitch p 1

/-- The incoming side of a switch once the outgoing job is quiet: idle, a start, or the beginning of a restore, in which the job has its
grid counter and LSSTAT again (R364). -/
def State.incoming (s : State) (p : Nat) (w : Switch) : State :=
  match w.target with
  | none => s.endSwitch p 1
  | some (job, gen, restore) => match s.jobEntry p job with
    | none => s.endSwitch p 2
    | some (_, h) =>
      let j := s.jobFrom (placeKey h) job gen
      let image := placeKey j.save
      let saved : BitVec 12 := (s.word (image + 4)).extractLsb' 16 12
      if !restore then (s.setJob p j).startJob p w.urgent
      else if !(s.word image).getLsbD 0 then s.endSwitch p 4
      else if gen ≠ (if w.returning then saved else saved + 1) then s.endSwitch p 3
      else (s.setJob p { j with gridCtr := s.num (image + 0x28) 4 }).modPt p (fun x => { x with
        lsstat := s.word (image + 0x2C) &&& 0xFF07, switch := some { w with phase := .restoring } })

/-! ## The halt (R361, R362, R382) -/

/-- DRAINW in ns and SAVEW in us, as a halt takes them (R363). -/
def Switch.drainNs (w : Switch) : Nat := 1000 * min 10 (bits w.swctl 8 8)
def Switch.saveUs (w : Switch) : Nat := max 10 (min 70 (bits w.swctl 0 8))

/-- Teams of a partition that are resident. -/
def State.teamsOf (s : State) (p : Nat) : List Nat := (s.teams.map Prod.fst).filter (fun t => decide ((s.tm t).part = p))

def ceilDiv (a b : Nat) : Nat := (a + b - 1) / b

/-- S(m): cycles that a team's record takes, without its copy and far-load records. -/
def State.saveCost (s : State) (t : Nat) : Nat :=
  let tm := s.tm t
  let xs := tm.slices.map s.sl
  let slices := ((xs.filter (fun x => !x.done)).map (fun x => ceilDiv (0xAC0 + 16 * x.liveRegs.length) 64 * 64)).foldl (· + ·) 0
  ceilDiv (1024 + slices + ceilDiv (scratchLive (tm.splimit - tm.spbase) xs) 64 * 64 + 4608 * tm.tiles.length) 3750

/-- D(m): cycles that a team's drain takes. -/
def State.drainCost (s : State) (t : Nat) : Nat :=
  let left := ((s.copies.filter (fun c => decide (c.team = t))).map (fun c => match c.state with
    | .paused _ _ _ => 0
    | _ => (c.kind.total - c.cursor) * c.kind.elem)).foldl (· + ·) 0
  let busy := (s.farsOf t).any (fun f => f.kind.isLoad) || s.recvs.any (fun r => decide (r.team = t) && !r.posted)
  ceilDiv left 64 + if busy then 800 else 0

/-- May a team be discarded (R362)? -/
def State.discardable (s : State) (t : Nat) : Bool :=
  let tm := s.tm t
  let mine (o : GridOwner) : Bool := match o with | .token u _ => decide (u = t) | _ => false
  tm.header.restartable && !s.grids.any (fun g => mine g.owner) && !s.launches.any (fun l => mine l.owner) &&
    !s.recvs.any (fun r => decide (r.team = t) && r.posted)

/-- The team of greatest S, then of lowest linear index. -/
def State.costliest (s : State) : List Nat → Option Nat
  | [] => none
  | t :: r => match s.costliest r with
    | none => some t
    | some u =>
      if s.saveCost u < s.saveCost t ∨ (s.saveCost u = s.saveCost t ∧ (s.tm t).index < (s.tm u).index) then some t else some u

/-- Teams that a cluster discards to come within a budget; fuel is the number of teams. -/
def State.discards (s : State) (budget : Nat) : Nat → Nat → List Nat → List Nat
  | 0, _, _ => []
  | n + 1, e, ts =>
    if e ≤ budget then []
    else match s.costliest ts with
      | none => []
      | some t => t :: s.discards budget n (e - s.saveCost t) (ts.filter (fun u => decide (u ≠ t)))

/-- The choices of one cluster: teams that drain, teams that are discarded; and does its estimate still exceed the budget? -/
def State.clusterChoice (s : State) (p c : Nat) (w : Switch) : List Nat × List Nat × Bool :=
  let ts := (s.clusterTeams c).filter (fun t => decide ((s.tm t).part = p))
  let share := ceilDiv ((colourList (s.pt p).colours).length * 0x180000) 3750
  let e := share + (ts.map s.saveCost).foldl (· + ·) 0
  let gone := s.discards (800 * w.saveUs) ts.length e (ts.filter s.discardable)
  (ts.filter (fun t => decide (s.drainCost t * 1000 ≤ 800 * w.drainNs) && !gone.contains t), gone,
    decide (800 * w.saveUs < e - (gone.map s.saveCost).foldl (· + ·) 0))

/-- The clearance lines of a partition's job leave the caches at its halt (R286). -/
def State.clearLines (s : State) (p : Nat) : State :=
  (List.range 8).foldl (fun u d => u.modDi d (fun x => { x with clears := x.clears.filter (fun l => decide (l.part ≠ p)) })) s

/-- The current job is halted: its clusters choose, the copies of discarded teams stop, borrowed clusters are reclaimed. -/
def State.halt (s : State) (p : Nat) (w : Switch) : State :=
  let w0 : Switch := { w with phase := .draining, haltTime := s.nsWord, haltCycle := s.cycle, swctl := (s.pt p).swctl }
  let cs := (List.range 16).map (fun c => s.clusterChoice p c w0)
  let gone := cs.flatMap (fun x => x.2.1)
  let s1 := (s.clearLines p).borrowed p |>.foldl (fun u c => u.modCl c (fun x => { x with lent := 2 })) (s.clearLines p)
  (s1.modPt p (fun x => { x with switch := some { w0 with drain := cs.flatMap Prod.fst, discard := gone, heavy := cs.any (fun x => x.2.2) } })).dropCopies
    (fun c => gone.contains c.team)

/-- A switch begins: the job directory is taken anew, PREQ falls, and the current job, if any, is halted. -/
def State.beginSwitch (s : State) (p : Nat) (target : Option (BitVec 16 × BitVec 12 × Bool)) (urgent returning : Bool) : State :=
  let s1 := s.modPt p (fun x => { x with jobdirUsed := x.jobdir, preq := false, swstat := setBit x.swstat 0 true })
  let w : Switch :=
    { phase := .quiesce, urgent := urgent, target := target, haltTime := s.nsWord, haltCycle := s.cycle
      swctl := (s.pt p).swctl, drain := [], discard := [], out := none, returning := returning, heavy := false, opened := [], failure := 0 }
  if (s.pt p).job.isNone then (s1.modPt p (fun x => { x with switch := some w })).incoming p w else s1.halt p w

/-- TIMETABLE_START (R356). An entry reaches START: it becomes the current entry, whose CLUSTERS hold from now on, and a switch halts the
current job. One for the current job itself changes nothing of that job, unless PREQ has risen for it: then the switch takes place
(R358; log entry 45). -/
def execTimetableStart (part : Nat) (s : State) : Host.Outcome State Fault Refusal :=
  match s.ttSorted part with
  | [] => .next s
  | e :: _ =>
    if !s.partRuns part ∨ s.ns < e.start.toNat then .next s
    else
      let s1 := ({ s with timetable := s.timetable.erase e }).modPt part (fun x => { x with preempted := none, grant := e.clusters })
      let target := if ttIdle e then none else some (e.job, ttGen e, ttResume e)
      match (s.pt part).job with
      | some j =>
        let risen := (s.pt part).preq && !s1.preqDue part && (s.pt part).urgHalt.isNone
        if ttSwitches j e || risen then .next (s1.beginSwitch part target false false) else .next s1
      | none => .next (s1.beginSwitch part target false false)

/-! ## Draining and saving (R361 to R369, R432) -/

/-- Has a team finished its drain? -/
def State.drainOver (s : State) (t : Nat) : Bool :=
  (s.farsOf t).all (fun f => !f.kind.isLoad) && !s.recvs.any (fun r => decide (r.team = t) && !r.posted) &&
    (s.copies.filter (fun c => decide (c.team = t))).all (fun c => match c.state with | .paused _ _ _ => true | _ => false)

/-- The save windows that open now: that of a cluster opens when its drained teams have finished their drain, and no later than DRAINW
after the halt. -/
def State.openWindows (s : State) (w : Switch) (cs : List Nat) : Assoc Nat :=
  let top := w.haltTime.toNat + w.drainNs
  let ended (c : Nat) : Bool := w.drain.all (fun t => decide (clusterOfCore (coreOfTeam t) ≠ c) || s.drainOver t)
  cs.foldl (fun m c => if (afind m c).isNone ∧ (top ≤ s.ns ∨ ended c) then aput m c (min s.ns top) else m) w.opened

/-- DRAIN_WINDOW_END (R362). The drain window of a cluster expires and its remaining copies stop at an element boundary; it ends early
when every drained team of the cluster has finished its drain. -/
def execDrainWindowEnd (part : Nat) (s : State) : Host.Outcome State Fault Refusal :=
  match (s.pt part).switch with
  | none => .next s
  | some w =>
    if w.phase ≠ .draining then .next s
    else
      let cs := (List.range 16).filter (s.holdsCluster part)
      let o := s.openWindows w cs
      .next (s.modPt part (fun x => { x with switch := some { w with
        phase := if cs.all (fun c => (afind o c).isSome) then .saving else .draining, opened := o } }))

/-- Does a stream wait after a NACK of this SEQ or an earlier one? -/
def State.waitsNacked (s : State) (i : StreamId) (seq : Word) : Bool :=
  match (s.txOf i).nacked with
  | none => false
  | some (m, _) => seqLe m seq

/-- The packets of NACKed streams that belong to a job and generation are abandoned, from the NACKed one on: what they belong to
is recorded with its cursor and sends them again (R373). -/
def State.abandonNacked (s : State) (job : BitVec 16) (gen : BitVec 12) : State :=
  (s.txStreams.map TxStream.id).foldl (fun u i =>
    u.abandon i (fun q => decide (q.job = job ∧ q.gen = gen) && u.waitsNacked i q.seq)) s

/-- A copy of the partition whose element's write has been NACKed stands before that element again (R263, R373). -/
def State.recallWrites (s : State) (p : Nat) : State :=
  (s.copies.filter (fun c => decide ((s.tm c.team).part = p))).foldl (fun u c =>
    match c.asked with
    | some ⟨true, _, n, _⟩ => match u.peerReqs.find? (fun r => decide (r.kind = 1 ∧ r.src = c.id ∧ r.txid = n)) with
      | some r => if u.waitsNacked r.stream r.seq then
          ((u.putCopy { c with asked := none, ans := none, got := [], piece := 0, part := 0 }).dropRequest r).abandon r.stream (fun q => decide (q.seq = r.seq))
        else u
      | none => u
    | _ => u) s

/-- Is every packet of a send settled for its record: accepted, or in a stream that a NACK holds, or still in this package? -/
def State.sendSettled (s : State) (x : SendOp) : Bool :=
  let i : StreamId := ⟨s.selfPeer, BitVec.ofNat 3 x.die, x.dstPeer, x.dstDie, 1⟩
  x.packets.all (fun n => s.waitsNacked i (BitVec.ofNat 32 n) || (s.inboxOf i).any (fun q => decide (q.seq.toNat = n)))

/-- A discarded team leaves: it returns to its grid as released but not started (R362). -/
def State.discardTeam (s : State) (t : Nat) : State :=
  let tm := s.tm t
  let s1 := (s.closeWindow t).closeDenialsOf t
  let s2 := { s1 with
    recvs := s1.recvs.filter (fun r => decide (r.team ≠ t)), sends := s1.sends.filter (fun x => decide (x.team ≠ t))
    wft := s1.wft.filter (fun e => decide (e.team ≠ t)), batches := s1.batches.filter (fun b => decide (b.team ≠ t))
    grids := s1.grids.map (fun (g : Grid) => if g.part = tm.part ∧ g.number = tm.grid then
      { g with started := g.started.filter (fun n => decide (n ≠ tm.index)) } else g) }
  s2.freeTeam t

/-- Landing bytes held for a recorded team go into its recorded scratchpad (R431). -/
def State.applyHeld (s : State) (r : Recv) : State :=
  match s.saved.find? (fun x => decide (savedKey x.id = r.team)) with
  | none => s
  | some t =>
    let m := r.held.foldl (fun (m : Assoc Byte) (e : Nat × Nat × List Byte) =>
      ((List.range e.2.2.length).zip e.2.2).foldl (fun (m : Assoc Byte) (b : Nat × Byte) =>
        match r.place (e.2.1 + b.1) with
        | .ok (some a) => if t.team.spbase ≤ bits a 0 19 ∧ bits a 0 19 < t.team.splimit then aset 0 m (bits a 0 19 - t.team.spbase) b.2 else m
        | _ => m) m) t.scratch
    { s.putRecv { r with held := [] } with
      saved := s.saved.map (fun x => if x.id = t.id then { x with scratch := m } else x) }

/-- What stands for nothing once the job has left: its grids, launches, teams, receives, sends, entries and requests. -/
def State.dropJob (s : State) (p : Nat) (j : Job) (keep : Bool) : State :=
  let mine (r : SavedTeam) : Bool := decide (r.part = p ∧ r.team.job = j.job)
  let s1 := { s with
    grids := s.grids.filter (fun g => decide (g.part ≠ p)), launches := s.launches.filter (fun l => decide (l.part ≠ p))
    kept := s.kept.filter (fun r => !mine r) ++ (if keep then (s.saved.filter mine).map (fun (r : SavedTeam) => { r with words := s.entryWords r }) else [])
    saved := s.saved.filter (fun r => decide (r.part ≠ p)), recvs := s.recvs.filter (fun r => decide (r.part ≠ p))
    sends := s.sends.filter (fun x => decide (x.part ≠ p)), wft := s.wft.filter (fun e => decide (e.part ≠ p))
    inbox := s.inbox.filter (fun q => decide (q.srcPeer ≠ s.selfPeer ∨ q.job ≠ j.job ∨ q.gen ≠ j.gen)) }
  { s1 with peerReqs := s1.peerReqs.filter (fun r => match r.kind.toNat with
      | 0 => (s1.farOf r.src).isSome
      | 1 => (s1.copyOf r.src).isSome
      | _ => (s1.recvOf r.src).isSome) }

/-- The save is closed: launches settle, what is ready finishes, the teams are discarded or recorded, and the image is written. -/
def State.saveJob (s : State) (p : Nat) (w : Switch) : State :=
  let j := s.jobOf p
  let ts := s.teamsOf p
  let s1 := ((s.launches.filter (fun l => decide (l.part = p))).map Launch.id).foldl State.settleLaunch s
  let s2 := ((s1.sends.filter (fun x => decide (x.part = p))).map SendOp.id).foldl State.finishSend s1
  let s3 := ((s2.recvs.filter (fun r => decide (r.part = p))).map Recv.id).foldl State.endRecv s2
  let s4 := (ts.filter (fun t => w.discard.contains t)).foldl State.discardTeam s3
  let s5 := (ts.filter (fun t => !w.discard.contains t)).foldl (fun u t => u.putAway t (w.drain.contains t) false)
    { s4 with cycle := w.haltCycle }
  let s6 := (s5.recvs.filter (fun r => decide (r.part = p ∧ r.held ≠ []))).foldl State.applyHeld { s5 with cycle := s.cycle }
  let late := w.heavy || (w.opened ≠ [] && w.opened.all (fun e => decide (e.2 + 1000 * w.saveUs < s.ns)))
  let s7 := if late then s6.modPt p (fun x => { x with swstat := setBit x.swstat 1 true }) else s6
  let image := placeKey j.save
  let r := match s7.writeImage p image w.haltTime w.urgent late with
    | some u => (u, true)
    | none => ((s7.putWord image (svstate w.urgent late false)).memEventJob p (bits j.save 37 3) j.save 0 8 11 s7.selfPeer, false)
  let s8 := (r.1.dropJob p j r.2).abandonNacked j.job j.gen
  let s9 := (s8.borrowed p).foldl State.returnCluster (s8.clearLines p)
  s9.modPt p (fun x => { x with
    job := none, lsstat := 0, swstat := setBit x.swstat 2 false
    switch := some { w with phase := .quiesce, out := some j, failure := if r.2 then 0 else 5 } })

/-- SAVE_COMPLETE (R369). Every record is written and VALID is set in the save image. Work that answers of peers still hold up
is waited for. -/
def execSaveComplete (part : Nat) (s : State) : Host.Outcome State Fault Refusal :=
  match (s.pt part).switch with
  | none => .next s
  | some w =>
    if w.phase ≠ .saving then .next s
    else
      let s1 := s.recallWrites part
      if (s1.teamsOf part).all s1.quiet ∧ (s1.recvs.filter (fun r => decide (r.part = part))).all (fun r => decide (r.writes = 0)) ∧
          (s1.sends.filter (fun x => decide (x.part = part))).all s1.sendSettled then .next (s1.saveJob part w)
      else .next s1

/-- GENERATION_QUIESCE (R373). All packets of the outgoing generation are settled. -/
def execGenerationQuiesce (part : Nat) (s : State) : Host.Outcome State Fault Refusal :=
  match (s.pt part).switch with
  | none => .next s
  | some w =>
    if w.phase ≠ .quiesce then .next s
    else match w.out with
      | none => .next (s.incoming part w)
      | some j =>
        let s1 := s.abandonNacked j.job j.gen
        if s1.txStreams.any (fun t => t.unacked.any (fun q => decide (q.job = j.job ∧ q.gen = j.gen))) then .next s1
        else .next (s1.incoming part w)

/-! ## Restore (R369, R372, R432) -/

/-- Copies and far loads of saved teams under fresh identifiers. -/
def renumber : List SavedTeam → Nat → List SavedTeam × Nat
  | [], n => ([], n)
  | t :: r, n =>
    let t1 : SavedTeam := { t with
      copies := ((List.range t.copies.length).zip t.copies).map (fun (e : Nat × Copy) => { e.2 with id := n + e.1 })
      fars := ((List.range t.fars.length).zip t.fars).map (fun (e : Nat × Far) =>
        { e.2 with id := n + t.copies.length + e.1, parent := n + t.copies.length + e.1 }) }
    let q := renumber r (n + t.copies.length + t.fars.length)
    (t1 :: q.1, q.2)

/-- The slices of a recorded team that stand in the wait of an entry again: its slice, and under a gang-wide wait those of its gang at
the same address. -/
def SavedTeam.waitsUnder (r : SavedTeam) (e : WftEntry) : List Nat :=
  let lead := ((r.team.slices.zip (r.slices.zip r.halts)).find? (fun x => decide (x.1 = e.slice)))
  match lead with
  | none => []
  | some (_, x, f) => ((r.team.slices.zip (r.slices.zip r.halts)).filter (fun y => decide (y.1 = e.slice) ||
      (decide (e.src = 2 ∨ e.src = 3) && !y.2.1.done && decide (y.2.1.gang = x.gang ∧ y.2.2.word 1 = f.word 1)))).map Prod.fst

/-- A recorded team whose slices stand in the wait of a reinstalled entry, by which it is judged until it is placed (R318). -/
def SavedTeam.waiting (r : SavedTeam) (e : WftEntry) (id : Nat) : SavedTeam :=
  if savedKey r.id ≠ e.team ∨ e.kind ≠ 0 then r
  else
    let ks := r.waitsUnder e
    { r with slices := (r.team.slices.zip r.slices).map (fun y =>
        if ks.contains y.1 then { y.2 with wait := some (.barwait 0 false 0 (some id) 0 0) } else y.2) }

/-- A wait entry reinstalled; TIME and TOREM are kept (R325). Without room anywhere it stands on its die. -/
def State.reinstallEntry (s : State) (e : WftEntry) : State :=
  let (s1, id) := match s.newEntry e e.time with
    | some r => r
    | none => (s.putEntry e e.time, s.nextId)
  { s1 with saved := s1.saved.map (fun r => r.waiting e id) }

/-- A receive reinstalled on its engine, with its posted wait and its place in the spill room. -/
def State.reinstallRecv (s : State) (r : Recv) : State :=
  let place := if r.posted then (s.postRoom r.die r.part r.job).join else none
  let used := s.recvs.filterMap (fun x => x.wft)
  let e := if r.posted then s.wft.find? (fun e => decide (e.kind = 3 ∧ e.team = r.team) && !used.contains e.id) else none
  let s1 := match place with | some (_, m) => s.putMem m (r.block ++ r.desc) | none => s
  { s1 with recvs := s1.recvs ++ [{ r with wft := e.map WftEntry.id, spill := place.map Prod.fst }] }

/-- A scratchpad share read back (R368). -/
def State.readShare (s : State) (key : Nat) (place : Nat → Nat → Nat) (top : Nat) (cs : List Nat) : State × Nat :=
  let index := s.num key 1
  let n := s.num (key + 8) 8
  ((List.range (min n (cs.length * top))).foldl (fun u o => u.putMem (place index (colourByte cs o)) [s.byte (key + 64 + o)]) s,
    key + 64 + n)

def State.readShares (s : State) (place : Nat → Nat → Nat) (top : Nat) (cs : List Nat) : Nat → Nat → State
  | 0, _ => s
  | n + 1, key =>
    let r := s.readShare key place top cs
    r.1.readShares place top cs n r.2

/-- A restored send goes on: an eager one from its cursor, a rendezvous one whose request was not accepted with its request. -/
def State.resumeSend (s : State) (x : SendOp) (sent : Nat) : State :=
  if sent = 0 then s.goSend x
  else if x.rdv then s
  else (cutEager (x.len + 1) sent x.len).foldl (fun t e => t.sendEagerPart x e.1 e.2) s

/-- Uncorrectable errors in the bytes from a key on as the device reads them for a partition's job (R292). -/
def State.foundRange (s : State) (p key n : Nat) : State :=
  ((s.poisoned.map (fun e => 4 * e.1)).filter (fun k => decide (key ≤ k ∧ k < key + n))).foldl (fun u k =>
    u.foundForJob p 8 (BitVec.ofNat 64 k) 0 [k] u.selfPeer) s

/-- The restore of a job from its save image, in the order of R369; the image is read from its first byte to the end of its parked
records (log entry 17). -/
def State.restoreJob (s0 : State) (p : Nat) : State :=
  let j := s0.jobOf p
  let image := placeKey j.save
  let s := s0.foundRange p image (s0.num (image + 0x18) 8 + s0.num (image + 0x20) 8)
  let count (i : Nat) : Nat := s.num (image + 0x70 + 4 * i) 4
  let at_ (i : Nat) : Nat := image + s.num (image + 0x30 + 8 * i) 8
  let cs := colourList (s.pt p).colours
  let id0 := s.nextId
  let gs0 := s.readGrids p (count 0) (at_ 0) id0
  let id1 := id0 + count 0
  let r := renumber (s.readTeams p j (gs0.map Prod.fst) (count 1) (at_ 1) id1) (id1 + count 1)
  let ts := r.1
  let es := (List.range (count 2)).filterMap (s.readEntry p j.job ts (at_ 2))
  let rs := (List.range (count 3)).filterMap (fun i => s.readRecv p j ts (at_ 3 + 192 * i) (r.2 + i))
  -- step 1
  let s1 := (s.readShares clusterKey 0x180000 cs (count 4) (at_ 4)).readShares dieKey 0x200000 cs (count 5) (at_ 5)
  let s2 := es.foldl State.reinstallEntry { s1 with nextId := r.2 + count 3, saved := s1.saved ++ ts }
  let s3 := rs.foldl (fun u x => match x with
    | .recv y => u.reinstallRecv y
    | .send y _ => { u with sends := u.sends ++ [y] }) s2
  -- steps 2 and 3
  let s4 := { s3 with
    grids := s3.grids ++ linkGrids gs0 ts false
    kept := s3.kept.filter (fun t => !decide (t.part = p ∧ t.team.job = j.job)) }
  let s5 := (sortBy s4.savedBefore (s4.saved.filter (fun t => decide (t.part = p)))).foldl (fun u t =>
    (u.tryPlace p (.back t) (u.clustersFor p t.team.header)).getD u) s4
  let s6 := ((s5.recvs.filter (fun x => decide (x.part = p))).map Recv.id).foldl (fun u i => (u.pump i).endRecv i) s5
  let s7 := rs.foldl (fun u x => match x with
    | .recv _ => u
    | .send y n => match u.sends.find? (fun z => decide (z.id = y.id)) with
      | some z => u.resumeSend z n
      | none => u) s6
  -- step 4
  let s8 := s7.deliverAllParked p image
  -- step 5
  let s9 := s8.putWord image (s8.word image &&& ~~~1#32)
  (if s9.rootUrgent p then s9.setUrgent p true else s9).endSwitch p 1

/-- RESTORE (R369). A job is restored from its save image and its first instruction issues. -/
def execRestore (part : Nat) (s : State) : Host.Outcome State Fault Refusal :=
  match (s.pt part).switch with
  | none => .next s
  | some w => if w.phase = .restoring then .next (s.restoreJob part) else .next s

/-! ## SWSTAT and urgent pre-emption (R363, R374, R375) -/

/-- SWSTAT_WRITE (R363). A write to SWSTAT clears LATE. -/
def execSwstatWrite (part : Nat) (s : State) : Host.Outcome State Fault Refusal :=
  .next (s.modPt part (fun x => { x with swstat := setBit x.swstat 1 false }))

/-- Is a job of a partition's directory urgent: has its root header, read now, URGENT set? -/
def State.urgentRoot (s : State) (p : Nat) (job : BitVec 16) : Bool :=
  match s.jobEntry p job with
  | none => false
  | some (_, h) => (s.modPt p (fun x => { x with job := some (s.jobFrom (placeKey h) job 0) })).rootUrgent p

/-- URGCMD_GO (R374). A request for urgent pre-emption is accepted or refused. -/
def execUrgcmdGo (part : Nat) (job : BitVec 16) (gen : BitVec 12) (s : State) : Host.Outcome State Fault Refusal :=
  let s1 := s.modPt part (fun x => { x with urgcmd := 0#4 ++ (gen ++ job) })
  let x := s.pt part
  if x.swstat.getLsbD 0 ∨ x.swstat.getLsbD 2 ∨ !s.urgentRoot part job then
    .next (s1.modPt part (fun y => { y with swstat := setBits y.swstat 8 8 6 }))
  else .next (s1.modPt part (fun y => { y with
    preq := y.job.isSome, urgJob := some (job, gen), urgHalt := some (BitVec.ofNat 64 (s.ns + 1000 * min 20 (bits y.swctl 16 8))) }))

/-- Has a team yielded (R360)? -/
def State.teamYielded (s : State) (t : Nat) : Bool :=
  let live := ((s.tm t).slices.map s.sl).filter (fun x => !x.done)
  decide (live ≠ []) && live.all (fun x => decide (x.wait = some .yieldp))

/-- Does the urgent cooperative window of a partition end: is URGLEAD over, or has every team yielded or retired? -/
def State.urgentDue (s : State) (p : Nat) : Bool :=
  match (s.pt p).urgHalt with
  | none => false
  | some t => s.partRuns p && (decide (t.toNat ≤ s.ns) || (s.teamsOf p).all s.teamYielded)

/-- URGENT_HALT (R375). The urgent cooperative window ends and the partition halts. -/
def execUrgentHalt (part : Nat) (s : State) : Host.Outcome State Fault Refusal :=
  let x := s.pt part
  match x.urgJob with
  | some (job, gen) =>
    if !s.urgentDue part then .next s
    else
      let s1 := s.modPt part (fun y => { y with
        urgHalt := none, urgJob := none, preempted := y.job.map (fun j => (j.job, j.gen))
        grant := if y.job.isSome then y.grant else 0xFFFF })
      .next (s1.beginSwitch part (some (job, gen, false)) true false)
  | none => .next s

/-- URGENT_RETURN (R375). The urgent root grid completes and the pre-empted job is restored, unless an entry has started
since. -/
def execUrgentReturn (part : Nat) (s : State) : Host.Outcome State Fault Refusal :=
  let x := s.pt part
  match x.job, x.preempted with
  | some j, some (job, gen) =>
    if !s.partRuns part ∨ !j.urgent ∨ s.grids.any (fun g => decide (g.part = part ∧ g.owner = .root)) ∨
        s.launches.any (fun l => decide (l.part = part ∧ l.owner = .root)) then .next s
    else .next ((s.modPt part (fun y => { y with preempted := none })).beginSwitch part (some (job, gen, true)) false true)
  | _, _ => .next s

end Sys2Proof.Machine
end

