-- ==== Sys2Proof/Machine/Manage.lean ====
section
/-! DEFINITION. What system software, the host die and the memories' own logic do: translation commands (spec R285), counted
corrections (R290, R291), stopped teams (R389), tenant reset (R393), register writes (R6), host accesses (R305). -/

namespace Sys2Proof.Machine

open Sys2Proof

/-! ## Translation commands (R285) -/

/-- XLCMD as a write of its fields leaves it: BUSY while a command is being applied. -/
def xlWord (action : BitVec 2) (clr : Bool) (job : BitVec 16) (vpn : BitVec 33) : DWord :=
  action ++ (BitVec.ofBool (decide (action ≠ 0)) ++ (BitVec.ofBool clr ++ (0#11 ++ (job ++ vpn))))

def Die.xlBusy (d : Die) : Bool := d.xlcmd.getLsbD 61

/-- A command taken, unless one is being applied. -/
def State.xlStart (s : State) (die : Nat) (w : DWord) : State :=
  if (s.di die).xlBusy then s else s.modDi die (fun d => { d with xlcmd := w })

/-- XLCMD_PAGE (R285). Invalidates cached translations of one page of a job. -/
def execXlcmdPage (die : Nat) (job : BitVec 16) (vpn : BitVec 33) (s : State) : Host.Outcome State Fault Refusal :=
  .next (s.xlStart die (xlWord 1 false job vpn))

/-- XLCMD_JOB (R285). Invalidates every cached translation of a job, optionally clearance lines. -/
def execXlcmdJob (die : Nat) (job : BitVec 16) (clr : Bool) (s : State) : Host.Outcome State Fault Refusal :=
  .next (s.xlStart die (xlWord 2 clr job 0))

/-- XLCMD_ALL (R285). Invalidates every cached translation, optionally all clearance lines. -/
def execXlcmdAll (die : Nat) (clr : Bool) (s : State) : Host.Outcome State Fault Refusal :=
  .next (s.xlStart die (xlWord 3 clr 0 0))

/-- Does a command name a cached translation? A page is named by any of its addresses. -/
def xlNames (w : DWord) (l : Leaf) : Bool :=
  match bits w 62 2 with
  | 1 => decide (l.job = w.extractLsb' 33 16 ∧ l.vpn.toNat % 2 ^ 33 * 4096 / l.size = bits w 0 33 * 4096 / l.size)
  | 2 => decide (l.job = w.extractLsb' 33 16)
  | 3 => true
  | _ => false

/-- Does it name a tag of the memory-side cache? -/
def xlNamesTag (w : DWord) (l : PageTag) : Bool :=
  match bits w 62 2 with
  | 1 => decide (l.job = w.extractLsb' 33 16 ∧ l.vpn.toNat % 2 ^ 33 * 4096 / l.size = bits w 0 33 * 4096 / l.size)
  | 2 => decide (l.job = w.extractLsb' 33 16)
  | 3 => true
  | _ => false

/-- Does it name a held clearance line? -/
def xlNamesLine (w : DWord) (l : ClearLine) : Bool :=
  w.getLsbD 60 && (decide (bits w 62 2 = 3) || (decide (bits w 62 2 = 2) && decide (l.job = w.extractLsb' 33 16)))

/-- XLCMD_DONE (R285). The invalidation completes and BUSY falls. -/
def execXlcmdDone (die : Nat) (s : State) : Host.Outcome State Fault Refusal :=
  if !(s.di die).xlBusy then .next s
  else .next (s.modDi die (fun d => { d with
    xlats := d.xlats.filter (fun l => !xlNames d.xlcmd l), tags := d.tags.filter (fun l => !xlNamesTag d.xlcmd l)
    clears := d.clears.filter (fun l => !xlNamesLine d.xlcmd l)
    xlcmd := setBit d.xlcmd 61 false }))

/-! ## Corrected errors (R290, R291) -/

/-- Hidden spares for the structure of a unit. -/
def eccRoom : EccUnit → Nat
  | .coreBank _ _ => 1
  | .coreSegment _ _ => 1
  | .clusterBank _ _ => 2
  | .dieBank _ _ => 2
  | .hbmFrame _ _ => 0

/-- Do two units share their spares? -/
def eccMates : EccUnit → EccUnit → Bool
  | .coreBank a _, .coreBank b _ => decide (a = b)
  | .coreSegment a _, .coreSegment b _ => decide (a = b)
  | .clusterBank a _, .clusterBank b _ => decide (a = b)
  | .dieBank a _, .dieBank b _ => decide (a = b)
  | _, _ => false

/-- The die of a unit. -/
def eccDie : EccUnit → Nat
  | .coreBank c _ => dieOfCore c
  | .coreSegment c _ => dieOfCore c
  | .clusterBank c _ => dieOfCluster c
  | .dieBank d _ => d
  | .hbmFrame d _ => d

/-- ADDR of a unit's record: the die physical address of an HBM frame; for an SRAM the address of the unit's first byte, or of
its core's scratchpad (log entry 18). -/
def eccAddr : EccUnit → DWord
  | .coreBank c b => localKey c (64 * b)
  | .coreSegment c _ => localKey c 0
  | .clusterBank c b => BitVec.ofNat 64 (2 ^ 62 + c / 2 * 2 ^ 37 + 2 ^ 35 + c % 2 * 2 ^ 34 + 64 * b)
  | .dieBank d b => BitVec.ofNat 64 (2 ^ 62 + d * 2 ^ 37 + 2 ^ 36 + 64 * b)
  | .hbmFrame _ f => BitVec.ofNat 64 (4096 * f)

def State.eccOf (s : State) (u : EccUnit) : EccHist := (s.ecc.find? (fun h => decide (h.unit = u))).getD ⟨u, [], 0, false⟩
def State.putEcc (s : State) (h : EccHist) : State := { s with ecc := s.ecc.filter (fun x => decide (x.unit ≠ h.unit)) ++ [h] }

/-- Is a spare free for a unit? -/
def State.spareFree (s : State) (u : EccUnit) : Bool :=
  decide (((s.ecc.filter (fun h => eccMates u h.unit)).map EccHist.spares).foldl (· + ·) 0 < eccRoom u)

/-- A record of kind 5 or 6 in the management log. TAG 1 says that no spare was free (log entry 18). -/
def State.logUnit (s : State) (u : EccUnit) (kind : BitVec 4) (tag : BitVec 20) : State :=
  s.appendLog (memRecord (eccAddr u) tag 0 kind (whoBits 0 0 0 (eccDie u)) s.selfPeer 1 s.nsWord)

/-- ECC_CORRECTION (R291). A corrected error rewrites the granule and may retire the unit into a spare. -/
def execEccCorrection (unit : EccUnit) (s : State) : Host.Outcome State Fault Refusal :=
  let h := s.eccOf unit
  let times := s.nsWord :: h.times.filter (fun t => decide (s.ns ≤ t.toNat + 10000000000))
  let s1 := s.putEcc { h with times := times }
  if times.length < 16 then .next s1
  else match unit with
    | .hbmFrame _ _ => .next (s1.logUnit unit 6 0)
    | _ =>
      if h.copying then .next s1
      else if s.spareFree unit then .next ((s1.putEcc { h with times := times, spares := h.spares + 1, copying := true }).logUnit unit 5 0)
      else .next (s1.logUnit unit 5 1)

/-- SPARE_COPY_DONE (R291). Retirement copy into a spare ends and the spare answers: a unit without corrections. -/
def execSpareCopyDone (unit : EccUnit) (s : State) : Host.Outcome State Fault Refusal :=
  let h := s.eccOf unit
  if h.copying then .next (s.putEcc { h with copying := false, times := [] }) else .next s

/-! ## Stopped teams (R389) -/

/-- Key of the team that TEAMCMD names. -/
def teamcmdTeam (value : Word) : Nat := 16 * (256 * bits value 0 4 + bits value 4 8) + bits value 12 4

/-- Does the command name a resident team of the partition? -/
def State.teamcmdNames (s : State) (part : Nat) (value : Word) : Bool :=
  (afind s.teams (teamcmdTeam value)).isSome && decide ((s.tm (teamcmdTeam value)).part = part)

/-- A slice ends as EXIT in trap mode ends it (R224). -/
def State.endSlice (s : State) (k : Nat) : State :=
  if (s.sl k).done then s
  else ((s.dropWait k).leave k).modSl k (fun x => { x with
    exited := 0xF, active := 0, stack := [], frame := none, boundary := [], done := true })

/-- The fields of TEAMCMD; the others are reserved. -/
def teamcmdFields : Word := 0xC000FFFF

/-- A write of TEAMCMD: the register holds it, and the command of its ACTION is applied to the team that it names (R389). -/
def State.writeTeamcmd (s0 : State) (part : Nat) (value : Word) : State :=
  let s := s0.modPt part (fun x => { x with teamcmd := value &&& teamcmdFields })
  let t := teamcmdTeam value
  if !s.teamcmdNames part value then s
  else if bits value 30 2 = 1 then
    (s.tm t).slices.foldl (fun u k => match (u.sl k).wait, (u.sl k).frame with
      | some .stopped, some f => (u.returnTrap k f).tryRegang t ((u.sl k).idx / 8)
      | _, _ => u) s
  else if bits value 30 2 = 2 then
    let s1 := (s.tm t).slices.foldl State.endSlice s
    (s1.copies.filter (fun c => decide (c.team = t))).foldl State.abortCopy s1
  else s

/-- TEAMCMD_RESUME (R389). Resumes a stopped team's slices as TRET does. -/
def execTeamcmdResume (part : Nat) (value : Word) (s : State) : Host.Outcome State Fault Refusal :=
  if bits value 30 2 = 1 then .next (s.writeTeamcmd part value) else .next s

/-- TEAMCMD_END (R389). Ends a stopped team and aborts its copies. -/
def execTeamcmdEnd (part : Nat) (value : Word) (s : State) : Host.Outcome State Fault Refusal :=
  if bits value 30 2 = 2 then .next (s.writeTeamcmd part value) else .next s

/-! ## MLOGST (R392) -/

/-- MLOGST_WRITE (R392). A write to MLOGST clears LOST. -/
def execMlogstWrite (s : State) : Host.Outcome State Fault Refusal := .next { s with mlogst := 0 }

/-! ## Tenant reset (R393) -/

/-- PRESET_GO (R393). Starts a tenant reset: isolate, answer by last resort, clear. A switch in progress is abandoned, and
with it its save. -/
def execPresetGo (part : Nat) (s : State) : Host.Outcome State Fault Refusal :=
  let x := s.pt part
  if x.preset = 1 ∨ x.preset = 2 then .next s
  else
    let s1 := (s.borrowed part).foldl (fun u c => u.modCl c (fun y => { y with lent := 2 })) s
    .next (s1.modPt part (fun y => { y with preset := 1, switch := none, swstat := setBit y.swstat 0 false }))

/-- Is a byte of a cluster or die scratchpad of one of some colours (R378)? -/
def ofColours (colours : BitVec 16) (key : Nat) : Bool :=
  decide (2 ^ 41 ≤ key ∧ key < 2 ^ 41 + 2 ^ 31) && colours.getLsbD ((key - 2 ^ 41) % 2 ^ 25 / 64 % 16)

/-- The colours of a partition, zeroed. -/
def State.zeroColours (s : State) (colours : BitVec 16) : State :=
  { s with
    mem := s.mem.filter (fun e => !ofColours colours e.1)
    poisoned := s.poisoned.filter (fun e => !ofColours colours (4 * e.1)) }

/-- The storage of a cluster's cores, and their matrix work, cleared. -/
def State.clearCluster (s : State) (c : Nat) : State :=
  (List.range 256).foldl (fun u i => (u.clearCore (256 * c + i)).modCo (256 * c + i) (fun x => { x with
    shadow := none, win := none, tileJob := [] })) s

/-- A packet of the partition's job that the fabric still holds, answered by the completer of last resort: it asks for nothing more,
and its SEQ stays in its stream, which other partitions share (DESIGN CHOICE, log entry 15). -/
def emptied (q : Packet) : Packet :=
  if groupOf q.cls = 1 then { q with cls := clsMsg, addr := BitVec.allOnes 42, payload := [] }
  else if groupOf q.cls = 2 then { q with cls := clsPcopyw, payload := [] }
  else q

/-- The requests of a job that stand in the fabric ports are gone (R393). -/
def State.emptyPackets (s : State) (job : BitVec 16) : State :=
  { s with txStreams := s.txStreams.map (fun (t : TxStream) =>
      { t with unacked := t.unacked.map (fun q => if q.job = job then emptied q else q) }) }

/-- A run of flits replaced by another of the same length, wherever it stands in a list; fuel is the list's length. -/
def swapRun (old new : List (List Byte)) : Nat → List (List Byte) → List (List Byte)
  | 0, l => l
  | _ + 1, [] => []
  | n + 1, x :: r =>
    if (x :: r).take old.length = old then new ++ swapRun old new n ((x :: r).drop old.length) else x :: swapRun old new n r

/-- The flits of a packet in a port's retry buffer and behind it carry another packet from now on, with filler behind it. -/
def Port.swapPacket (p : Port) (old new : Packet) : Port :=
  let cut (q : Packet) : List (List Byte) := cutFlits (pktBytes q).length (pktBytes q)
  let fill := cut new ++ List.replicate ((cut old).length - (cut new).length) (List.replicate 120 0xFF)
  let all := p.buffer.map Flit.payload ++ p.waiting.map WaitFlit.payload
  let out := swapRun (cut old) fill all.length all
  { p with
    buffer := (p.buffer.zip out).map (fun e => if e.1.payload = e.2 then e.1 else sealFlit { e.1 with payload := e.2 })
    waiting := (p.waiting.zip (out.drop p.buffer.length)).map (fun e => { e.1 with payload := e.2 }) }

/-- The ports' queues and retry buffers are free of a job's requests (R393): on the direct link and on a detour. -/
def State.emptyPorts (s : State) (job : BitVec 16) : State :=
  let qs := (s.txStreams.flatMap TxStream.unacked).filter (fun q => decide (q.job = job))
  let forms := qs.flatMap (fun q => [{ q with det := false, so := false }, { q with det := true, so := false }])
  (List.range 16).foldl (fun u n => u.modPo n (fun p => forms.foldl (fun x q => x.swapPacket q (emptied q)) p)) s

/-- Everything that stands for a partition's job is removed without any save (R393). -/
def State.clearPart (s : State) (p : Nat) : State :=
  let ts := s.teamsOf p
  let gone (t : Nat) : Bool := ts.contains t
  let j := s.jobOf p
  let held := (List.range 16).filter (s.holdsCluster p)
  let s1 := { s with
    denials := s.denials.filter (fun d => !gone d.team), batches := s.batches.filter (fun b => !gone b.team)
    moves := s.moves.filter (fun m => !gone m.team), entries := s.entries.filter (fun e => !gone e.team)
    gangOps := s.gangOps.filter (fun g => !gone g.team), unexpected := s.unexpected.filter (fun u => decide (u.part ≠ p))
    timetable := s.timetable.filter (fun e => decide (ttPart e ≠ p)) }
  let s2 := (ts.foldl State.freeTeam s1).dropJob p j false
  let s3 := ((held.foldl State.clearCluster s2).zeroColours (s.pt p).colours).abandonNacked j.job j.gen |>.emptyPorts j.job |>.emptyPackets j.job
  let s4 := (s3.borrowed p).foldl State.returnCluster (s3.clearLines p)
  s4.modPt p (fun x => { x with
    preset := 2, job := none, switch := none, preq := false, slot := [], lsstat := 0, swstat := 0, preempted := none
    urgHalt := none, urgJob := none })

/-- PRESET_CLEAR_DONE (R393). The reset's clearing completes and STATE becomes done. From STATE 1 the clearing of step 3 is made
and STATE reads 2; from there STATE becomes 3. -/
def execPresetClearDone (part : Nat) (s : State) : Host.Outcome State Fault Refusal :=
  if (s.pt part).preset = 1 then .next (s.clearPart part)
  else if (s.pt part).preset = 2 then .next (s.modPt part (fun x => { x with preset := 3 }))
  else .next s

/-- PRESET_ACKNOWLEDGE (R393). A write of bit 30 returns PRESET STATE from done to idle. -/
def execPresetAcknowledge (part : Nat) (s : State) : Host.Outcome State Fault Refusal :=
  if (s.pt part).preset = 3 then .next (s.modPt part (fun x => { x with preset := 0 })) else .next s

/-! ## Registers without a row of their own (R6) -/

/-- A write of PODCFG: SELF stays, POP and EN are taken, and the ports follow (R398, R403). -/
def State.writePodcfg (s : State) (v : DWord) : State :=
  let s1 := { s with podcfg := (v &&& 0xFFFFFFFF00000000) ||| (s.podcfg &&& 0xFFFFF) }
  ((List.range 16).foldl (fun u n => u.modPo n (fun q => { q with state := s1.portState n })) s1).noteLost

/-- REGISTER_WRITE (R6). A write to a management register that has no row of its own: reserved fields of the value are
ignored. -/
def execRegisterWrite (reg : MgmtReg) (value : DWord) (s : State) : Host.Outcome State Fault Refusal :=
  let w := loWord value
  let place := value &&& 0x000000FFFFFFF001
  .next (match reg with
    | .foehn => { s with foehn := w &&& 0xFF3F }
    | .progq p => s.modPt p (fun x => { x with progq := w &&& 0xFFFFFF })
    | .swctl p => s.modPt p (fun x => { x with swctl := w &&& 0xFFFFFF })
    | .poolcfg d => s.modDi d (fun x => { x with poolcfg := value &&& 0x00000FFFFF00FFFF })
    | .clpwr c => s.modCl c (fun x => { x with clpwr := value &&& 0xFFFFFFFFFFFFC000 })
    | .clwt c half => s.modCl c (fun x => { x with
        clwt := if half then (value &&& 0x00FFFFFFFFFFFFFF) ++ x.clwt.extractLsb' 0 64 else x.clwt.extractLsb' 64 64 ++ value })
    | .clcal c => s.modCl c (fun x => { x with clcal := value &&& 0xFFFFFFFF00000000 })
    | .jobdir p => s.modPt p (fun x => { x with jobdir := place })
    | .telem p => s.modPt p (fun x => { x with telem := place })
    | .mlog => { s with mlog := place }
    | .podcfg => s.writePodcfg value
    | .socfg n => if n ≤ 16 then ({ s with socfg := aset 0 s.socfg n (value.setWidth 8) } : State).noteLost else s
    | .rxcfg d p =>
      if (s.pt p).job.isSome then s
      else s.modDi d (fun x => { x with rxcfg := aset 0 x.rxcfg p (value &&& 0xFC00001FFFFFF000) })
    | .slotWindow p n => if n < 128 then s.modPt p (fun x => { x with slot := aset 0 x.slot n (value.setWidth 8) }) else s
    | .entryWindow p n => if n < 32 then s.modPt p (fun x => { x with window := aset 0 x.window n (value.setWidth 8) }) else s
    | .ptpDomain => { s with ptpDomain := value.setWidth 7 }
    | .ptpPort n => s.modPtp n (fun x => { x with
        e2e := value.getLsbD 0 && decide (16 ≤ n), twoStep := value.getLsbD 1, udp := value.getLsbD 2 && decide (16 ≤ n) })
    | .leaseMember m => { s with lease := { s.lease with
        members := s.lease.members.filter (fun x => decide (x ≠ m)) ++ if value.getLsbD 0 then [m] else [] } }
    | .schedulerId => { s with lease := { s.lease with ident := w } }
    | .stepRecord n => { s with rot := { s.rot with record := adel s.rot.record n } }
    | .thermSensor c => s.modCo c (fun x => { x with therm := value.setWidth 8 })
    | .droopSensor c => s.modCo c (fun x => { x with droop := value.setWidth 8 })
    | .xlcmd d => s.xlStart d (xlWord (value.extractLsb' 62 2) (value.getLsbD 60) (value.extractLsb' 33 16) (value.extractLsb' 0 33))
    | .copycmd c => s.writeCopycmd c w
    | .teamcmd p => s.writeTeamcmd p w
    | .droopEstimate c => s.modCl c (fun x => { x with droopEst := value.setWidth 8 }))

/-! ## Accesses of the host die and of the external host (R305) -/

/-- The new value of a host AMO of w bits. -/
def hostAmo (o : HostAmo) {w : Nat} (old v : BitVec w) : BitVec w :=
  match o with
  | .swap => v
  | .add => old + v
  | .and => old &&& v
  | .or => old ||| v
  | .xor => old ^^^ v
  | .min => if old.toInt ≤ v.toInt then old else v
  | .max => if old.toInt ≤ v.toInt then v else old
  | .minu => if old.toNat ≤ v.toNat then old else v
  | .maxu => if old.toNat ≤ v.toNat then v else old

/-- Has a write touched bytes of HBM since a count of writes? -/
def State.writtenSince (s : State) (key n no : Nat) : Bool :=
  s.overwritten.any (fun e => decide (no ≤ e.1 ∧ 4 * e.2.1 < key + n ∧ key < 4 * e.2.1 + 4))

/-- An access to HBM by its die physical address. Accesses of the model take effect in one order, so the fences of R305 find
nothing to wait for. A hart holds one reservation, and its SC fails once a write has touched the bytes. An access outside HBM reaches
nothing. A poisoned word that a host reads appends no event (DEDUCED, log entry 26). -/
def State.hostAccess (s : State) (a : HostAccess) : State :=
  let ok (die pa n : Nat) : Bool := decide (die < 8 ∧ pa + n ≤ Config.hbmBytes)
  let size (wide : Bool) : Nat := if wide then 8 else 4
  let put (t : State) (wide : Bool) (key : Nat) (v : DWord) : State := t.putMem key (natLe (size wide) v.toNat)
  match a with
  | .load die pa n => if ok die pa n ∧ n ≤ 8 then { s with hostRead := BitVec.ofNat 64 (s.num (hbmKey die pa) n) } else s
  | .store die pa bs => if ok die pa bs.length then s.putMem (hbmKey die pa) bs else s
  | .amo op wide die pa v =>
    let key := hbmKey die pa
    if ok die pa (size wide) then
      { (if wide then s.putDword key (hostAmo op (s.dword key) v) else s.putWord key (hostAmo op (s.word key) (loWord v))) with
        hostRead := BitVec.ofNat 64 (s.num key (size wide)) }
    else s
  | .loadReserved hart wide die pa =>
    let key := hbmKey die pa
    if ok die pa (size wide) then
      { s with hostRead := BitVec.ofNat 64 (s.num key (size wide)), hostRes := aput s.hostRes hart (key, size wide, s.writeNo) }
    else s
  | .storeConditional hart wide die pa v =>
    let key := hbmKey die pa
    let t : State := { s with hostRes := adel s.hostRes hart }
    match afind s.hostRes hart with
    | some (k, n, no) =>
      if k = key ∧ n = size wide ∧ !s.writtenSince key n no then { put t wide key v with hostRead := 0 } else { t with hostRead := 1 }
    | none => { t with hostRead := 1 }
  | .fenceAcq => s
  | .fenceRel => s
  | .fenceAr => s

/-- HOST_DIE_CORE_ACCESS (R305). A host-die core performs a load, store, AMO or fence on package memory under RVWMO. In the
recovery state its operating system has not started (R394). -/
def execHostDieCoreAccess (acc : HostAccess) (s : State) : Host.Outcome State Fault Refusal :=
  if s.rot.recovery then .next s else .next (s.hostAccess acc)

/-- EXTERNAL_HOST_ACCESS (R305). The external host's PCIe posted write or read completion reaches package memory. -/
def execExternalHostAccess (acc : HostAccess) (s : State) : Host.Outcome State Fault Refusal := .next (s.hostAccess acc)

end Sys2Proof.Machine
end

