-- ==== Sys2Proof/Machine/Boot.lean ====
section
/-! DEFINITION. The root of trust: boot, the verification of images, attestation (spec R394 to R396). -/

namespace Sys2Proof.Machine

open Sys2Proof

/-- Is an image accepted (R395): does its key match an unrevoked slot, does its signature hold, is its security version not below
the fused one? -/
def imageOk (fuses : Fuses) (i : SignedImage) : Bool :=
  let key : CurvePoint := ⟨i.keyX.toNat, i.keyY.toNat, 1⟩
  (List.range 4).any (fun n => !fuses.revoked.getLsbD n && decide ((fuses.keySlots.getD n 0).toNat = sha384 key.bytes)) &&
    ecdsaHolds key (sha384 i.image) ⟨i.r, i.s⟩ && decide (fuses.version.toNat ≤ i.version.toNat)

/-- Optional steps, and steps that have an alternate (R394). -/
def stepOptional (n : Nat) : Bool := decide (n = 5 ∨ n = 6 ∨ n = 7)
def stepHasAlternate (n : Nat) : Bool := decide (n = 2 ∨ n = 3 ∨ n = 4 ∨ n = 8 ∨ n = 9)

/-- The image that a step loads by a method. -/
def bootImage (w : BootWork) (n : Nat) (alt : Bool) : Option SignedImage :=
  if n = 2 then some (if alt then w.firmware2 else w.firmware)
  else if n = 9 then some (if alt then w.osImage2 else w.osImage)
  else none

/-- A step record entry: boot count, detail, method, outcome, step. -/
def stepEntry (boot : Word) (detail : BitVec 16) (alt : Bool) (outcome : BitVec 2) (n : Nat) : DWord :=
  boot ++ (detail ++ (0#5 ++ (BitVec.ofBool alt ++ (outcome ++ BitVec.ofNat 8 n))))

/-- Does a step run by its alternate method: it has one, and it failed at the previous boot or has kept the alternate since? -/
def stepAlternate (n : Nat) (prev : DWord) : Bool := stepHasAlternate n && (decide (bits prev 8 2 = 2) || prev.getLsbD 10)

def State.putStep (s : State) (n : Nat) (e : DWord) : State := { s with rot := { s.rot with record := aset 0 s.rot.record n e } }

/-- One step of the boot. A required step that fails ends the boot: in the recovery state when no method is left, else with
its alternate to come at the next boot (log entry 19). -/
def State.bootStep (s : State) (w : BootWork) (old : Assoc DWord) (n : Nat) : State × Bool :=
  let prev := aget 0 old n
  let failed := decide (bits prev 8 2 = 2)
  if stepOptional n ∧ failed then (s.putStep n (stepEntry s.rot.bootCount 0 false 3 n), true)
  else
    let alt := stepAlternate n prev
    let again := failed && !stepHasAlternate n
    let o := (if alt then w.alternate else if again then w.retry else w.primary).getD (n - 1) ⟨false, 0⟩
    let img := bootImage w n alt
    let passed := o.passed && img.all (imageOk s.fuses)
    let s1 := s.putStep n (stepEntry s.rot.bootCount o.detail alt (if passed then 1 else 2) n)
    if passed then
      let s2 := match img with
        | some i => { s1 with rot := { s1.rot with measured := s1.rot.measured ++ [BitVec.ofNat 384 (sha384 i.image)] } }
        | none => s1
      (if n = 1 then { s2 with podcfg := s2.fuses.peer.setWidth 64 }
       else if n = 2 then (List.range 16).foldl (fun u c => u.modCl c (fun x => { x with
         clcal := w.clcal.getD c 0 &&& 0xFFFFFFFF00000000 })) s2
       else if n = 8 then { s2 with rot := { s2.rot with freeRun := alt } }
       else s2, true)
    else if stepOptional n then (s1, true)
    else ({ s1 with rot := { s1.rot with recovery := alt || !stepHasAlternate n } }, false)

/-- The steps in their order, as far as they go. -/
def State.bootSteps (s : State) (w : BootWork) (old : Assoc DWord) : List Nat → State
  | [] => s
  | n :: r =>
    let q := s.bootStep w old n
    if q.2 then q.1.bootSteps w old r else q.1

def bootOrder : List Nat := [1, 2, 3, 4, 5, 6, 7, 8, 9]

/-- BOOT (R394). The root of trust runs the boot steps and records their outcomes. A boot begins from the state after reset; the
fuses, the step record and the boot count outlive it. Every entry begins as not run, with the method that its step will take (log
entry 19). -/
def execBoot (work : BootWork) (s : State) : Host.Outcome State Fault Refusal :=
  let s0 := { State.reset with
    agenda := s.agenda, turnNo := s.turnNo, freeNo := s.freeNo, fuses := s.fuses, podcfg := s.fuses.peer.setWidth 64
    rot := { s.rot with bootCount := s.rot.bootCount + 1, measured := [], recovery := false, freeRun := false } }
  let s1 := bootOrder.foldl (fun u n =>
    u.putStep n (stepEntry u.rot.bootCount 0 (stepAlternate n (aget 0 s.rot.record n)) 0 n)) s0
  .next (s1.bootSteps work s.rot.record bootOrder)

/-- The signature of the root of trust over a digest, by the identity key that it derives from the fused secret and the first of the
numbers that gives both halves a value other than zero. -/
def State.rotSignature (s : State) (digest : Nat) (numbers : List (BitVec 384)) : Option Signature :=
  (numbers.map (fun k => ecdsaSign s.fuses.secret.toNat digest k.toNat)).find? (fun g => decide (g.r ≠ 0 ∧ g.s ≠ 0))

/-- ATTESTATION_REQUEST (R396). Produces a signed attestation report for the requesting partition: the nonce, the measurements,
the peer identifier, PARTCFG, PWRCFG and the signature. A virtual function gets a report for its own partition alone, function p + 1
that for partition p (R377), and none in the recovery state (R394). -/
def execAttestationRequest (part : Nat) (nonce : List (BitVec 8)) (vf : Option Nat) (numbers : List (BitVec 384)) (s : State) :
    Host.Outcome State Fault Refusal :=
  let body := nonce.take 48 ++ List.replicate (48 - nonce.length) 0 ++ s.rot.measured.flatMap (fun m => natBe 48 m.toNat) ++
    natLe 4 s.selfPeer.toNat ++ natLe 8 (s.pt part).partcfg.toNat ++ natLe 8 (s.pt part).pwrcfg.toNat
  match s.rotSignature (sha384 body) numbers with
  | none => .next s
  | some sg =>
    if vf = none ∨ vf = some (part + 1) ∧ !s.rot.recovery then .next { s with rot := { s.rot with report := body ++ natBe 48 sg.r.toNat ++ natBe 48 sg.s.toNat } }
    else .next s

end Sys2Proof.Machine
end

