-- ==== Sys2Proof/Machine/Former.lean ====
section
/-! DEFINITION. The gang former (spec R146, R211): which slices are ready to issue, and the fresh gangs it makes of them. -/

namespace Sys2Proof.Machine

open Sys2Proof

/-! ## What an instruction of one slice waits for -/

/-- The constants that an instruction of a slice reads, where their reading does not fail: one that fails traps and waits for nothing. -/
def State.constsFor (s : State) (i : Instr) (k : Nat) : Option (Assoc Word) :=
  if constsOf i = [] ∨ s.activeOf i [k] = [] then some []
  else match s.fetchConsts (s.sl k).constFence (s.sl k).team (constsOf i) with
    | .ok (m, _) => some m
    | .error _ => none

/-- Does a far instruction of the current slice wait or stall? -/
def State.farHeld (s : State) (i : Instr) (f : Long) (scope : BitVec 3) (kind : FarKind) : Bool :=
  match s.constsFor i s.cur with
  | none => false
  | some cs =>
    let acts := [(s.cur, s.farLanes i f cs kind.width s.cur)]
    s.farWaits f scope acts || s.farStall kind acts

/-- Does a local instruction of the current slice wait? -/
def State.localHeld (s : State) (i : Instr) (f : Long) (scope : BitVec 3) (w : Nat) : Bool :=
  match s.constsFor i s.cur with
  | none => false
  | some cs => s.localWaits f scope w [(s.cur, s.localLanes i f cs w s.cur)]

/-- Does a barrier instruction of the current slice wait? -/
def State.barHeld (s : State) (a : BitVec 6) (kind : BitVec 2) (scope : BitVec 3) : Bool := s.barReleases kind scope || s.barBehind a

/-- Does an instruction of the current slice, a gang of its own, wait or stall where its meaning would issue nothing (R168, R171 to R173,
R177, R198, R211)? -/
def State.waitsFor (s : State) : Instr → Bool
  | .ld f => s.localHeld (.ld f) f f.ldScope (sizeBytes f.size)
  | .st f => s.localHeld (.st f) f f.ldScope (sizeBytes f.size)
  | .atom f => s.localHeld (.atom f) f f.atomScope (if f.ty.regs = 2 then 8 else 4)
  | .atomCas f => s.localHeld (.atomCas f) f f.atomScope (if f.ty.regs = 2 then 8 else 4)
  | .sld _ a imm | .sst _ a imm => s.slWaits a imm
  | .fld f => s.farHeld (.fld f) f f.ldScope (.load f.size f.vd)
  | .fst f => s.farHeld (.fst f) f f.ldScope (.store f.size)
  | .fatom f => s.farHeld (.fatom f) f f.atomScope (.atomic f.atomOp f.ty f.vd)
  | .barinit a _ | .bartx a _ => s.barHeld a 0 0
  | .bararr sc a | .bararrN sc a _ | .bartxArr sc a _ => s.barHeld a 2 sc
  | .barwait sc a _ | .bartry sc _ a _ => s.barHeld a 1 sc
  | .tsync sc => s.relWaits s.cur && !s.clampTraps s.cur sc
  | .waitv loc _ _ _ a _ => s.keyBehind loc a.toNat 4
  | .lockacq loc _ _ _ a => s.keyBehind loc a.toNat 8
  | .lockrel loc sc _ a => s.keyBehind loc a.toNat 8 || s.gangRelWaits sc
  | .mma f => s.fifoStall (.mma f)
  | .mmas f => s.fifoStall (.mmas f)
  | .afill f => s.fifoStall (.afill f)
  | .mmag f => s.mmagStall (.mmag f) f
  | .mmagNolocal f => s.mmagStall (.mmagNolocal f) f
  | .mbatch j | .mbatchArr j _ _ => s.tokenFull j.toNat
  | .copy mc _ j _ _ b | .copytLd mc _ j _ _ b | .copyg mc _ j _ _ b => s.copyStall mc j.toNat b.toNat
  | .copytSt _ j _ _ b | .copytSc _ j _ _ b | .copys _ j _ _ b | .copyr _ _ j _ _ b => s.copyStall false j.toNat b.toNat
  | .launch _ a | .launchParam _ a _ => s.launchStall a.toNat
  | .send rdv j _ b => s.sendStall rdv j.toNat b.toNat
  | .rpost tok _ _ j _ _ => tok && s.tokenFull j.toNat
  | _ => false

/-- Slice k as a gang of its own whose turn it is. -/
def State.apart (s : State) (k : Nat) : State := { s.setGang [k] with cur := k }

/-- Is a slice ready to issue its next instruction in this cycle: neither the interlock, nor an acquire, nor the throttle holds it, and
the instruction neither waits nor stalls (R146, R211)? One that cannot be fetched or decoded traps, and waits for nothing. -/
def State.ready (s : State) (k : Nat) : Bool :=
  match s.fetch (s.sl k).codeFence (s.sl k).team (s.sl k).pc with
  | .error _ => true
  | .ok ((g0, g1, g2), _) => match decode g0 g1 g2 with
    | .error _ => true
    | .ok i => i.beyond ((s.tm (s.sl k).team).header.regs) || (!s.stalls k true i && !(s.apart k).waitsFor i)

/-- Slices of a team that compaction gathers at an address (R146; what is ready: DEDUCED, log entry 56). -/
def State.candidates (s : State) (team : Nat) (pc : Word) : List Nat :=
  (s.tm team).slices.filter (fun k =>
    let x := s.sl k
    !x.done && s.parted k && decide (x.stack = []) && !x.trapMode && decide (x.wait = none) && decide (x.boundary = []) &&
      decide (x.pc = pc) && decide (x.lastIssue ≠ s.cycle + 1) && !(s.members k).any (fun j => (s.sl j).midway) && s.ready k)

/-- Fresh gangs of eight in slice-number order; the fuel is the length of the list. -/
def State.gangsOf8 (s : State) : Nat → List Nat → State
  | 0, _ => s
  | n + 1, ks => if ks = [] then s else (s.setGang (ks.take 8)).gangsOf8 n (ks.drop 8)

/-- GANG_COMPACTION (R146). Parted candidates of one team at equal PCs are regrouped into fresh gangs. -/
def execGangCompaction (team : Nat) (pc : Word) (s : State) : Host.Outcome State Fault Refusal :=
  let cs := s.candidates team pc
  let old := (cs.map (fun k => (s.sl k).gang)).dedup
  if old.length < 2 ∨ !s.teamRuns team then .next s
  else
    .next (((s.leftBehind team cs).gangsOf8 cs.length cs).modSls cs (fun x => { x with granule := none }))

end Sys2Proof.Machine
end

