-- ==== Sys2Proof/Machine/Lane.lean ====
section
/-! DEFINITION. The lane instructions of R218: each computes in its active lanes what LaneInt and LaneFloat say, through the
one path of State.execLane (spec chapters 04 and 05). -/

namespace Sys2Proof.Machine

open Sys2Proof

/-- IADD (R83). Lane integer add. -/
def execIadd (f : Long) (s : State) : Host.Outcome State Fault Refusal := .next (s.execLane (.iadd f))

/-- ISUB (R83). Lane integer subtract. -/
def execIsub (f : Long) (s : State) : Host.Outcome State Fault Refusal := .next (s.execLane (.isub f))

/-- IMUL (R83). Lane integer multiply. -/
def execImul (f : Long) (s : State) : Host.Outcome State Fault Refusal := .next (s.execLane (.imul f))

/-- IMULH (R83). High half of the lane integer product. -/
def execImulh (f : Long) (s : State) : Host.Outcome State Fault Refusal := .next (s.execLane (.imulh f))

/-- IMAD (R83). Lane integer multiply-add. -/
def execImad (f : Long) (s : State) : Host.Outcome State Fault Refusal := .next (s.execLane (.imad f))

/-- IMADW (R84). Widening multiply-add into a 64-bit pair. -/
def execImadw (f : Long) (s : State) : Host.Outcome State Fault Refusal := .next (s.execLane (.imadw f))

/-- IMIN (R83). Lane integer minimum. -/
def execImin (f : Long) (s : State) : Host.Outcome State Fault Refusal := .next (s.execLane (.imin f))

/-- IMAX (R83). Lane integer maximum. -/
def execImax (f : Long) (s : State) : Host.Outcome State Fault Refusal := .next (s.execLane (.imax f))

/-- IABS (R83). Lane integer absolute value. -/
def execIabs (f : Long) (s : State) : Host.Outcome State Fault Refusal := .next (s.execLane (.iabs f))

/-- IAND (R85). Lane bitwise and. -/
def execIand (f : Long) (s : State) : Host.Outcome State Fault Refusal := .next (s.execLane (.iand f))

/-- IOR (R85). Lane bitwise or. -/
def execIor (f : Long) (s : State) : Host.Outcome State Fault Refusal := .next (s.execLane (.ior f))

/-- IXOR (R85). Lane bitwise exclusive or. -/
def execIxor (f : Long) (s : State) : Host.Outcome State Fault Refusal := .next (s.execLane (.ixor f))

/-- IANDN (R85). Lane bitwise and-not. -/
def execIandn (f : Long) (s : State) : Host.Outcome State Fault Refusal := .next (s.execLane (.iandn f))

/-- ISHL (R86). Lane shift left. -/
def execIshl (f : Long) (s : State) : Host.Outcome State Fault Refusal := .next (s.execLane (.ishl f))

/-- ISHR (R86). Lane logical shift right. -/
def execIshr (f : Long) (s : State) : Host.Outcome State Fault Refusal := .next (s.execLane (.ishr f))

/-- ISRA (R86). Lane arithmetic shift right. -/
def execIsra (f : Long) (s : State) : Host.Outcome State Fault Refusal := .next (s.execLane (.isra f))

/-- IROT (R86). Lane rotate left. -/
def execIrot (f : Long) (s : State) : Host.Outcome State Fault Refusal := .next (s.execLane (.irot f))

/-- IPOPC (R87). Lane population count. -/
def execIpopc (f : Long) (s : State) : Host.Outcome State Fault Refusal := .next (s.execLane (.ipopc f))

/-- ICLZ (R87). Lane count of leading zeros. -/
def execIclz (f : Long) (s : State) : Host.Outcome State Fault Refusal := .next (s.execLane (.iclz f))

/-- IBREV (R87). Reverses the bits of each element. -/
def execIbrev (f : Long) (s : State) : Host.Outcome State Fault Refusal := .next (s.execLane (.ibrev f))

/-- IBFX (R88). Extracts a bit field. -/
def execIbfx (f : Long) (s : State) : Host.Outcome State Fault Refusal := .next (s.execLane (.ibfx f))

/-- IBFI (R89). Inserts a bit field into the destination. -/
def execIbfi (f : Long) (s : State) : Host.Outcome State Fault Refusal := .next (s.execLane (.ibfi f))

/-- IPERM (R90). Permutes bytes of two words under a selector. -/
def execIperm (f : Long) (s : State) : Host.Outcome State Fault Refusal := .next (s.execLane (.iperm f))

/-- ICMP (R91). Integer compare into a mask, setting or combining. -/
def execIcmp (f : Long) (s : State) : Host.Outcome State Fault Refusal := .next (s.execLane (.icmp f))

/-- ISAD (R92). Sum of absolute differences. -/
def execIsad (f : Long) (s : State) : Host.Outcome State Fault Refusal := .next (s.execLane (.isad f))

/-- IADD64 (R93). Adds a 32-bit offset to a 64-bit address. -/
def execIadd64 (f : Long) (s : State) : Host.Outcome State Fault Refusal := .next (s.execLane (.iadd64 f))

/-- MOV (R94). Copies an operand into each active lane. -/
def execMov (f : Long) (s : State) : Host.Outcome State Fault Refusal := .next (s.execLane (.mov f))

/-- MOVI (R95). Writes an immediate, optionally as a ramp over virtual lanes. -/
def execMovi (f : Long) (s : State) : Host.Outcome State Fault Refusal := .next (s.execLane (.movi f))

/-- SEL (R96). Selects between two operands under a mask. -/
def execSel (f : Long) (s : State) : Host.Outcome State Fault Refusal := .next (s.execLane (.sel f))

/-- MOVS (R97). Copies a scalar, constant or immediate into an s register. -/
def execMovs (f : Long) (s : State) : Host.Outcome State Fault Refusal := .next (s.execLane (.movs f))

/-- MOVK_TO_MASK (R98). Sets a mask from lane values or a word. -/
def execMovkToMask (f : Long) (s : State) : Host.Outcome State Fault Refusal := .next (s.execLane (.movkToMask f))

/-- MOVK_TO_VECTOR (R98). Expands a mask into all-ones or zero lane words. -/
def execMovkToVector (f : Long) (s : State) : Host.Outcome State Fault Refusal := .next (s.execLane (.movkToVector f))

/-- VTOS (R97). Copies one named lane's value into an s register. -/
def execVtos (f : Long) (s : State) : Host.Outcome State Fault Refusal := .next (s.execLane (.vtos f))

/-- VTOS_FIRST (R97). Copies the lowest active lane's value into an s register. -/
def execVtosFirst (f : Long) (s : State) : Host.Outcome State Fault Refusal := .next (s.execLane (.vtosFirst f))

/-- FADD (R110). Floating add. -/
def execFadd (f : Long) (s : State) : Host.Outcome State Fault Refusal := .next (s.execLane (.fadd f))

/-- FSUB (R110). Floating subtract. -/
def execFsub (f : Long) (s : State) : Host.Outcome State Fault Refusal := .next (s.execLane (.fsub f))

/-- FMUL (R110). Floating multiply. -/
def execFmul (f : Long) (s : State) : Host.Outcome State Fault Refusal := .next (s.execLane (.fmul f))

/-- FFMA (R110). Fused multiply-add with one rounding. -/
def execFfma (f : Long) (s : State) : Host.Outcome State Fault Refusal := .next (s.execLane (.ffma f))

/-- FMIN (R111). Floating minimum. -/
def execFmin (f : Long) (s : State) : Host.Outcome State Fault Refusal := .next (s.execLane (.fmin f))

/-- FMAX (R111). Floating maximum. -/
def execFmax (f : Long) (s : State) : Host.Outcome State Fault Refusal := .next (s.execLane (.fmax f))

/-- FNEG (R112). Inverts the sign bit. -/
def execFneg (f : Long) (s : State) : Host.Outcome State Fault Refusal := .next (s.execLane (.fneg f))

/-- FABS (R112). Clears the sign bit. -/
def execFabs (f : Long) (s : State) : Host.Outcome State Fault Refusal := .next (s.execLane (.fabs f))

/-- FCMP (R113). Floating compare into a mask. -/
def execFcmp (f : Long) (s : State) : Host.Outcome State Fault Refusal := .next (s.execLane (.fcmp f))

/-- FCLASS (R114). Classifies each element. -/
def execFclass (f : Long) (s : State) : Host.Outcome State Fault Refusal := .next (s.execLane (.fclass f))

/-- FRND (R115). Rounds to an integral value. -/
def execFrnd (f : Long) (s : State) : Host.Outcome State Fault Refusal := .next (s.execLane (.frnd f))

/-- FFRAC (R115). Fractional part. -/
def execFfrac (f : Long) (s : State) : Host.Outcome State Fault Refusal := .next (s.execLane (.ffrac f))

/-- FLDEXP (R116). Multiplies by a power of two. -/
def execFldexp (f : Long) (s : State) : Host.Outcome State Fault Refusal := .next (s.execLane (.fldexp f))

/-- FGETEXP (R116). Extracts the binary exponent. -/
def execFgetexp (f : Long) (s : State) : Host.Outcome State Fault Refusal := .next (s.execLane (.fgetexp f))

/-- CVT (R117). Converts between formats of equal element count. -/
def execCvt (f : Long) (s : State) : Host.Outcome State Fault Refusal := .next (s.execLane (.cvt f))

/-- PACK (R119). Converts two words into adjacent packed elements. -/
def execPack (f : Long) (s : State) : Host.Outcome State Fault Refusal := .next (s.execLane (.pack f))

/-- UNPACK (R120). Converts one packed element to a 32-bit value. -/
def execUnpack (f : Long) (s : State) : Host.Outcome State Fault Refusal := .next (s.execLane (.unpack f))

/-- SCALE_FIT (R121). Computes an E8M0 block scale from a block maximum. -/
def execScaleFit (f : Long) (s : State) : Host.Outcome State Fault Refusal := .next (s.execLane (.scaleFit f))

/-- SCALE_APPLY (R121). Multiplies elements by an E8M0 scale. -/
def execScaleApply (f : Long) (s : State) : Host.Outcome State Fault Refusal := .next (s.execLane (.scaleApply f))

/-- RCP (R122). Correctly rounded reciprocal. -/
def execRcp (f : Long) (s : State) : Host.Outcome State Fault Refusal := .next (s.execLane (.rcp f))

/-- RSQ (R122). Correctly rounded reciprocal square root. -/
def execRsq (f : Long) (s : State) : Host.Outcome State Fault Refusal := .next (s.execLane (.rsq f))

/-- SQRT (R122). Correctly rounded square root. -/
def execSqrt (f : Long) (s : State) : Host.Outcome State Fault Refusal := .next (s.execLane (.sqrt f))

/-- EXP2 (R124). Base-2 exponential by the reference procedure. -/
def execExp2 (f : Long) (s : State) : Host.Outcome State Fault Refusal := .next (s.execLane (.exp2 f))

/-- LOG2 (R125). Base-2 logarithm by the reference procedure. -/
def execLog2 (f : Long) (s : State) : Host.Outcome State Fault Refusal := .next (s.execLane (.log2 f))

/-- SINPI (R126). sin(pi x) by the reference procedure. -/
def execSinpi (f : Long) (s : State) : Host.Outcome State Fault Refusal := .next (s.execLane (.sinpi f))

/-- COSPI (R126). cos(pi x) by the reference procedure. -/
def execCospi (f : Long) (s : State) : Host.Outcome State Fault Refusal := .next (s.execLane (.cospi f))

/-- DOT2 (R128). Two-element dot product with accumulator. -/
def execDot2 (f : Long) (s : State) : Host.Outcome State Fault Refusal := .next (s.execLane (.dot2 f))

/-- DOT4 (R128). Four-element dot product with accumulator. -/
def execDot4 (f : Long) (s : State) : Host.Outcome State Fault Refusal := .next (s.execLane (.dot4 f))

/-- DOT8 (R128). Eight-element dot product with accumulator. -/
def execDot8 (f : Long) (s : State) : Host.Outcome State Fault Refusal := .next (s.execLane (.dot8 f))

/-- FUSE (R129). Evaluates a postfix program over up to four inputs. -/
def execFuse (f : FuseWord) (s : State) : Host.Outcome State Fault Refusal := .next (s.execLane (.fuse f))

end Sys2Proof.Machine
end

