-- ==== Sys2Proof/Machine/Dispatch.lean ====
section
/-! DEFINITION. Execution of one instruction or device event: one arm for each constructor of Instr. -/

namespace Sys2Proof.Machine

def exec (i : Instr) (s : State) : Host.Outcome State Fault Refusal :=
  match i with
  | .nop => Sys2Proof.Machine.execNop s
  | .sadd d a b => Sys2Proof.Machine.execSadd d a b s
  | .ssub d a b => Sys2Proof.Machine.execSsub d a b s
  | .smul d a b => Sys2Proof.Machine.execSmul d a b s
  | .smulh d a b => Sys2Proof.Machine.execSmulh d a b s
  | .smulhn d a b => Sys2Proof.Machine.execSmulhn d a b s
  | .sand d a b => Sys2Proof.Machine.execSand d a b s
  | .sor d a b => Sys2Proof.Machine.execSor d a b s
  | .sxor d a b => Sys2Proof.Machine.execSxor d a b s
  | .sandn d a b => Sys2Proof.Machine.execSandn d a b s
  | .sshl d a b => Sys2Proof.Machine.execSshl d a b s
  | .sshr d a b => Sys2Proof.Machine.execSshr d a b s
  | .ssra d a b => Sys2Proof.Machine.execSsra d a b s
  | .srot d a b => Sys2Proof.Machine.execSrot d a b s
  | .smin d a b => Sys2Proof.Machine.execSmin d a b s
  | .smax d a b => Sys2Proof.Machine.execSmax d a b s
  | .sminn d a b => Sys2Proof.Machine.execSminn d a b s
  | .smaxn d a b => Sys2Proof.Machine.execSmaxn d a b s
  | .sclz d a => Sys2Proof.Machine.execSclz d a s
  | .spopc d a => Sys2Proof.Machine.execSpopc d a s
  | .scmp cond d a b => Sys2Proof.Machine.execScmp cond d a b s
  | .smov d a => Sys2Proof.Machine.execSmov d a s
  | .sadd64 d a b => Sys2Proof.Machine.execSadd64 d a b s
  | .ssub64 d a b => Sys2Proof.Machine.execSsub64 d a b s
  | .sshl64 d a b => Sys2Proof.Machine.execSshl64 d a b s
  | .sshr64 d a b => Sys2Proof.Machine.execSshr64 d a b s
  | .saddi d a imm => Sys2Proof.Machine.execSaddi d a imm s
  | .sandi d a imm => Sys2Proof.Machine.execSandi d a imm s
  | .sori d a imm => Sys2Proof.Machine.execSori d a imm s
  | .sxori d a imm => Sys2Proof.Machine.execSxori d a imm s
  | .sshli d a imm => Sys2Proof.Machine.execSshli d a imm s
  | .sshri d a imm => Sys2Proof.Machine.execSshri d a imm s
  | .ssrai d a imm => Sys2Proof.Machine.execSsrai d a imm s
  | .scmpi d a imm => Sys2Proof.Machine.execScmpi d a imm s
  | .slil d imm => Sys2Proof.Machine.execSlil d imm s
  | .slih d imm => Sys2Proof.Machine.execSlih d imm s
  | .br off => Sys2Proof.Machine.execBr off s
  | .brc hint k cond off => Sys2Proof.Machine.execBrc hint k cond off s
  | .brz d off => Sys2Proof.Machine.execBrz d off s
  | .brnz d off => Sys2Proof.Machine.execBrnz d off s
  | .call d off => Sys2Proof.Machine.execCall d off s
  | .ret a => Sys2Proof.Machine.execRet a s
  | .jmpi a => Sys2Proof.Machine.execJmpi a s
  | .ptoken off => Sys2Proof.Machine.execPtoken off s
  | .merge => Sys2Proof.Machine.execMerge s
  | .regang => Sys2Proof.Machine.execRegang s
  | .yield => Sys2Proof.Machine.execYield s
  | .brp hint off => Sys2Proof.Machine.execBrp hint off s
  | .sget d sel => Sys2Proof.Machine.execSget d sel s
  | .sset sel a => Sys2Proof.Machine.execSset sel a s
  | .ssetSet sel a => Sys2Proof.Machine.execSsetSet sel a s
  | .ssetClr sel a => Sys2Proof.Machine.execSsetClr sel a s
  | .yieldp a => Sys2Proof.Machine.execYieldp a s
  | .exit => Sys2Proof.Machine.execExit s
  | .trap imm => Sys2Proof.Machine.execTrap imm s
  | .tret => Sys2Proof.Machine.execTret s
  | .kand d a b => Sys2Proof.Machine.execKand d a b s
  | .kor d a b => Sys2Proof.Machine.execKor d a b s
  | .kxor d a b => Sys2Proof.Machine.execKxor d a b s
  | .kandn d a b => Sys2Proof.Machine.execKandn d a b s
  | .knot d a => Sys2Proof.Machine.execKnot d a s
  | .kmovsToMask d a => Sys2Proof.Machine.execKmovsToMask d a s
  | .kmovsToScalar d a => Sys2Proof.Machine.execKmovsToScalar d a s
  | .kset d imm => Sys2Proof.Machine.execKset d imm s
  | .waitc fl fs cp tl => Sys2Proof.Machine.execWaitc fl fs cp tl s
  | .waitt mask => Sys2Proof.Machine.execWaitt mask s
  | .yieldt mask off => Sys2Proof.Machine.execYieldt mask off s
  | .sld d a imm => Sys2Proof.Machine.execSld d a imm s
  | .sst d a imm => Sys2Proof.Machine.execSst d a imm s
  | .fence kind scope => Sys2Proof.Machine.execFence kind scope s
  | .pfence path => Sys2Proof.Machine.execPfence path s
  | .barinit a b => Sys2Proof.Machine.execBarinit a b s
  | .bararr scope a => Sys2Proof.Machine.execBararr scope a s
  | .bararrN scope a b => Sys2Proof.Machine.execBararrN scope a b s
  | .bartx a b => Sys2Proof.Machine.execBartx a b s
  | .bartxArr scope a b => Sys2Proof.Machine.execBartxArr scope a b s
  | .barwait scope a b => Sys2Proof.Machine.execBarwait scope a b s
  | .bartry scope d a b => Sys2Proof.Machine.execBartry scope d a b s
  | .tsync scope => Sys2Proof.Machine.execTsync scope s
  | .whold loc d a => Sys2Proof.Machine.execWhold loc d a s
  | .wdrop loc kind d a => Sys2Proof.Machine.execWdrop loc kind d a s
  | .wwill loc d a => Sys2Proof.Machine.execWwill loc d a s
  | .waitv loc cond scope d a b => Sys2Proof.Machine.execWaitv loc cond scope d a b s
  | .lockacq loc once scope d a => Sys2Proof.Machine.execLockacq loc once scope d a s
  | .lockrel loc scope d a => Sys2Proof.Machine.execLockrel loc scope d a s
  | .launch d a => Sys2Proof.Machine.execLaunch d a s
  | .launchParam d a b => Sys2Proof.Machine.execLaunchParam d a b s
  | .send rdv j a b => Sys2Proof.Machine.execSend rdv j a b s
  | .rpost tok cq bar j d a => Sys2Proof.Machine.execRpost tok cq bar j d a s
  | .rcancel d a => Sys2Proof.Machine.execRcancel d a s
  | .rprobe d a => Sys2Proof.Machine.execRprobe d a s
  | .copy mc bar j d a b => Sys2Proof.Machine.execCopy mc bar j d a b s
  | .copytLd mc bar j d a b => Sys2Proof.Machine.execCopytLd mc bar j d a b s
  | .copytSt bar j d a b => Sys2Proof.Machine.execCopytSt bar j d a b s
  | .copytSc bar j d a b => Sys2Proof.Machine.execCopytSc bar j d a b s
  | .copyg mc bar j d a b => Sys2Proof.Machine.execCopyg mc bar j d a b s
  | .copys bar j d a b => Sys2Proof.Machine.execCopys bar j d a b s
  | .copyr form bar j d a b => Sys2Proof.Machine.execCopyr form bar j d a b s
  | .tset j a b => Sys2Proof.Machine.execTset j a b s
  | .tsetLo j a => Sys2Proof.Machine.execTsetLo j a s
  | .tsetHi j a => Sys2Proof.Machine.execTsetHi j a s
  | .tget d j => Sys2Proof.Machine.execTget d j s
  | .tgetHi d j => Sys2Proof.Machine.execTgetHi d j s
  | .mbatch j => Sys2Proof.Machine.execMbatch j s
  | .mbatchArr j a b => Sys2Proof.Machine.execMbatchArr j a b s
  | .mmagokOpen d a b => Sys2Proof.Machine.execMmagokOpen d a b s
  | .mmagokClose d => Sys2Proof.Machine.execMmagokClose d s
  | .iadd f => Sys2Proof.Machine.execIadd f s
  | .isub f => Sys2Proof.Machine.execIsub f s
  | .imul f => Sys2Proof.Machine.execImul f s
  | .imulh f => Sys2Proof.Machine.execImulh f s
  | .imad f => Sys2Proof.Machine.execImad f s
  | .imadw f => Sys2Proof.Machine.execImadw f s
  | .imin f => Sys2Proof.Machine.execImin f s
  | .imax f => Sys2Proof.Machine.execImax f s
  | .iabs f => Sys2Proof.Machine.execIabs f s
  | .iand f => Sys2Proof.Machine.execIand f s
  | .ior f => Sys2Proof.Machine.execIor f s
  | .ixor f => Sys2Proof.Machine.execIxor f s
  | .iandn f => Sys2Proof.Machine.execIandn f s
  | .ishl f => Sys2Proof.Machine.execIshl f s
  | .ishr f => Sys2Proof.Machine.execIshr f s
  | .isra f => Sys2Proof.Machine.execIsra f s
  | .irot f => Sys2Proof.Machine.execIrot f s
  | .ipopc f => Sys2Proof.Machine.execIpopc f s
  | .iclz f => Sys2Proof.Machine.execIclz f s
  | .ibfx f => Sys2Proof.Machine.execIbfx f s
  | .ibfi f => Sys2Proof.Machine.execIbfi f s
  | .ibrev f => Sys2Proof.Machine.execIbrev f s
  | .iperm f => Sys2Proof.Machine.execIperm f s
  | .icmp f => Sys2Proof.Machine.execIcmp f s
  | .isad f => Sys2Proof.Machine.execIsad f s
  | .iadd64 f => Sys2Proof.Machine.execIadd64 f s
  | .mov f => Sys2Proof.Machine.execMov f s
  | .movi f => Sys2Proof.Machine.execMovi f s
  | .sel f => Sys2Proof.Machine.execSel f s
  | .movs f => Sys2Proof.Machine.execMovs f s
  | .movkToMask f => Sys2Proof.Machine.execMovkToMask f s
  | .movkToVector f => Sys2Proof.Machine.execMovkToVector f s
  | .vtos f => Sys2Proof.Machine.execVtos f s
  | .vtosFirst f => Sys2Proof.Machine.execVtosFirst f s
  | .fadd f => Sys2Proof.Machine.execFadd f s
  | .fsub f => Sys2Proof.Machine.execFsub f s
  | .fmul f => Sys2Proof.Machine.execFmul f s
  | .ffma f => Sys2Proof.Machine.execFfma f s
  | .fmin f => Sys2Proof.Machine.execFmin f s
  | .fmax f => Sys2Proof.Machine.execFmax f s
  | .fneg f => Sys2Proof.Machine.execFneg f s
  | .fabs f => Sys2Proof.Machine.execFabs f s
  | .fcmp f => Sys2Proof.Machine.execFcmp f s
  | .fclass f => Sys2Proof.Machine.execFclass f s
  | .frnd f => Sys2Proof.Machine.execFrnd f s
  | .ffrac f => Sys2Proof.Machine.execFfrac f s
  | .fldexp f => Sys2Proof.Machine.execFldexp f s
  | .fgetexp f => Sys2Proof.Machine.execFgetexp f s
  | .cvt f => Sys2Proof.Machine.execCvt f s
  | .pack f => Sys2Proof.Machine.execPack f s
  | .unpack f => Sys2Proof.Machine.execUnpack f s
  | .scaleFit f => Sys2Proof.Machine.execScaleFit f s
  | .scaleApply f => Sys2Proof.Machine.execScaleApply f s
  | .rcp f => Sys2Proof.Machine.execRcp f s
  | .rsq f => Sys2Proof.Machine.execRsq f s
  | .sqrt f => Sys2Proof.Machine.execSqrt f s
  | .exp2 f => Sys2Proof.Machine.execExp2 f s
  | .log2 f => Sys2Proof.Machine.execLog2 f s
  | .sinpi f => Sys2Proof.Machine.execSinpi f s
  | .cospi f => Sys2Proof.Machine.execCospi f s
  | .dot2 f => Sys2Proof.Machine.execDot2 f s
  | .dot4 f => Sys2Proof.Machine.execDot4 f s
  | .dot8 f => Sys2Proof.Machine.execDot8 f s
  | .fuse f => Sys2Proof.Machine.execFuse f s
  | .laneid f => Sys2Proof.Machine.execLaneid f s
  | .plane f => Sys2Proof.Machine.execPlane f s
  | .shfl f => Sys2Proof.Machine.execShfl f s
  | .shflx f => Sys2Proof.Machine.execShflx f s
  | .bcast f => Sys2Proof.Machine.execBcast f s
  | .bcastFirst f => Sys2Proof.Machine.execBcastFirst f s
  | .vote f => Sys2Proof.Machine.execVote f s
  | .reduce f => Sys2Proof.Machine.execReduce f s
  | .scan f => Sys2Proof.Machine.execScan f s
  | .ld f => Sys2Proof.Machine.execLd f s
  | .st f => Sys2Proof.Machine.execSt f s
  | .atom f => Sys2Proof.Machine.execAtom f s
  | .atomCas f => Sys2Proof.Machine.execAtomCas f s
  | .fld f => Sys2Proof.Machine.execFld f s
  | .fst f => Sys2Proof.Machine.execFst f s
  | .fatom f => Sys2Proof.Machine.execFatom f s
  | .tld f => Sys2Proof.Machine.execTld f s
  | .tst f => Sys2Proof.Machine.execTst f s
  | .ttrans f => Sys2Proof.Machine.execTtrans f s
  | .mma f => Sys2Proof.Machine.execMma f s
  | .mmas f => Sys2Proof.Machine.execMmas f s
  | .mmag f => Sys2Proof.Machine.execMmag f s
  | .mmagNolocal f => Sys2Proof.Machine.execMmagNolocal f s
  | .afill f => Sys2Proof.Machine.execAfill f s
  | .gangCompaction team pc => Sys2Proof.Machine.execGangCompaction team pc s
  | .regangTimerExpiry team gang => Sys2Proof.Machine.execRegangTimerExpiry team gang s
  | .fairnessSwitch slice => Sys2Proof.Machine.execFairnessSwitch slice s
  | .boundaryTrap slice => Sys2Proof.Machine.execBoundaryTrap slice s
  | .trapBackoffExpiry slice => Sys2Proof.Machine.execTrapBackoffExpiry slice s
  | .coalesceFarRequests far => Sys2Proof.Machine.execCoalesceFarRequests far s
  | .farResponse req => Sys2Proof.Machine.execFarResponse req s
  | .farTimeout req => Sys2Proof.Machine.execFarTimeout req s
  | .translationWalk part va => Sys2Proof.Machine.execTranslationWalk part va s
  | .denialRecordClose record => Sys2Proof.Machine.execDenialRecordClose record s
  | .eccCorrection unit => Sys2Proof.Machine.execEccCorrection unit s
  | .spareCopyDone unit => Sys2Proof.Machine.execSpareCopyDone unit s
  | .tileMoveDone move => Sys2Proof.Machine.execTileMoveDone move s
  | .matrixEntryStart entry => Sys2Proof.Machine.execMatrixEntryStart entry s
  | .matrixWritebackEnd entry => Sys2Proof.Machine.execMatrixWritebackEnd entry s
  | .shadowCheck core => Sys2Proof.Machine.execShadowCheck core s
  | .mmagDelivery op pos => Sys2Proof.Machine.execMmagDelivery op pos s
  | .mmagComplete op => Sys2Proof.Machine.execMmagComplete op s
  | .copyDispatch cluster copy => Sys2Proof.Machine.execCopyDispatch cluster copy s
  | .copyCredit copy count => Sys2Proof.Machine.execCopyCredit copy count s
  | .copyFinish copy => Sys2Proof.Machine.execCopyFinish copy s
  | .copyPause copy handle => Sys2Proof.Machine.execCopyPause copy handle s
  | .copycmdResume cluster handle => Sys2Proof.Machine.execCopycmdResume cluster handle s
  | .copycmdAbort cluster handle => Sys2Proof.Machine.execCopycmdAbort cluster handle s
  | .barwaitEnd slice => Sys2Proof.Machine.execBarwaitEnd slice s
  | .tsyncComplete team => Sys2Proof.Machine.execTsyncComplete team s
  | .waitcEnd slice => Sys2Proof.Machine.execWaitcEnd slice s
  | .waittEnd slice => Sys2Proof.Machine.execWaittEnd slice s
  | .yieldtResume slice => Sys2Proof.Machine.execYieldtResume slice s
  | .fenceComplete slice => Sys2Proof.Machine.execFenceComplete slice s
  | .waitvReevaluate slice => Sys2Proof.Machine.execWaitvReevaluate slice s
  | .lockacqRetry slice => Sys2Proof.Machine.execLockacqRetry slice s
  | .mmagokCloseEnd slice => Sys2Proof.Machine.execMmagokCloseEnd slice s
  | .unregisteredWaitRecheck slice => Sys2Proof.Machine.execUnregisteredWaitRecheck slice s
  | .remoteWaitTimeout slice => Sys2Proof.Machine.execRemoteWaitTimeout slice s
  | .wftWalk slice => Sys2Proof.Machine.execWftWalk slice s
  | .wftProbe die team => Sys2Proof.Machine.execWftProbe die team s
  | .watchdog team => Sys2Proof.Machine.execWatchdog team s
  | .launchSettle launch => Sys2Proof.Machine.execLaunchSettle launch s
  | .lsctlGo part => Sys2Proof.Machine.execLsctlGo part s
  | .teamPlace part => Sys2Proof.Machine.execTeamPlace part s
  | .coreWake core => Sys2Proof.Machine.execCoreWake core s
  | .teamRetire team => Sys2Proof.Machine.execTeamRetire team s
  | .quantumBoundary part => Sys2Proof.Machine.execQuantumBoundary part s
  | .idleGating whole unit => Sys2Proof.Machine.execIdleGating whole unit s
  | .ptpMessage msg => Sys2Proof.Machine.execPtpMessage msg s
  | .timeStep time => Sys2Proof.Machine.execTimeStep time s
  | .timestatWrite => Sys2Proof.Machine.execTimestatWrite s
  | .leaseMessage id stamp => Sys2Proof.Machine.execLeaseMessage id stamp s
  | .leaseTimeout => Sys2Proof.Machine.execLeaseTimeout s
  | .electionDecide => Sys2Proof.Machine.execElectionDecide s
  | .timetableEntryArrival entry => Sys2Proof.Machine.execTimetableEntryArrival entry s
  | .ltctlGo part => Sys2Proof.Machine.execLtctlGo part s
  | .preqRise part => Sys2Proof.Machine.execPreqRise part s
  | .timetableStart part => Sys2Proof.Machine.execTimetableStart part s
  | .drainWindowEnd part => Sys2Proof.Machine.execDrainWindowEnd part s
  | .saveComplete part => Sys2Proof.Machine.execSaveComplete part s
  | .restore part => Sys2Proof.Machine.execRestore part s
  | .generationQuiesce part => Sys2Proof.Machine.execGenerationQuiesce part s
  | .swstatWrite part => Sys2Proof.Machine.execSwstatWrite part s
  | .urgcmdGo part job gen => Sys2Proof.Machine.execUrgcmdGo part job gen s
  | .urgentHalt part => Sys2Proof.Machine.execUrgentHalt part s
  | .urgentReturn part => Sys2Proof.Machine.execUrgentReturn part s
  | .packetArrival come => Sys2Proof.Machine.execPacketArrival come s
  | .nackRetry nack => Sys2Proof.Machine.execNackRetry nack s
  | .parkRetry stream => Sys2Proof.Machine.execParkRetry stream s
  | .peerRequest pkt => Sys2Proof.Machine.execPeerRequest pkt s
  | .answerArrival pkt => Sys2Proof.Machine.execAnswerArrival pkt s
  | .flitReceive port flit => Sys2Proof.Machine.execFlitReceive port flit s
  | .laneLockLoss port => Sys2Proof.Machine.execLaneLockLoss port s
  | .linkRetrainDone port width => Sys2Proof.Machine.execLinkRetrainDone port width s
  | .linkWidenAttempt port ok => Sys2Proof.Machine.execLinkWidenAttempt port ok s
  | .linkDownRetry port => Sys2Proof.Machine.execLinkDownRetry port s
  | .linkReport port usable => Sys2Proof.Machine.execLinkReport port usable s
  | .linkstWrite port => Sys2Proof.Machine.execLinkstWrite port s
  | .pathChangeResend stream => Sys2Proof.Machine.execPathChangeResend stream s
  | .scaleoutResend stream => Sys2Proof.Machine.execScaleoutResend stream s
  | .messageArrival pkt => Sys2Proof.Machine.execMessageArrival pkt s
  | .messagePacketLanding pkt => Sys2Proof.Machine.execMessagePacketLanding pkt s
  | .pullRequest pkt => Sys2Proof.Machine.execPullRequest pkt s
  | .pullAnswer pkt => Sys2Proof.Machine.execPullAnswer pkt s
  | .sendFinish send => Sys2Proof.Machine.execSendFinish send s
  | .receiveComplete recv => Sys2Proof.Machine.execReceiveComplete recv s
  | .xlcmdPage die job vpn => Sys2Proof.Machine.execXlcmdPage die job vpn s
  | .xlcmdJob die job clr => Sys2Proof.Machine.execXlcmdJob die job clr s
  | .xlcmdAll die clr => Sys2Proof.Machine.execXlcmdAll die clr s
  | .xlcmdDone die => Sys2Proof.Machine.execXlcmdDone die s
  | .wftspillWrite die part value => Sys2Proof.Machine.execWftspillWrite die part value s
  | .wftstatWrite die => Sys2Proof.Machine.execWftstatWrite die s
  | .partcfgWrite part value => Sys2Proof.Machine.execPartcfgWrite part value s
  | .copyqosWrite die part value => Sys2Proof.Machine.execCopyqosWrite die part value s
  | .copyTokenRefill die => Sys2Proof.Machine.execCopyTokenRefill die s
  | .clendLend cluster borrower => Sys2Proof.Machine.execClendLend cluster borrower s
  | .clendReclaim cluster => Sys2Proof.Machine.execClendReclaim cluster s
  | .reclaimComplete cluster => Sys2Proof.Machine.execReclaimComplete cluster s
  | .pwrcfgWrite part value => Sys2Proof.Machine.execPwrcfgWrite part value s
  | .regulatorReconnect cluster => Sys2Proof.Machine.execRegulatorReconnect cluster s
  | .rggroupWrite group value => Sys2Proof.Machine.execRggroupWrite group value s
  | .powerMeterUpdate part => Sys2Proof.Machine.execPowerMeterUpdate part s
  | .teamcmdResume part value => Sys2Proof.Machine.execTeamcmdResume part value s
  | .teamcmdEnd part value => Sys2Proof.Machine.execTeamcmdEnd part value s
  | .mlogstWrite => Sys2Proof.Machine.execMlogstWrite s
  | .presetGo part => Sys2Proof.Machine.execPresetGo part s
  | .presetClearDone part => Sys2Proof.Machine.execPresetClearDone part s
  | .presetAcknowledge part => Sys2Proof.Machine.execPresetAcknowledge part s
  | .boot work => Sys2Proof.Machine.execBoot work s
  | .attestationRequest part nonce vf numbers => Sys2Proof.Machine.execAttestationRequest part nonce vf numbers s
  | .registerWrite reg value => Sys2Proof.Machine.execRegisterWrite reg value s
  | .holdover drift => Sys2Proof.Machine.execHoldover drift s
  | .leaseSend => Sys2Proof.Machine.execLeaseSend s
  | .ethernetPortLinkChange port up => Sys2Proof.Machine.execEthernetPortLinkChange port up s
  | .hostDieCoreAccess acc => Sys2Proof.Machine.execHostDieCoreAccess acc s
  | .externalHostAccess acc => Sys2Proof.Machine.execExternalHostAccess acc s
  | .rggroupRampDone group => Sys2Proof.Machine.execRggroupRampDone group s

end Sys2Proof.Machine
end

