-- ==== Sys2Proof/Machine/Turns.lean ====
section
/-! DEFINITION. The turns of the machine beside instructions and events: the clock (R348, R388), errors that arise in
memories and registers (R29, R292), what a slice does when its turn to issue comes (R58, R71, R211, R302), and the placing
of one instruction where the next step fetches it. -/

namespace Sys2Proof.Machine

open Sys2Proof

/-- What the hardware does in a cycle before anything else of that cycle: in the first of a us of global time the token buckets are
refilled and the meters updated (R380, R386), the requests and entries of the timetable whose time has come act (R356, R358,
R361), and then urgent cooperative windows end (R375) and quantum boundaries fall (R343). `before` is the global time of the cycle before. -/
def State.callHardware (before : Nat) (s : State) : State :=
  let us : List Turn :=
    if before / 1000 = s.ns / 1000 then []
    else (List.range 8).map Turn.refill ++
      ((List.range 16).filter (fun p => (s.pt p).en)).map Turn.meter
  let preq : List Turn := ((List.range 16).filter (fun p =>
    decide (s.timetable ≠ []) && !(s.pt p).preq && (s.pt p).switch.isNone && s.preqDue p)).map Turn.preq
  let s1 := State.callStarts { s with agenda := s.agenda ++ us ++ preq }
  { s1 with agenda := s1.agenda ++ ((List.range 16).filter s.urgentDue).map Turn.urgent ++
      ((List.range 16).filter (fun p => s.partRuns p && (s.pt p).job.isSome &&
        decide ((s.pt p).nextQuantum.toNat ≤ s.ns))).map Turn.quantum }

/-- A cycle of 800 MHz in which the core's own clock does not tick: the counts in cycles of a slice stand still (R384). -/
def Wait.later (now : Nat) : Wait → Wait
  | .backoff till h r => .backoff (if now < till then till + 1 else till) h r
  | .barwait a p c e next b => .barwait a p c e (if now < next then next + 1 else next) b
  | .tsync c e next b => .tsync c e (if now < next then next + 1 else next) b
  | .key w l => .key { w with next := if now < w.next then w.next + 1 else w.next } l
  | w => w

def Slice.later (x : Slice) (now : Nat) : Slice :=
  { x with
    wait := x.wait.map (Wait.later now), lastIssue := if x.lastIssue = 0 then 0 else x.lastIssue + 1
    inflight := x.inflight.map (fun r => if now < r.due then { r with due := r.due + 1 } else r) }

def Team.later (t : Team) (now : Nat) : Team :=
  { t with
    rgDue := t.rgDue.map (fun e => if now < e.2 then (e.1, e.2 + 1) else e)
    pend := t.pend.map (fun e => if now < e.1 then (e.1 + 1, e.2) else e) }

/-- Does a team count this cycle: does its core's clock tick in it, or is its partition halted, whose counts stand as they stood then
(R361, R384)? -/
def State.counts (s : State) (t : Nat) : Bool := s.clockEdge (coreOfTeam t) || !s.partRuns (s.tm t).part

/-- The counts of the cores whose clocks do not tick in this cycle stand still (R384). -/
def State.slowClocks (s : State) : State :=
  { s with
    slices := s.slices.map (fun e => if s.counts e.2.team then e else (e.1, e.2.later s.cycle))
    teams := s.teams.map (fun e => if s.counts e.1 then e else (e.1, e.2.later s.cycle)) }

/-- One core clock cycle passes: the watchdog counts, global time, what reads of pending registers find (R169), and the writes to TRAPVEC and PRIO that are seen from now on
(R16, R348, R388). -/
def State.tick (s : State) : State :=
  let s1 := s.wdTick.slowClocks.holdTimers ((s.time + s.increment) / 65536 - s.ns)
  State.callHardware s.ns (State.parentShown { s1 with
    cycle := s.cycle + 1
    time := s.time + s.increment
    slices := s1.slices.map (fun e => (e.1, if e.2.landings = [] then e.2 else e.2.reveal (fun n =>
      Config.showsLanded s.freeNo (4096 * e.1 + n))))
    teams := s1.teams.map (fun e => (e.1, e.2.seenBy (s.cycle + 1))) })

/-- An uncorrectable error in the granule that holds a byte (R290, R292): 32 bytes of HBM, 8 of another memory; each of
its words is poisoned, and its event is still to come. -/
def State.upsetMem (s : State) (key : Nat) : State :=
  let g := if key < 2 ^ 40 then 32 else 8
  { s with poisoned := (List.range (g / 4)).foldl (fun m i => aput m (key / g * (g / 4) + i) true) s.poisoned }

/-- The words of a register file that share a check granule of 64 bits (R290; which they are: log entry 18). -/
def regGranule (scalar : Bool) (reg lane : Nat) : List (Bool × Nat × Nat) :=
  if scalar then [(true, reg / 2 * 2, 0), (true, reg / 2 * 2 + 1, 0)]
  else [(false, reg, lane / 2 * 2), (false, reg, lane / 2 * 2 + 1)]

/-- An uncorrectable error in the granule of a register that is not yet found (R29, R290). -/
def State.upsetReg (s : State) (k : Nat) (scalar : Bool) (reg lane : Nat) : State :=
  s.modSl k (fun x => { x with bad := regGranule scalar reg lane ++ x.bad })

/-- An uncorrectable error in a granule of a receive's captured block and descriptor: two words read as POISON_WORD from now on (R292). -/
def State.upsetRecv (s : State) (id g : Nat) : State :=
  s.modRecv id (fun r =>
    let bs := setField (r.block ++ r.desc) (8 * (g % 16)) (natLe 4 poisonWord.toNat ++ natLe 4 poisonWord.toNat)
    { r with block := bs.take 64, desc := bs.drop 64, unfound := true })

/-- Slice k issues an instruction: one that each slice of the gang executes for itself is fetched once for all of them (R60, R212). -/
def State.issuing (s : State) (k : Nat) (i : Instr) (g0 : Word) : State :=
  if isPerSlice i then
    { s.modSls ((s.members k).filter (fun j => !(s.sl j).midway)) (fun x => { x with granule := some g0 }) with cur := k }
  else { s with cur := k }

/-- What a slice does with its turn: nothing when it cannot issue; else it fetches at its PC. The slices of a gang issue a per-slice instruction in
position order (R212). The answer is the state with
the slice current and the instruction to execute, or the state when there is none to execute. -/
def State.issueTurn (s : State) (k : Nat) : Sum State (Instr × State) :=
  if !s.canIssue k then .inl s
  else
    let t := (s.sl k).team
    let ms := (s.members k).filter (fun j => !(s.sl j).midway)
    match s.fetchAt k with
    | .error e => .inl (s.fetchTrap ms e)
    | .ok ((g0, g1, g2), s1) =>
      match decode g0 g1 g2 with
      | .error code => .inl (s1.illegalTrap ms code g0)
      | .ok i =>
        if i.beyond ((s1.tm t).header.regs) then .inl (s1.illegalTrap ms 7 g0)
        else if s1.stalls k (isPerSlice i) i ∨ (isPerSlice i ∧ ms.head? ≠ some k) then .inl s1
        else .inr (i, s1.issuing k i g0)

/-! ## Placing one instruction (log entry 6) -/

/-- Where the placed instruction stands, in the code space and in HBM of die 0. -/
def placePc : Word := 0x2000

/-- The header of the placed team: one slice, 256 registers, all 16 tiles, the clearance bitmap at 0x3000, the trap
vector at 0x2400. -/
def placeHeader : Header :=
  { Header.zero with
    entry := placePc, shape := 0x0C0010E0, widths := 2, fair := 1024, trapvec := 0x2400, clear := 0x3000 }

/-- The job of the placed team: one 1 GiB page maps the first GiB of die 0 with every permission. -/
def placeJob : Job :=
  { Job.absent with job := 1, rootw := [0x8001] }

/-- What the placing stores in HBM of die 0: two page tables, the bitmap byte that clears tag 0, and the granules. -/
def placeBytes (gs : List Word) : List (Nat × List Byte) :=
  [(0x3000, [1]), (0x8000, natLe 8 0x9001), (0x9000, natLe 8 0x1F), (0x2000, gs.flatMap (fun g => natLe 4 g.toNat))]

/-- A running partition 0 with one team on core 0, whose next instruction has these granules. -/
def State.place (s : State) (gs : List Word) : State :=
  let s1 := { s with agenda := [.issue 0], slices := [], teams := [], cores := [], dies := [], poisoned := [], overwritten := []
                     rot := { s.rot with recovery := false } }
  let s2 := (s1.modPt 0 (fun p => { p with partcfg := setBit p.partcfg 63 true, job := some placeJob, grant := 1, switch := none
                                           preset := 0, throttle := 0 })).modCl 0 (fun c =>
    { c with lent := 0, gated := false, reconnect := none })
  let s3 := (placeBytes gs).foldl (fun t e => t.putMem (hbmKey 0 e.1) e.2) s2
  { s3 with overwritten := [] }.startTeam 0 0 0 placeHeader 0

end Sys2Proof.Machine
end

