-- ==== Sys2Proof/Machine/Step.lean ====
section
/-! DEFINITION. One step of the package: the turn that comes next is taken (log entry 1). -/

namespace Sys2Proof.Machine

/-- The turn that comes next: the head of the agenda, or the next free turn. The state after has moved on to the turn
that follows. -/
def State.nextTurn (s : State) : Turn × State :=
  match s.agenda with
  | t :: r => (t, { s with agenda := r, freeNo := s.freeNo + 1 })
  | [] => (Config.nextTurn s.turnNo, { s with turnNo := s.turnNo + 1, freeNo := s.freeNo + 1 })

/-- A turn taken. -/
def State.runTurn (s : State) (t : Turn) : Host.Outcome State Fault Refusal :=
  match t with
  | .issue k => match s.issueTurn k with
    | .inl s1 => .next s1
    | .inr (i, s1) => exec i s1
  | .event i => if i.isEncoded then .next s else exec i s
  | .tick => .next s.tick
  | .refill d => execCopyTokenRefill d s
  | .meter p => execPowerMeterUpdate p s
  | .preq p => execPreqRise p s
  | .start p => execTimetableStart p s
  | .urgent p => execUrgentHalt p s
  | .quantum p => execQuantumBoundary p s
  | .upsetMem key => .next (s.upsetMem key)
  | .upsetReg k scalar reg lane => .next (s.upsetReg k scalar reg lane)
  | .upsetRecv id g => .next (s.upsetRecv id g)
  | .release n => .next (s.releaseSend n)
  | .upsetWft id g => .next (s.upsetWft id g)
  | .peerEntry p woff kind src peer word slice n => .next (s.peerEntry p woff kind src peer word slice n)

/-- One step. -/
def step (s : State) : Host.Outcome State Fault Refusal := (s.nextTurn.2).runTurn s.nextTurn.1

/-- The state with an instruction placed where the next step fetches it. -/
def State.withFetchWord (s : State) (nbits w : Nat) : State :=
  s.place [tableGranule nbits w 0, tableGranule nbits w 1, tableGranule nbits w 2]

end Sys2Proof.Machine
end

