-- ==== Sys2Proof/Safety.lean ====
section
/-! DEFINITION. What counts as a safe run, and the terms in which claims speak of states: a turn of a slice, readable
sources, and what is left as it was. -/

namespace Sys2Proof.Machine

open Sys2Proof

/-- The memory is in canonical form (log entry 3). -/
def State.memOk (s : State) : Prop := Memory.wf s.mem = true

/-- The slice of a key exists. -/
abbrev State.present (s : State) (k : Nat) : Prop := (afind s.slices k).isSome = true

/-- A slice that exists has the turn: the instruction to execute is its own. -/
abbrev State.onTurn (s : State) : Prop := s.present s.cur

/-- None of the s registers named is dead or in error: reading them is no poison (R28, R29). -/
def Slice.readable (x : Slice) (rs : List Nat) : Prop := ∀ r ∈ rs, (x.sRd r).dead = false

/-- Slice x with the account of issue of y: PC, gang, the count of R143, the cycle of the last issue and the granule its gang has begun. -/
def Slice.moved (x y : Slice) : Slice :=
  { x with pc := y.pc, gang := y.gang, ahead := y.ahead, lastIssue := y.lastIssue, fairCount := y.fairCount, granule := y.granule }

/-- Slice x at an address. -/
def Slice.standingAt (x : Slice) (pc : Word) : Slice := { x with pc := pc }

/-- Slice x in the gang of y. -/
def Slice.ganged (x y : Slice) : Slice := { x with gang := y.gang, ahead := y.ahead }

/-- Nothing differs but the slices, and of the slices outside a list nothing but the gang they are in. -/
def State.changesOnly (s t : State) (ks : List Nat) : Prop :=
  t = { s with slices := t.slices } ∧ ∀ j, j ∉ ks → t.sl j = (s.sl j).ganged (t.sl j)

/-- The slice as the issue of an instruction in a cycle leaves it (R143). -/
def Slice.issuedIn (x : Slice) (cycle : Nat) : Slice :=
  { x with lastIssue := cycle + 1, granule := none, fairCount := if x.trapMode then x.fairCount else addCount x.fairCount 1 }

end Sys2Proof.Machine
end

