-- ==== Sys2Proof/Claims/Control.lean ====
section
/-! DEFINITION. What the rules say of the control instructions (spec R59, R133 to R145, R359): targets, the token stack from
its top, and the side that goes first at a branch, written from the specification's own procedures. -/

namespace Sys2Proof.Claims

open Sys2Proof.Machine

/-- The target of a branch (R59): a signed count of granules from the address of the branch. -/
def target {w : Nat} (pc : Word) (off : BitVec w) : Word := pc + off.signExtend 32 * 4

/-- The control instructions that only choose a PC in each slice (R137, R141, R359): the s register read, and the next PC. -/
def branchTable : Instr → Option (List Nat × (State → Slice → Word))
  | .br off => some ([], fun _ x => target x.pc off)
  | .brz d off => some ([d.toNat], fun _ x => if x.sVal d.toNat = 0 then target x.pc off else x.pc + 4)
  | .brnz d off => some ([d.toNat], fun _ x => if x.sVal d.toNat ≠ 0 then target x.pc off else x.pc + 4)
  | .ret a | .jmpi a => some ([a.toNat], fun _ x => (x.sVal a.toNat).extractLsb' 2 30 ++ 0#2)
  | .brp _ off => some ([], fun s x => if (s.pt (s.tm (s.sl s.cur).team).part).preq then target x.pc off else x.pc + 4)
  | _ => none

/-- The lanes of an entry that have not exited. -/
def liveMask (exited : BitVec 4) (e : StackEntry) : BitVec 4 := e.mask &&& ~~~exited

/-- Can next_path resume lanes from the entry (R135)? -/
def resumable (exited : BitVec 4) (e : StackEntry) : Bool := (e.kind == 1 || e.kind == 2) && liveMask exited e != 0

/-- next_path of R135 on a stack given from its top: the entries left below the one resumed, the lanes and the PC; none when
the slice exits. -/
def resume (exited : BitVec 4) (top : List StackEntry) : Option (List StackEntry × BitVec 4 × Word) :=
  match top.dropWhile (fun e => !resumable exited e) with
  | [] => none
  | e :: below => some (below, liveMask exited e, e.addr ++ 0#2 + (if e.kind = 2 then 0 else 4))

/-- Slice x has become y by next_path from a stack: lanes go on where the entry says, the fairness count restarts but in trap
mode (R143); or the slice has exited. -/
def resumed (x : Slice) (exited : BitVec 4) (top : List StackEntry) (y : Slice) : Prop :=
  match resume exited top with
  | none => y.done = true ∧ y.stack = [] ∧ y.active = 0
  | some (below, m, pc) => y.stack = below.reverse ∧ y.active = m ∧ y.pc = pc ∧ y.done = false ∧
      (x.trapMode = false → y.fairCount = 0)

/-- A token T(L, A) and a parked side P(pc, M) in the layout of R133. -/
def token (l : Word) (a : BitVec 4) : StackEntry := ⟨1, a, l.extractLsb' 2 30⟩
def parked (pc : Word) (m : BitVec 4) : StackEntry := ⟨2, m, pc.extractLsb' 2 30⟩

/-- Is the entry a token for the address? -/
def tokenFor (l : Word) (e : StackEntry) : Bool := e.kind == 1 && (e.addr ++ 0#2 == l)

/-- The stack, from its top, with lanes arrived at the innermost token for an address, when there is one (R139, R140). -/
def arriveAt (l : Word) (m : BitVec 4) (top : List StackEntry) : Option (List StackEntry) :=
  match top.dropWhile (fun e => !tokenFor l e) with
  | [] => none
  | e :: below => some (top.takeWhile (fun e => !tokenFor l e) ++ { e with mask := e.mask ||| m } :: below)

/-- The place from the top of the switch target of R143: the topmost live parked side above the innermost token. -/
def switchAt (exited : BitVec 4) (top : List StackEntry) : Option Nat :=
  let above := top.takeWhile (fun e => e.kind != 1)
  let n := (above.takeWhile (fun e => !(e.kind == 2 && liveMask exited e != 0))).length
  if n < above.length then some n else none

/-- The lanes of a slice that take a BRC, by its condition: lane by lane, or all of the gang's lanes or none (R140). -/
def taking (cond : BitVec 2) (ka : BitVec 4) (all : Bool) (x : Slice) : BitVec 4 :=
  if cond = 0 then x.active &&& ka
  else if cond = 2 then x.active &&& ~~~ka
  else if (all = decide (cond = 1)) then x.active else 0

/-- How many lanes a mask holds. -/
def laneCount (m : BitVec 4) : Nat := (lanes.filter (fun l => m.getLsbD l)).length

/-- Does the taken side go first (R140), of so many lanes that take and so many that do not? -/
def takenFirst (hint : BitVec 2) (tk nt : Nat) : Bool :=
  if nt = 0 then true
  else if tk = 0 then false
  else if hint = 1 then true
  else if hint = 2 then false
  else decide (nt ≤ tk)

/-- What R140 does in one slice, of whose lanes f go on at one address and o at another: the lanes of the first side run, the
others arrive at a token for their address or are parked. -/
def divides (f o : BitVec 4) (first other : Word) (x y : Slice) : Prop :=
  if f = 0 then y.pc = other ∧ y.active = x.active ∧ y.stack = x.stack
  else y.pc = first ∧ y.active = f ∧
    y.stack.reverse = (if o = 0 then x.stack.reverse
      else (arriveAt other o x.stack.reverse).getD (parked other o :: x.stack.reverse))

end Sys2Proof.Claims
end

