-- ==== Sys2Proof/Claims/Trap.lean ====
section
/-! DEFINITION. What the rules say of a slice that takes a trap (spec R217, R219 to R221, R224). -/

namespace Sys2Proof.Claims

open Sys2Proof.Machine

/-- Slice k of a state takes a trap when it traps: it stands in no trap and no wait, and none is registered or walked for it, a permit
of its core is free, and its team has a trap vector (R217, R219, R224). -/
structure CanTrap (s : State) (k : Nat) : Prop where
  present : s.present k
  noFrame : (s.sl k).frame = none
  noWait : (s.sl k).wait = none
  noEntry : ∀ e ∈ s.wft, ¬ (e.kind = 0 ∧ e.slice = k ∧ e.team = (s.sl k).team)
  noWalk : ∀ w ∈ s.walks, w.slice ≠ k
  permit : s.permitsUsed (coreOfSlice k) < 8
  vector : (s.tm (s.sl k).team).trapvec ≠ 0

/-- The slices of a list can all trap: each takes its own permit (R71, R219). -/
def allCanTrap (s : State) (ks : List Nat) : Prop := ∀ k ∈ ks, CanTrap s k ∧ s.permitsUsed (coreOfSlice k) + ks.length ≤ 8

/-- The frame's words for a trap (R220, R221): the cause word, the address at which TRET resumes, INFO0, INFO1; and the
masks, when no instruction of the slice is captured. -/
def trapFrame (s : State) (k : Nat) (cause detail : BitVec 8) (lns : BitVec 4) (info0 info1 pc : Word) (f : Frame) : Prop :=
  f.word 0 = 0#8 ++ (BitVec.ofNat 4 ((s.sl k).captured s.cycle).length ++ (lns ++ (detail ++ cause))) ∧
    f.word 1 = pc.extractLsb' 2 30 ++ 0#2 ∧ f.word 2 = info0 ∧ f.word 3 = info1 ∧
    ((s.sl k).captured s.cycle = [] → ∀ j, j < 8 → (f.word 4).extractLsb' (4 * j) 4 = (s.sl k).kGet j)

/-- Slice k is at the start of its handler (R217): every lane that has not exited active, the token stack empty, the PC at
TRAPVEC, alone in its gang. -/
def inHandler (s t : State) (k : Nat) : Prop :=
  (t.sl k).active = ~~~(s.sl k).exited ∧ (t.sl k).stack = [] ∧ (t.sl k).pc = (s.tm (s.sl k).team).trapvec ∧
    (t.sl k).gang = aloneKey k ∧ (t.sl k).wait = none

/-- Slice k has taken the trap. -/
def trapTaken (s t : State) (k : Nat) (cause detail : BitVec 8) (lns : BitVec 4) (info0 info1 pc : Word) : Prop :=
  (∃ f, (t.sl k).frame = some f ∧ trapFrame s k cause detail lns info0 info1 pc f) ∧ inHandler s t k

end Sys2Proof.Claims
end

