-- ==== Sys2Proof/Claims/Memory.lean ====
section
/-! DEFINITION. The terms in which the statements speak of memory and of ordered instructions (spec R158 to R165, R177 to R179,
R292). -/

namespace Sys2Proof.Claims

open Sys2Proof.Machine

/-- No word of a range is poisoned (R292). -/
def clean (s : State) (key n : Nat) : Prop := ∀ j, key ≤ j → j < key + n → s.isPoisoned j = false

/-- Every byte outside a range reads as before. -/
def storesOnly (s t : State) (key n : Nat) : Prop := ∀ j, ¬ (key ≤ j ∧ j < key + n) → t.byte j = s.byte j

/-- Is a scope SYS clamped to JOB in the partition of slice k (R179)? -/
def clamped (s : State) (k : Nat) (scope : BitVec 3) : Bool := scope == 6 && (s.pt (s.tm (s.sl k).team).part).partcfg.getLsbD 62

/-- Does the clamped instruction trap: TRAPEN.FENCE_CLAMP outside trap mode, or the policy bit (R179, R224)? -/
def clampTrap (s : State) (k : Nat) (scope : BitVec 3) : Bool :=
  clamped s k scope && (((s.sl k).trapen.getLsbD 3 && (s.sl k).frame.isNone) || (s.pt (s.tm (s.sl k).team).part).partcfg.getLsbD 61)

/-- STATUS.FENCE_CLAMPED after an ordered instruction that does not trap (R179). -/
def clampSticky (s : State) (k : Nat) (scope : BitVec 3) : Word := (s.sl k).sticky ||| (if clamped s k scope then 2 else 0)

/-- Nothing holds a release of slice k: no far load or store outstanding, and no denial record of its team open (R178, R289). -/
structure Released (s : State) (k : Nat) : Prop where
  loads : (s.sl k).fl = 0
  stores : (s.sl k).fs = 0
  denials : ∀ d ∈ s.denials, d.team ≠ (s.sl k).team

/-- n bytes from a local address lie in the scratchpad of slice k's team, aligned (R164). -/
def inScratch (s : State) (k : Nat) (a : Word) (n align : Nat) : Prop :=
  a.toNat % align = 0 ∧ (s.tm (s.sl k).team).spbase ≤ a.toNat ∧ a.toNat + n ≤ (s.tm (s.sl k).team).splimit

/-- The key of a byte of slice k's scratchpad. -/
def spKey (k : Nat) (a : Word) : Nat := coreKey (coreOfSlice k) a.toNat

/-- Nothing differs but the slices and the contents of memory. -/
def slicesAndMemory (s t : State) : Prop := t = { s with slices := t.slices, mem := t.mem, poisoned := t.poisoned }

/-- Slices outside a list differ in the gang they are in alone. -/
def othersKept (s t : State) (ks : List Nat) : Prop := ∀ j, j ∉ ks → t.sl j = (s.sl j).ganged (t.sl j)

end Sys2Proof.Claims
end

