-- ==== Sys2Proof/Claims/Waits.lean ====
section
/-! DEFINITION. What the rules say of waits, fences and barriers (spec R171 to R180, R254 to R260, R309). -/

namespace Sys2Proof.Claims

open Sys2Proof.Machine

/-- Every token of a mask has DONE or ERR (R175). -/
def tokensDone (s : State) (tm : Nat) (mask : BitVec 8) : Prop :=
  ∀ j, j < 8 → mask.getLsbD j = true → ((s.tm tm).token j).count = 0 ∨ ((s.tm tm).token j).err = true

/-- The class counters are at or below their limits (R171). -/
def withinLimits (x : Slice) (fl fs cp tl : Nat) : Prop := x.fl ≤ fl ∧ x.fs ≤ fs ∧ x.cp ≤ cp ∧ x.tl ≤ tl

/-- The fields of a barrier (R254). -/
structure Barrier where
  arr : Nat
  bytes : Int
  count : Nat
  phase : Bool
  aerr : Bool
  bovf : Bool
  derr : Bool
  pstat : Byte
  deriving DecidableEq, Repr

/-- The barrier in the 16 bytes at a key (R254). -/
def barrierAt (s : State) (key : Nat) : Barrier :=
  let w : BitVec 128 := BitVec.ofNat 128 (leNat (s.bytes key 16))
  { arr := (w.extractLsb' 0 24).toNat, bytes := (w.extractLsb' 32 32).toInt, count := (w.extractLsb' 64 24).toNat
    phase := w.getLsbD 96, aerr := w.getLsbD 97, bovf := w.getLsbD 98, derr := w.getLsbD 99, pstat := w.extractLsb' 104 8 }

/-- What BARINIT writes (R257). -/
def Barrier.initial (n : Nat) : Barrier :=
  { arr := max 1 n, bytes := 0, count := max 1 n, phase := false, aerr := decide (n = 0), bovf := false, derr := false, pstat := 0 }

/-- update(a, t − cr, e) of R255. -/
def Barrier.update (b : Barrier) (a : Nat) (t : Int) (e : Bool) : Barrier :=
  let x := b.bytes + t
  let y := if x < -2 ^ 31 then -2 ^ 31 else if 2 ^ 31 - 1 < x then 2 ^ 31 - 1 else x
  let r := if b.arr < a then 0 else b.arr - a
  let b1 := { b with arr := r, bytes := y, bovf := b.bovf || decide (y ≠ x), aerr := b.aerr || decide (b.arr < a), derr := b.derr || e }
  if r = 0 ∧ y = 0 then { b1 with phase := !b.phase, arr := b.count } else b1

/-- The updates by instruction (R258): the registers read, the address register, whether the form releases and at what scope, and
the arrivals and declared bytes. -/
structure BarForm where
  srcs : List Nat
  addr : Nat
  rel : Bool
  scope : BitVec 3
  arrivals : Slice → Nat
  bytes : Slice → Int

def barForm : Instr → Option BarForm
  | .bararr scope a => some ⟨[a.toNat], a.toNat, true, scope, fun _ => 1, fun _ => 0⟩
  | .bararrN scope a b =>
    some ⟨[a.toNat, b.toNat], a.toNat, true, scope, fun x => ((x.sVal b.toNat).extractLsb' 0 24).toNat, fun _ => 0⟩
  | .bartx a b => some ⟨[a.toNat, b.toNat], a.toNat, false, 0, fun _ => 0, fun x => (x.sVal b.toNat).toInt⟩
  | .bartxArr scope a b => some ⟨[a.toNat, b.toNat], a.toNat, true, scope, fun _ => 1, fun x => (x.sVal b.toNat).toInt⟩
  | _ => none

/-- A barrier instruction of the slice whose turn it is has nothing to wait for and nothing to trap on (R256): its registers
readable, its address in the team's scratchpad, the barrier's words sound, no far access before it (R172), a release with nothing to
hold it. -/
structure BarReady (s : State) (srcs : List Nat) (a : Word) (rel : Bool) (scope : BitVec 3) : Prop where
  turn : s.onTurn
  readable : (s.sl s.cur).readable srcs
  inside : inScratch s s.cur a 16 16
  sound : clean s (spKey s.cur a) 16
  noFar : ∀ f ∈ s.fars, f.slice ≠ s.cur
  unclamped : clampTrap s s.cur scope = false
  released : rel = true → Released s s.cur

/-- A wait registered in the wait-for tables (R307, R309): an entry of kind wait on the object for the slice's team. -/
def registered (t : State) (k tm id : Nat) (obj : DWord) : Prop :=
  ∃ e ∈ t.wft, e.id = id ∧ e.obj = obj ∧ e.team = tm ∧ e.slice = k ∧ e.kind = 0

/-- No entry stands in a spill area (R308), and in none is poison still to be found (R292). -/
def onDies (s : State) : Prop := ∀ e ∈ s.wft, e.spilled = none ∧ e.unfound = false

/-- No entry moves to a spill area, or from one, for one more entry of a partition on an object: the home of the object has room, or
the partition has no spill area there (R308). -/
structure Unspilled (s : State) (p : Nat) (obj : DWord) : Prop where
  onDies : onDies s
  still : ∀ d o, homeHere obj = .here d o → s.wftUsed d < 4096 ∨ ((aget 0 (s.di d).wftspill p).extractLsb' 43 21).toNat = 0

/-- The home of a local object has room for one more entry, no entry is spilled, and slice k has none (R308, R309). -/
structure RoomToWait (s : State) (k : Nat) (obj : DWord) : Prop where
  onDies : onDies s
  none : ∀ e ∈ s.wft, ¬ (e.kind = 0 ∧ e.slice = k ∧ e.team = (s.sl k).team)
  room : ∀ d, homeHere obj = .here d obj → (s.wft.filter (fun e => decide (homeHere e.obj = .here d e.obj) && e.spilled.isNone)).length < 4096

/-- Instructions of one slice that name a local address, with its registers, the address and its access (R164, R165, R256). -/
def shortAccess : Instr → Option (List Nat × (Slice → Word) × Nat × Bool × BitVec 3)
  | .barinit a b => some ([a.toNat, b.toNat], fun x => x.sVal a.toNat, 16, false, 0)
  | .bararr scope a => some ([a.toNat], fun x => x.sVal a.toNat, 16, true, scope)
  | .bararrN scope a b => some ([a.toNat, b.toNat], fun x => x.sVal a.toNat, 16, true, scope)
  | .bartx a b => some ([a.toNat, b.toNat], fun x => x.sVal a.toNat, 16, false, 0)
  | .bartxArr scope a b => some ([a.toNat, b.toNat], fun x => x.sVal a.toNat, 16, true, scope)
  | .barwait scope a b => some ([a.toNat, b.toNat], fun x => x.sVal a.toNat, 16, false, scope)
  | .bartry scope _ a b => some ([a.toNat, b.toNat], fun x => x.sVal a.toNat, 16, false, scope)
  | .sld _ a imm => some ([a.toNat], fun x => x.sVal a.toNat + imm.signExtend 32 * 4, 4, false, 0)
  | .sst d a imm => some ([d.toNat, a.toNat], fun x => x.sVal a.toNat + imm.signExtend 32 * 4, 4, false, 0)
  | _ => none

end Sys2Proof.Claims
end

