-- ==== Sys2Proof/Claims/Keys.lean ====
section
/-! DEFINITION. What the rules say of holds, wills, value waits and locks (spec R306 to R315). -/

namespace Sys2Proof.Claims

open Sys2Proof.Machine

/-- The lead slice of the gang whose turn it is, which reads the registers of an instruction that acts once (R186, R310). -/
def leadOf (s : State) : Nat := (s.members s.cur).headD 0

/-- The address that SA names: a local address as a key, or a pair (R306, R310). -/
def keyOf (s : State) (loc : Bool) (a : Nat) : DWord :=
  let x := s.sl (leadOf s)
  if loc then localKey (coreOfSlice (leadOf s)) (x.sVal a).toNat else x.sVal (a + 1) ++ x.sVal a

/-- An instruction on a key passes its checks: it has the turn, its lead slice reads its registers, and n bytes at the address
are aligned and, LOC set, in the team's scratchpad (R310). -/
structure KeyReady (s : State) (loc : Bool) (a n : Nat) (more : List Nat) : Prop where
  turn : s.cur ∈ s.members s.cur
  readable : (s.sl (leadOf s)).readable ((if loc then [a] else [a, a + 1]) ++ more)
  fits : if loc then inScratch s (leadOf s) ((s.sl (leadOf s)).sVal a) n n else (keyOf s loc a).toNat % n = 0

/-- Every slice of the gang has the result, live, in an s register and goes on 4 bytes further; its other registers, flags and
special registers are as before, but for STATUS and the hold of an acquire, when named. -/
def answered (s t : State) (d : Nat) (r : Word) : Prop :=
  othersKept s t (s.members s.cur) ∧ ∀ k ∈ s.members s.cur, (t.sl k).pc = (s.sl k).pc + 4 ∧
    (t.sl k).sRd d = ⟨r, false, false⟩ ∧ (∀ q, q ≠ d → (t.sl k).sRd q = (s.sl k).sRd q) ∧
    t.sl k = { (s.sl k).moved (t.sl k) with s := (t.sl k).s, bad := (t.sl k).bad, sticky := (t.sl k).sticky
                                            acqHold := (t.sl k).acqHold, wait := (t.sl k).wait }

/-- The place in this package whose word a wait or lock reads, and the state after its checks (R166, R170, R289). -/
def placeOf (s : State) (loc : Bool) (key : DWord) (rmw : Bool) : Option (Nat × State) :=
  let k := leadOf s
  if loc then some (coreKey (coreOfSlice k) (key.extractLsb' 0 19).toNat, s)
  else match s.resolve (s.teamAsker (s.sl k).team) key true rmw rmw with
    | .key m => some (m, s.checkedTag (s.sl k).team (if rmw then 2 else 0) key)
    | _ => none

/-- The core, if any, in whose scratchpad a place lies is powered, so that what is written there stays (R387). -/
def keptAt (s : State) (m : Nat) : Prop := ∀ c, scratchCore m = some c → (s.co c).gated = false

/-- A wait of the gang that would have to register on an object finds no room on its die and in the spill area, and traps (R317). -/
structure Overflows (s : State) (die : Nat) (obj : DWord) : Prop where
  enabled : (s.sl (leadOf s)).trapen.getLsbD 4 = true
  home : homeHere obj = .here die obj
  room : s.makeRoom die (s.tm (s.sl (leadOf s)).team).part = none
  traps : allCanTrap s (s.members s.cur)

/-- Every slice of the gang has trapped WFT_OVERFLOW, with the object in INFO0 and INFO1 and STATUS.WFT_UNREG set (R227, R317). -/
def overflowTraps (s t : State) (obj : DWord) : Prop :=
  ∀ k ∈ s.members s.cur, trapTaken s t k 0x0C 0 0xF (obj.extractLsb' 0 32) (obj.extractLsb' 32 32) (s.sl k).pc ∧
    (t.sl k).sticky.getLsbD 2 = true

/-- The condition of WAITV (R313). -/
def valueMet (c : BitVec 2) (x b : Word) : Bool :=
  if c = 0 then x == b else if c = 1 then x != b else if c = 2 then b.ule x else x.ult b

/-- The lock word of the issuing team (R314). -/
def lockBy (s : State) : DWord := 1#1 ++ (0#11 ++ (s.podcfg.extractLsb' 0 20 ++ s.holderWord (s.sl (leadOf s)).team))

/-- The count after one more (R311), and after one less (R312), of a registration. -/
def raised (e : Option WftEntry) : Nat := match e with | none => 1 | some e => if e.count = 65535 then 65535 else e.count + 1
def lowered (e : Option WftEntry) : Nat := match e with | none => 0 | some e => e.count - 1

/-- The kinds that a WDROP names: hold, will, or both (R310). -/
def namedKinds (kind : BitVec 2) : List (BitVec 2) := if kind = 0 then [1] else if kind = 1 then [2] else [1, 2]

end Sys2Proof.Claims
end

