-- ==== Sys2Proof/Claims/Messages.lean ====
section
/-! DEFINITION. What the rules say of tokens, of launches and of messages (spec R173, R332, R416 to R426). -/

namespace Sys2Proof.Claims

open Sys2Proof.Machine

/-- An instruction that acts once for its gang meets no poison: its lead slice reads the registers named (R28, R186). -/
structure OnceReady (s : State) (srcs : List Nat) : Prop where
  turn : s.cur ∈ s.members s.cur
  readable : (s.sl (leadOf s)).readable srcs

/-- Every slice of the gang goes on 4 bytes further with its registers as before. -/
def wentOn (s t : State) : Prop :=
  othersKept s t (s.members s.cur) ∧ ∀ k ∈ s.members s.cur, (t.sl k).pc = (s.sl k).pc + 4 ∧
    t.sl k = { (s.sl k).moved (t.sl k) with sticky := (t.sl k).sticky, cp := (t.sl k).cp, tl := (t.sl k).tl }

/-- A token bound once more, and finished once with a code, 0 for none (R173). -/
def bound (c : Token) : Token := if c.count = 0 then ⟨1, 0, false⟩ else ⟨c.count + 1, c.code, c.err⟩
def ended (c : Token) (code : BitVec 8) : Token :=
  ⟨c.count - 1, if code ≠ 0 ∧ c.err = false then code else c.code, c.err || decide (code ≠ 0)⟩

/-- Token j of a resident team has become what f makes of it. -/
def tokenIs (s t : State) (tm j : Nat) (f : Token → Token) : Prop :=
  (afind s.teams tm).isSome → (t.tm tm).token j = f ((s.tm tm).token j)

/-- The header that LAUNCH hands over (R332): PARAM from the pair with .param, CLEAR filled in, PRIO at most the team's. -/
def handedOver (s : State) (tm : Nat) (param : Option DWord) (h g : Header) : Prop :=
  g.param = param.getD h.param ∧ g.clear = (if h.clear = 0 then (s.tm tm).header.clear else h.clear) ∧
    g.prio.toNat = min h.prio.toNat (s.tm tm).launchPrio.toNat ∧ g = { h with param := g.param, clear := g.clear, ctl := g.ctl } ∧
    ∀ n, n < 6 ∨ 9 ≤ n → g.ctl.getLsbD n = h.ctl.getLsbD n

/-- match(r, m) of R421 on a block's bytes. -/
def matches_ (block : List Byte) (u : Unexpected) : Bool :=
  ((u.tag ^^^ fieldW block 0) &&& fieldW block 4) == 0 && ((u.srcKey ^^^ fieldD block 8) &&& fieldD block 0x10) == 0

/-- The message of the unexpected queue that a block takes: the oldest that it matches (R421, R426). -/
def oldestMatch (s : State) (die p : Nat) (job : BitVec 16) (block : List Byte) : Option Unexpected :=
  s.unexpected.find? (fun u => decide (u.die = die ∧ u.part = p ∧ u.job = job) && !u.gone && matches_ block u)

/-- Posted receives of a die that stand on it (R427). -/
def postedOn (s : State) (die : Nat) : Nat := (s.recvs.filter (fun r => r.posted && decide (r.die = die) && r.spill.isNone)).length

/-- The local structures of RPOST, with their sizes and alignments (R420). -/
def postSpans (block : List Byte) (at_ : Word) (cq bar : Bool) : List (Word × Nat) :=
  (at_, 64) :: (fieldW block 0x18, 64) :: ((if bar then [(fieldW block 0x30, 16)] else []) ++
    if cq then [(fieldW block 0x34, 32)] else [])

end Sys2Proof.Claims
end

