-- ==== Sys2Proof/Claims/Copies.lean ====
section
/-! DEFINITION. What the rules say of copies (spec R236 to R262). -/

namespace Sys2Proof.Claims

open Sys2Proof.Machine

/-- The copies by instruction (R236, R237): the registers of SD, SA and the quad, the local structures with sizes and alignments
(R239), whether there is nothing to move (R241, R246), the checks of steps 2 and 3, and what the copy does. -/
structure CopyForm where
  bar : Bool
  mc : Bool
  token : Nat
  d : Nat
  nd : Nat
  a : Nat
  na : Nat
  b : Nat
  spans : Slice → List (Word × Nat × Nat)
  idle : Slice → Bool
  sound : State → Slice → Prop
  kind : State → Slice → CopyKind

/-- A register pair, low word first (R12). -/
def pairAt (x : Slice) (r : Nat) : DWord := x.sVal (r + 1) ++ x.sVal r

/-- The bytes of a structure in the scratchpad of the core whose turn it is. -/
def localBytes (s : State) (a : Word) (n : Nat) : List Byte := s.bytes (spKey s.cur a) n

/-- The coordinates of a quad, as signed numbers (R243). -/
def coordsAt (x : Slice) (r : Nat) : List Int := (List.range 4).map (fun n => (x.sVal (r + n)).toInt)

/-- The element width of COPYR (R247). -/
def reduceWidth (form : BitVec 2) : Nat := if form = 1 then 2 else 4

/-- The shape and placement of COPYT.sc (R244). -/
def scaleSound (s : State) (x : Slice) (d b : Nat) : Prop :=
  let g := localBytes s (x.sVal b) 64
  let box0 := field g 0x30 2
  (fieldW g 0x3C).extractLsb' 0 2 = 0 ∧ (fieldW g 0x3C).extractLsb' 2 2 = 1 ∧ box0 % 4 = 0 ∧ 4 ≤ box0 ∧ box0 ≤ 64 ∧
    field g 0x32 2 = 32 ∧ (x.sVal d).toNat % 128 = 0 ∧ (x.sVal d).toNat + 32 * box0 ≤ 512 * (s.tm x.team).tiles.length

/-- The structures of a gather or scatter (R239). -/
def listSpans (a b : Nat) (x : Slice) : List (Word × Nat × Nat) :=
  (x.sVal a, 32, 32) :: if x.sVal b = 0 then [] else [(x.sVal (a + 1), 4 * (x.sVal b).toNat, 4)]

def copyForm : Instr → Option CopyForm
  | .copy mc bar j d a b =>
    some ⟨bar, mc, j.toNat, d.toNat, 2, a.toNat, 2, b.toNat, fun _ => [], fun x => x.sVal b.toNat == 0, fun _ _ => True,
      fun _ x => .copy mc (pairAt x d.toNat) (pairAt x a.toNat) (x.sVal b.toNat).toNat⟩
  | .copytLd mc bar j d a b =>
    some ⟨bar, mc, j.toNat, d.toNat, 2, a.toNat, 4, b.toNat, fun x => [(x.sVal b.toNat, 64, 64)], fun _ => false, fun _ _ => True,
      fun s x => .tensor mc false (pairAt x d.toNat) (coordsAt x a.toNat) (localBytes s (x.sVal b.toNat) 64)⟩
  | .copytSt bar j d a b =>
    some ⟨bar, false, j.toNat, d.toNat, 2, a.toNat, 4, b.toNat, fun x => [(x.sVal b.toNat, 64, 64)], fun _ => false,
      fun _ _ => True, fun s x => .tensor false true (pairAt x d.toNat) (coordsAt x a.toNat) (localBytes s (x.sVal b.toNat) 64)⟩
  | .copytSc bar j d a b =>
    some ⟨bar, false, j.toNat, d.toNat, 1, a.toNat, 4, b.toNat, fun x => [(x.sVal b.toNat, 64, 64)], fun _ => false,
      fun s x => scaleSound s x d.toNat b.toNat,
      fun s x => .scale (x.sVal d.toNat) (coordsAt x a.toNat) (localBytes s (x.sVal b.toNat) 64)⟩
  | .copyg mc bar j d a b =>
    some ⟨bar, mc, j.toNat, d.toNat, 2, a.toNat, 2, b.toNat, listSpans a.toNat b.toNat, fun x => x.sVal b.toNat == 0, fun _ _ => True,
      fun s x => .gather mc (pairAt x d.toNat) (localBytes s (x.sVal a.toNat) 32) (x.sVal (a.toNat + 1)) (x.sVal b.toNat).toNat⟩
  | .copys bar j d a b =>
    some ⟨bar, false, j.toNat, d.toNat, 2, a.toNat, 2, b.toNat, listSpans a.toNat b.toNat, fun x => x.sVal b.toNat == 0,
      fun _ _ => True,
      fun s x => .scatter (pairAt x d.toNat) (localBytes s (x.sVal a.toNat) 32) (x.sVal (a.toNat + 1)) (x.sVal b.toNat).toNat⟩
  | .copyr form bar j d a b =>
    some ⟨bar, false, j.toNat, d.toNat, 2, a.toNat, 2, b.toNat, fun _ => [], fun x => x.sVal b.toNat == 0,
      fun _ x => (pairAt x d.toNat).toNat % reduceWidth form = 0 ∧ (pairAt x a.toNat).toNat % reduceWidth form = 0 ∧
        (x.sVal b.toNat).toNat % reduceWidth form = 0,
      fun _ x => .reduce form (pairAt x d.toNat) (pairAt x a.toNat) (x.sVal b.toNat).toNat⟩
  | _ => none

/-- The registers that a copy reads (R237). -/
def CopyForm.regs (f : CopyForm) : List Nat :=
  (List.range f.nd).map (f.d + ·) ++ (List.range f.na).map (f.a + ·) ++ [f.b] ++ (if f.bar then [f.b + 1] else []) ++
    if f.mc then [f.b + 2] else []

/-- A copy meets nothing to trap or to stall for (R173, R235, R239, R252). -/
structure CopyReady (s : State) (f : CopyForm) : Prop where
  once : OnceReady s f.regs
  token : s.tokenFull f.token = false
  counters : ∀ k ∈ s.members s.cur, (s.sl k).cp < 63
  queue : (s.copies.filter (fun c => decide (c.core = coreOfSlice s.cur))).length < 32
  group : f.mc = true → (s.joinGroup (s.sl s.cur).team (coreOfSlice s.cur)
    (((s.sl (leadOf s)).sVal (f.b + 2)).extractLsb' 0 4).toNat).isSome
  inside : ∀ e ∈ f.spans (s.sl (leadOf s)) ++ (if f.bar then [((s.sl (leadOf s)).sVal (f.b + 1), 16, 16)] else []),
    inScratch s (leadOf s) e.1 e.2.1 e.2.2
  sound : f.sound s (s.sl (leadOf s))
  clean : ∀ e ∈ (f.spans (s.sl (leadOf s))).take 1, Claims.clean s (spKey s.cur e.1) e.2.1

/-- The parts of COPYQOS and COPYQST that R380 names. -/
def qosRate (q : DWord) : Nat := (q.extractLsb' 0 16).toNat
def qosDepth (q : DWord) : Nat := (q.extractLsb' 24 20).toNat
def debtOf (q : DWord) : Nat := (q.extractLsb' 44 20).toNat

end Sys2Proof.Claims
end

