-- ==== Sys2Proof/Claims/Local.lean ====
section
/-! DEFINITION. What the rules say of the local loads, stores and atomics of a gang (spec R80, R158 to R164, R177). -/

namespace Sys2Proof.Claims

open Sys2Proof.Machine

/-- Word n of a trap frame with so many replay entries after a write of w over what it held: the fields of R220 and R222 marked as
edit take the new bits, every other bit stays or, where it is reserved, reads as zero. -/
def editedWord (replays n : Nat) (old w : Word) : Word :=
  if n = 1 then w.extractLsb' 2 30 ++ 0#2
  else if n = 4 then w
  else if n = 7 then old.extractLsb' 8 24 ++ (w.extractLsb' 4 4 ++ old.extractLsb' 0 4)
  else if n = 11 then old.extractLsb' 16 16 ++ w.extractLsb' 0 16
  else if 12 ≤ n ∧ n < 16 then (if w = 0 then 1 else w)
  else if 16 ≤ n ∧ n < 32 then (if n % 2 = 0 then 0#2 ++ w.extractLsb' 0 30 else w.extractLsb' 26 6 ++ 0#26)
  else if 32 ≤ n ∧ (n - 32) / 28 < replays ∧ (n - 32) % 28 = 3 then
    w.extractLsb' 31 1 ++ (old.extractLsb' 4 27 ++ (w.extractLsb' 0 4 &&& old.extractLsb' 0 4))
  else old

/-- The lanes of a slice that an instruction acts in (R8, R13). -/
def activeIn (i : Instr) (x : Slice) (l : Nat) : Bool := (x.lanesOn (predOf i).1 (predOf i).2).getLsbD l

/-- The constants that an instruction of a gang reads have been fetched: none to read, or no lane active, or the words read and the
state after the reads (R80). -/
def fetched (s : State) (i : Instr) (ms : List Nat) (cs : Assoc Word) (u : State) : Prop :=
  if constsOf i = [] ∨ ∀ k ∈ ms, (s.sl k).lanesOn (predOf i).1 (predOf i).2 = 0 then cs = [] ∧ u = s
  else s.fetchConsts (s.constFence ms) (s.sl (ms.headD 0)).team (constsOf i) = .ok (cs, u)

/-- No register that a long instruction reads in active lanes is dead or in error (R28, R29). -/
def longReadable (i : Instr) (x : Slice) : Prop :=
  ∀ o ∈ sources i, ∀ n, n < o.regs →
    (o.kind = .v → ∀ l, l < 4 → activeIn i x l = true → (x.vRd (o.idx + n) l).dead = false) ∧
    (o.kind = .s → x.lanesOn (predOf i).1 (predOf i).2 ≠ 0 → (x.sRd (o.idx + n)).dead = false)

/-- Is a register named with last use by a source of a kind (R27)? -/
def lastUsed (i : Instr) (kind : Kind) (r : Nat) : Prop :=
  ∃ o ∈ sources i, o.kind = kind ∧ o.last = true ∧ o.idx ≤ r ∧ r < o.idx + o.regs

/-- Registers outside n words of v from vd on in active lanes read as before, unless their last use ended them. -/
def regsKept (i : Instr) (vd n : Nat) (x y : Slice) : Prop :=
  (∀ r l, l < 4 → ¬ (activeIn i x l = true ∧ vd ≤ r ∧ r < vd + n) → ¬ (activeIn i x l = true ∧ lastUsed i .v r) →
    y.vRd r l = x.vRd r l) ∧
  (∀ r, ¬ lastUsed i .s r → y.sRd r = x.sRd r)

/-- The frame of a local memory instruction in one slice: registers outside its destination, and no other register, flag or special
register changes but STATUS by the clamp and the hold of an acquire. -/
def longFrame (i : Instr) (vd n : Nat) (x y : Slice) : Prop :=
  regsKept i vd n x y ∧
  y = { x.moved y with v := y.v, s := y.s, bad := y.bad, sticky := y.sticky, acqHold := y.acqHold }

/-- The size of an access by SIZE (R159). -/
def accessBytes (z : BitVec 3) : Nat :=
  if z = 0 ∨ z = 1 then 1 else if z = 2 ∨ z = 3 then 2 else if z = 4 then 4 else if z = 5 then 8 else 16

/-- The words that a load writes for the bytes read (R160). -/
def loaded (z : BitVec 3) (b : Nat → Byte) : List Word :=
  let word (n : Nat) : Word := b (4 * n + 3) ++ (b (4 * n + 2) ++ (b (4 * n + 1) ++ b (4 * n)))
  if z = 0 then [(b 0).setWidth 32]
  else if z = 1 then [(b 0).signExtend 32]
  else if z = 2 then [(b 1 ++ b 0).setWidth 32]
  else if z = 3 then [(b 1 ++ b 0).signExtend 32]
  else if z = 4 then [word 0]
  else if z = 5 then [word 0, word 1]
  else [word 0, word 1, word 2, word 3]

/-- Memory with bytes laid over it. -/
def overlay (m : Nat → Byte) (key : Nat) (bs : List Byte) : Nat → Byte :=
  fun j => if key ≤ j ∧ j < key + bs.length then bs.getD (j - key) 0 else m j

/-- The w low bytes of words, low word first (R161). -/
def lowBytes (w : Nat) (ws : List Word) : List Byte :=
  (List.range w).map (fun n => (ws.getD (n / 4) 0 >>> (8 * (n % 4))).setWidth 8)

/-- One access of a lane: slice, lane, address. -/
structure Access where
  k : Nat
  l : Nat
  a : Word

/-- The accesses of a gang in the order of the virtual lanes (R163). -/
def accesses (u : State) (ms : List Nat) (i : Instr) (f : Long) (cs : Assoc Word) (w : Nat) : List Access :=
  ms.flatMap (fun k => (lanes.filter (activeIn i (u.sl k))).map (fun l => ⟨k, l, localAddr i f (u.sl k) cs w l⟩))

/-- A local memory instruction of the gang whose turn it is meets nothing to trap or to wait for (R164, R172, R177 to R179). -/
structure LocalReady (s u : State) (i : Instr) (f : Long) (scope : BitVec 3) (w : Nat) (cs : Assoc Word) : Prop where
  turn : s.onTurn
  noWait : ∀ k ∈ s.members s.cur, (u.sl k).wait = none
  fetch : fetched s i (s.members s.cur) cs u
  readable : ∀ k ∈ s.members s.cur, longReadable i (u.sl k)
  unclamped : ∀ k ∈ s.members s.cur, clampTrap u k scope = false
  inside : ∀ e ∈ accesses u (s.members s.cur) i f cs w, inScratch u e.k e.a w w
  sound : ∀ e ∈ accesses u (s.members s.cur) i f cs w, clean u (spKey e.k e.a) w
  noFar : ∀ g ∈ u.fars, g.slice ∉ s.members s.cur
  released : f.xw.getLsbD 1 = true → ∀ k ∈ s.members s.cur, Released u k

/-- What every local memory instruction does besides its access: the PC, the clamp noted, the acquire that later memory
instructions wait for; nothing but slices, memory and the energy account changes. -/
def localDone (s u t : State) (f : Long) (scope : BitVec 3) : Prop :=
  t = { u with slices := t.slices, mem := t.mem, poisoned := t.poisoned, clusters := t.clusters } ∧
  othersKept u t (s.members s.cur) ∧ ∀ k ∈ s.members s.cur, (t.sl k).pc = (u.sl k).pc + 12 ∧
    ((u.sl k).lanesOn f.pk f.pn = 0 → t.sl k = (u.sl k).moved (t.sl k)) ∧
    ((u.sl k).lanesOn f.pk f.pn ≠ 0 → (t.sl k).sticky = clampSticky u k scope ∧
      (t.sl k).acqHold = if f.xw.getLsbD 0 then decide ((u.sl k).fl ≠ 0) else (u.sl k).acqHold)

/-- The new memory value of an atomic by its table (R162); the float sum is that of R55. -/
def atomResult (op : Nat) (ty : Ty) (m b c : Nat) : Nat :=
  if ty = .f32 then roundMx (xsum false [fval .f32 m, fval .f32 b])
  else
    let w := if ty = .i64 then 64 else 32
    let p : BitVec w := BitVec.ofNat w m
    let q : BitVec w := BitVec.ofNat w b
    let signed := ty = .i32 ∨ ty = .i64
    let le := if signed then p.sle q else p.ule q
    (match op with
      | 0 => p + q
      | 1 => if le then p else q
      | 2 => if le then q else p
      | 3 => p &&& q
      | 4 => p ||| q
      | 5 => p ^^^ q
      | 6 => q
      | 7 => if p = BitVec.ofNat w c then q else p
      | _ => if q.ule p then 0 else p + 1).toNat

/-- Atomics one after another (R163): each one's old value, and memory after them. -/
def atomRun (w : Nat) (new : Nat → Nat → Nat → Nat) : (Nat → Byte) → List (Nat × Nat × Nat) → List Nat × (Nat → Byte)
  | m, [] => ([], m)
  | m, (key, b, c) :: r =>
    let old := leNat ((List.range w).map (fun n => m (key + n)))
    let next := atomRun w new (overlay m key (natLe w (new old b c))) r
    (old :: next.1, next.2)

/-- The long local instructions: fields, scope, access width. -/
def localForm : Instr → Option (Long × BitVec 3 × Nat)
  | .ld f | .st f => some (f, f.ext8.extractLsb' 3 3, accessBytes (f.ext8.extractLsb' 0 3))
  | .atom f | .atomCas f => some (f, f.ext8.extractLsb' 4 3, if f.ty = .i64 then 8 else 4)
  | _ => none

end Sys2Proof.Claims
end

