-- ==== Sys2Proof/Claims/Matrix.lean ====
section
/-! DEFINITION. What the rules say of tile descriptors, tile moves and matrix operations (spec R183 to R202, R264 to R274). -/

namespace Sys2Proof.Claims

open Sys2Proof.Machine

/-- Bits of an element of a type code (R183). -/
def typeBits (e : Nat) : Nat := if e = 9 ∨ e = 10 then 16 else if e = 14 ∨ e = 15 then 4 else 8

/-- VALID of a descriptor (R184). -/
def tileValid (w : DWord) : Bool :=
  let e := (w.extractLsb' 0 4).toNat
  let rows := (w.extractLsb' 4 6).toNat
  let cols := (w.extractLsb' 10 9).toNat
  decide (e = 5 ∨ e = 9 ∨ e = 10 ∨ 12 ≤ e) && decide (1 ≤ rows ∧ rows ≤ 32 ∧ 1 ≤ cols ∧ cols ≤ 1024 / typeBits e) &&
    (decide (e < 14) || decide (rows % 2 = 0 ∧ cols % 2 = 0))

/-- A descriptor after TSET (R183 to R185): SOFF, BLK, COLS, ROWS and ETYPE from the source, VALID computed, the rest zero. -/
def tileDesc (w : DWord) : DWord := (w &&& 0x00001FFF000FFFFF) ||| (if tileValid w then 0x80000000 else 0)

/-- A long instruction that acts once for its gang meets no poison, and its constants have been fetched (R80, R186). -/
structure LongOnce (s u : State) (i : Instr) (cs : Assoc Word) : Prop where
  turn : s.cur ∈ s.members s.cur
  readable : (s.sl (leadOf s)).readable (scalarSrcs i)
  fetch : fetched ((s.charge i (s.members s.cur)).issued (s.members s.cur)) i (s.members s.cur) cs u

/-- The slices of the gang with an active lane. -/
def actingIn (s : State) (i : Instr) : List Nat :=
  (s.members s.cur).filter (fun k => decide ((s.sl k).lanesOn (predOf i).1 (predOf i).2 ≠ 0))

/-- The virtual numbers of the lanes of the gang that a mask names (R148). -/
def numbersOf (s : State) (m : Slice → BitVec 4) : List Nat :=
  (s.members s.cur).flatMap (fun k => (lanes.filter (fun l => (m (s.sl k)).getLsbD l)).map (fun l =>
    4 * (s.members s.cur).idxOf k + l))

/-- Operand n of a long instruction: its low word as the lead slice reads it. -/
def operandAt (i : Instr) (s : State) (cs : Assoc Word) (n : Nat) : Word :=
  (srcAt i (s.sl (leadOf s)) cs 0 n).extractLsb' 0 32

/-- Every slice of the gang goes on 12 bytes further with its registers as before. -/
def wentLong (s t : State) : Prop :=
  othersKept s t (s.members s.cur) ∧ ∀ k ∈ s.members s.cur, (t.sl k).pc = (s.sl k).pc + 12 ∧
    t.sl k = { (s.sl k).moved (t.sl k) with tl := (t.sl k).tl }

/-- The tile moves (R187). -/
def moveForm : Instr → Option (Long × MoveKind)
  | .tld f => some (f, .tld)
  | .tst f => some (f, .tst)
  | .ttrans f => some (f, .ttrans)
  | _ => none

/-- Rows in scratchpad of a move, and the bytes of each (R187, R188). -/
def rowsMoved (kind : MoveKind) (d : DWord) : Nat × Nat :=
  let rows := (d.extractLsb' 4 6).toNat
  let cols := (d.extractLsb' 10 9).toNat
  let size := typeBits (d.extractLsb' 0 4).toNat
  match kind with
  | .ttrans => (cols, rows * size / 8)
  | _ => (rows, cols * size / 8)

/-- The address of row r (R188). -/
def rowAt (base stride : Word) (r : Nat) : Word := base + BitVec.ofNat 32 r * stride

/-- The products of one core (R193): fields, and whether scaled. -/
def productForm : Instr → Option (Long × Bool)
  | .mma f => some (f, false)
  | .mmas f => some (f, true)
  | _ => none

/-- The offsets of the scale units of an operand (R196). -/
def unitsOf (d : DWord) : List Nat :=
  let l := if d.getLsbD 19 then 32 else 64
  let nb := ((d.extractLsb' 10 9).toNat + l - 1) / l
  (List.range ((nb + 3) / 4)).map (fun u => (d.extractLsb' 32 13).toNat + 128 * u)

/-- The physical scale unit of an offset (R191). -/
def physUnit (t : Team) (off : Nat) : Nat := 4 * t.tiles.getD (off / 512) 0 + off % 512 / 128

/-- The enabled partners of a word, with their cores in a cluster (R269). -/
def partnersIn (cluster : Nat) (w : Word) : List (Nat × Nat) :=
  ([1, 2, 3].filter (fun p => w.getLsbD (23 + p))).map (fun p => (p, 256 * cluster + (w.extractLsb' (8 * (p - 1)) 8).toNat))

end Sys2Proof.Claims
end

