-- ==== Sys2Proof/Claims/Ends.lean ====
section
/-! DEFINITION. What the rules say of waits that end and of conditions taken between instructions (spec R33, R143 to R147, R171 to
R178, R219, R259, R260, R313 to R317). -/

namespace Sys2Proof.Claims

open Sys2Proof.Machine

/-- Slice k goes on after the instruction it waited in: registers, masks and flags as before. -/
def goesOnAlone (s t : State) (k : Nat) : Prop :=
  othersKept s t [k] ∧ (t.sl k).pc = (s.sl k).pc + 4 ∧
    t.sl k = { (s.sl k).moved (t.sl k) with wait := none, acqHold := (t.sl k).acqHold }

/-- Every byte of memory reads as before. -/
def memoryKept (s t : State) : Prop := ∀ key, t.byte key = s.byte key

/-- Slices of one gang-wide wait. -/
def inWait (s : State) (k q : Nat) : Prop := q ∈ (s.tm (s.sl k).team).slices ∧ s.present q ∧ ∃ w, (s.sl q).wait = some (.key w k)

/-- A gang-wide wait has ended with a result: every slice of it goes on, live result in s[d]. -/
def waitAnswered (s t : State) (k d : Nat) (r : Word) : Prop :=
  ∀ q, inWait s k q → (t.sl q).wait = none ∧ (t.sl q).pc = (s.sl q).pc + 4 ∧ (t.sl q).sRd d = ⟨r, false, false⟩ ∧
    ∀ n, n ≠ d → (t.sl q).sRd n = (s.sl q).sRd n

/-- The place in this package that a wait of slice k reads or claims, and the state after its checks (R166, R170, R289). -/
def waitPlace (s : State) (k : Nat) (w : KeyWait) : Option (Nat × State) :=
  if w.loc then some (coreKey (coreOfSlice k) (w.key.extractLsb' 0 19).toNat, s)
  else match s.resolve (s.teamAsker (s.sl k).team) w.key true w.lock w.lock with
    | .key m => some (m, s.checkedTag (s.sl k).team (if w.lock then 2 else 0) w.key)
    | _ => none

end Sys2Proof.Claims
end

