-- ==== Sys2Proof/Claims/Devices.lean ====
section
/-! DEFINITION. What the rules say of the package's own units: the distributor, global time, switches, the fabric and management
(spec R31, R284, R332 to R432). -/

namespace Sys2Proof.Claims

open Sys2Proof.Machine

/-! ## One record of the state has become another -/

/-- Partition p has become what f makes of it, and no other has changed. -/
def partIs (s t : State) (p : Nat) (f : Part → Part) : Prop := ∀ q, t.pt q = if q = p then f (s.pt q) else s.pt q

/-- The same of a cluster, a core, a die, a port and a regulator group. -/
def clusterIs (s t : State) (c : Nat) (f : Cluster → Cluster) : Prop := ∀ q, t.cl q = if q = c then f (s.cl q) else s.cl q
def coreIs (s t : State) (c : Nat) (f : Core → Core) : Prop := ∀ q, t.co q = if q = c then f (s.co q) else s.co q
def dieIs (s t : State) (d : Nat) (f : Die → Die) : Prop := ∀ q, t.di q = if q = d then f (s.di q) else s.di q
def portIs (s t : State) (n : Nat) (f : Port → Port) : Prop := ∀ q, t.po q = if q = n then f (s.po q) else s.po q
def groupIs (s t : State) (g : Nat) (f : RgGroup → RgGroup) : Prop := ∀ q, t.rg q = if q = g then f (s.rg q) else s.rg q

/-- Partition p alone has changed. -/
def onlyPart (s t : State) (p : Nat) (f : Part → Part) : Prop := t = { s with parts := t.parts } ∧ partIs s t p f

/-- The word with one bit as given, its others as they were. -/
def withBit {w : Nat} (x y : BitVec w) (n : Nat) (b : Bool) : Prop := ∀ i, i < w → y.getLsbD i = if i = n then b else x.getLsbD i

/-! ## The distributor -/

/-- LSSTAT with its fields CODE, ERR, DONE and BUSY (R334). -/
def slotStatus (code : Nat) (err done busy : Bool) : Word :=
  BitVec.ofNat 32 (256 * code + (if err then 4 else 0) + (if done then 2 else 0) + if busy then 1 else 0)

/-- A launch refused with a code is told to whoever launched it (R332, R335). -/
def launchEnded (s t : State) (l : Launch) (code : Nat) : Prop :=
  match l.owner with
  | .token tm j => tm < 2 ^ 24 → tokenIs s t tm j (fun c => ended c (BitVec.ofNat 8 code)) ∧ t.parts = s.parts
  | _ => partIs s t l.part (fun x => { x with lsstat := slotStatus code (decide (code ≠ 0)) true false }) ∧ t.teams = s.teams

/-- A slice as it starts in a team (R31). -/
structure Started (h : Header) (n idx : Nat) (first : Nat) (x : Slice) : Prop where
  index : x.idx = idx
  pc : x.pc = h.entry
  vector : ∀ r l, (x.vRd r l).dead = true
  param : x.sRd 0 = ⟨loWord h.param, false, false⟩ ∧ x.sRd 1 = ⟨hiWord h.param, false, false⟩
  shape : x.sRd 2 = ⟨BitVec.ofNat 32 idx, false, false⟩ ∧ x.sRd 3 = ⟨BitVec.ofNat 32 h.nslices, false, false⟩
  scalar : ∀ r, 4 ≤ r → r < 64 → x.sRd r = ⟨0, false, false⟩
  masks : x.kGet 0 = 0xF ∧ ∀ j, 1 ≤ j → j < 8 → x.kGet j = 0
  path : x.stack = [] ∧ x.exited = 0 ∧ x.done = false ∧ x.wait = none ∧ x.frame = none ∧ x.gang = first
  counters : x.fl = 0 ∧ x.fs = 0 ∧ x.cp = 0 ∧ x.tl = 0
  registers : x.fpmode = 1 ∧ x.farstat = 0 ∧ x.poison = 0 ∧ x.trapen = 0
  fair : x.fair = fairWrite (h.fair.extractLsb' 0 16)
  random : ∀ l, l < 4 → x.lfsr.get l = lfsrFix (loWord (h.wid n (4 * idx + l)) ^^^ hiWord (h.wid n (4 * idx + l)) ^^^ 0x5A5A5A5A)

/-- The eligible cores for a team of a partition, in the order of the ring from the placement pointer on (R340). -/
def eligibleFrom (s : State) (p : Nat) (h : Header) : List Nat :=
  let ring := (List.range 4096).filter (fun c => decide (clusterOfCore c ∈ s.clustersFor p h) && s.admits c h 0)
  ring.filter (fun c => decide ((s.pt p).ptr ≤ c)) ++ ring.filter (fun c => decide (c < (s.pt p).ptr))

/-- The choice of R340 among the eligible cores: the i-th of them, least costly of the first D + 1 and the earliest of these. -/
def chosen (s : State) (es : List Nat) (i core : Nat) : Prop :=
  es[i]? = some core ∧ i ≤ (s.foehn.extractLsb' 0 6).toNat ∧
    ∀ j c, es[j]? = some c → j ≤ (s.foehn.extractLsb' 0 6).toNat →
      s.coreCost core ≤ s.coreCost c ∧ (j < i → s.coreCost core < s.coreCost c)

/-- A new team of linear index n of a grid stands on a core, in the lowest free slot, its slices as R31 starts them (R341). -/
def teamStarted (s t : State) (p : Nat) (g : Grid) (n core : Nat) : Prop :=
  ∃ slot, (∀ j, j < slot → (afind s.teams (16 * core + j)).isSome) ∧ afind s.teams (16 * core + slot) = none ∧ slot < 16 ∧
    let tm := t.tm (16 * core + slot)
    tm.part = p ∧ tm.grid = g.number ∧ tm.index = n ∧ tm.header = g.header ∧ tm.job = (s.jobOf p).job ∧ tm.gen = (s.jobOf p).gen ∧
      tm.slices.length = g.header.nslices ∧ tm.splimit = tm.spbase + g.header.scratch ∧ tm.tiles.length = g.header.ntiles ∧
      tm.prio = g.header.prio ∧ tm.launchPrio = g.header.prio ∧ (∀ j, tm.token j = ⟨0, 0, false⟩) ∧
      ∀ i k, tm.slices[i]? = some k → (t.sl k).team = 16 * core + slot ∧
        (t.sl k).sticky = (if g.header.escope = 6 ∧ (s.pt p).partcfg.getLsbD 62 = true ∧ g.header.preds n ≠ [] then 2 else 0) ∧
        ∀ q, tm.slices[i / 8 * 8]? = some q → Started g.header n i q (t.sl k)

/-- A resident team has nothing left to do (R338): every slice has exited and every operation of it has finished. -/
structure Finished (s : State) (t : Nat) : Prop where
  resident : (afind s.teams t).isSome
  runs : s.partRuns (s.tm t).part
  stays : (s.tm t).halting = false
  slices : ∀ k ∈ (s.tm t).slices, (s.sl k).done ∧ (s.sl k).fl = 0 ∧ (s.sl k).fs = 0
  copies : ∀ c ∈ s.copies, c.team ≠ t
  moves : ∀ m ∈ s.moves, m.team ≠ t
  entries : ∀ e ∈ s.entries, e.team ≠ t
  ganged : ∀ g ∈ s.gangOps, g.team ≠ t
  batches : ∀ b ∈ s.batches, b.team ≠ t
  sends : ∀ x ∈ s.sends, x.team ≠ t
  receives : ∀ r ∈ s.recvs, r.team = t → r.posted
  tokens : ∀ j, j < 8 → ((s.tm t).token j).count = 0

/-- Bytes of a core's scratchpad, tiles and scale memory. -/
def ofCore (core key : Nat) : Prop :=
  (coreKey core 0 ≤ key ∧ key < coreKey core 0 + 2 ^ 19) ∨ (tileKey core 0 0 ≤ key ∧ key < tileKey core 0 0 + 2 ^ 16) ∨
    (scaleKey core 0 0 ≤ key ∧ key < scaleKey core 0 0 + 2 ^ 13)

/-! ## Time -/

/-- Fields of TIMESTAT (R351): OFFSET, PORT, STEPPED, STATE. -/
def timestat (offset : Int) (port : BitVec 8) (stepped : Bool) (state : BitVec 2) : DWord :=
  BitVec.ofInt 32 (max (-(2 ^ 31)) (min (2 ^ 31 - 1) offset)) ++ 0#8 ++ port ++ 0#13 ++ BitVec.ofBool stepped ++ state

/-- The data set x counts at port n (R349, R394, R413): the port carries PTP messages, its peer delay is measured, the announcement is not
older than 6 s (log entry 16), and the time unit is not free-running. -/
def hears (s : State) (n : Nat) (x : PtpSet) : Prop :=
  n < 24 ∧ s.rot.freeRun = false ∧ s.ptpPort (BitVec.ofNat 8 n) = true ∧ (s.ptp n).pending = false ∧
    ∃ at_, (s.ptp n).heard = some (x, at_) ∧ s.ns < at_ + 6000000000

/-- The port toward the parent clock: of the data sets that count the one heard there is the best, that of the lowest port where two
are alike, and better than this package's own (log entry 16). -/
def parentAt (s : State) (n : Nat) : Prop :=
  ∃ x, hears s n x ∧ setMembers x < setMembers s.ownSet ∧
    ∀ j y, hears s j y → setMembers x < setMembers y ∨ (setMembers x = setMembers y ∧ n ≤ j)

/-- A Sync took d ns by both clocks (R349, R351): the port keeps that, and at the parent's port, with the delay known, the offset sets
TIMESTAT and an increment within 200 ppm of nominal. Within 20 ns STATE reads locked (log entry 16). -/
def synced (s t : State) (port : BitVec 8) (d : Int) : Prop :=
  t = { s with ptpPorts := t.ptpPorts, timestat := t.timestat, increment := t.increment } ∧
    (∀ n, t.ptp n = if n = port.toNat then { s.ptp n with sync := none, behind := d } else s.ptp n) ∧
    (∀ y, (s.ptp port.toNat).delay = some y → parentAt s port.toNat →
      t.timestat = timestat (d - y) port (s.timestat.getLsbD 2) (if (d - y).natAbs ≤ 20 then 2 else 1) ∧
        81920 - 16 ≤ t.increment ∧ t.increment ≤ 81920 + 16) ∧
    ((s.ptp port.toNat).delay = none ∨ ¬ parentAt s port.toNat → t.timestat = s.timestat ∧ t.increment = s.increment)

/-- Port n of the time unit has become y, and nothing else has changed. -/
def ptpIs (s t : State) (n : Nat) (y : PtpPort) : Prop :=
  t = { s with ptpPorts := t.ptpPorts } ∧ ∀ m, t.ptp m = if m = n then y else s.ptp m

/-- A message of the election has been handed to the fabric for every other member of the domain: identifier, epoch and the time of
its sending (R352; its layout: log entry 16). -/
def leaseSent (s t : State) (epoch : Word) : Prop :=
  ∀ m ∈ s.lease.members, m ≠ s.selfPeer → ∃ i : StreamId, i.dstPeer = m ∧ ∃ q ∈ (t.txOf i).unacked, q.dstPeer = m ∧
    q.payload = natLe 4 s.lease.ident.toNat ++ (natLe 4 epoch.toNat ++ natLe 8 s.ns)

/-- A lease is accepted (R352): sent less than 100 ms ago, of an epoch not below the highest seen, and not the higher identifier of two of
one epoch. -/
def leaseAccepted (s : State) (id epoch : Word) (sent : DWord) : Bool :=
  epoch != 0 && !epoch.ult s.lease.epoch && decide (s.ns < min sent.toNat s.ns + 100000000) &&
    !(decide (s.ns < s.lease.last + 100000000) && (match s.lease.holder with
      | some (h, e) => e == epoch && h.ult id
      | none => false))

/-- The outcome of R354 for an arriving entry: its code, TTEPOCH and the entries stored after it. `window` says that it comes from
the local entry window, which alone places OPEN entries, and those without checks 2 to 4 (R355). -/
def arrival (s : State) (e : TtEntry) (window : Bool) : Nat × Word × List TtEntry :=
  let part (x : TtEntry) : BitVec 4 := x.genp.extractLsb' 12 4
  let idle := e.mode.getLsbD 2
  let mine := s.timetable.filter (fun x => part x == part e)
  let inRange (c : Nat) : Bool :=
    let y := (s.pt (part e).toNat).partcfg
    y.getLsbD 63 && decide ((y.extractLsb' 0 4).toNat ≤ c ∧ c ≤ (y.extractLsb' 4 4).toNat)
  let bad := e.mode >>> 3 != 0 || e.resv != 0 || decide (1000000 < e.lead.toNat) || e.mode.getLsbD 1 != window ||
    (!idle && (e.clusters == 0 || (List.range 16).any (fun c => e.clusters.getLsbD c && !inRange c)))
  let epoch := if window then s.ttepoch else e.epoch
  if bad then (1, s.ttepoch, s.timetable)
  else if !window && e.epoch.ult s.ttepoch then (2, s.ttepoch, s.timetable)
  else if !window && decide (e.start.toNat < s.ns + 2000000) then (3, epoch, s.timetable)
  else if !window && mine.any (fun x => x.start != e.start && decide (((x.start.toNat : Int) - e.start.toNat).natAbs < 1000000)) then
    (4, epoch, s.timetable)
  else if mine.any (fun x => x.start == e.start) then
    (5, epoch, s.timetable.map (fun x => if part x = part e ∧ x.start = e.start then e else x))
  else if 256 ≤ s.timetable.length then (6, epoch, s.timetable)
  else (0, epoch, s.timetable ++ [e])

/-! ## Switches between jobs -/

/-- The switch of a partition is over: its first failure, or this code, stands in SWSTAT.LAST (R363). -/
def switchOver (t : State) (p : Nat) (w : Switch) (code : BitVec 8) : Prop :=
  (t.pt p).switch = none ∧ (t.pt p).swstat.getLsbD 0 = false ∧
    (t.pt p).swstat.extractLsb' 8 8 = (if w.failure ≠ 0 then w.failure else code)

/-- The current job of partition p is halted and a switch begins (R361, R382, R392). -/
def halted (s t : State) (p : Nat) (target : Option (BitVec 16 × BitVec 12 × Bool)) (urgent returning : Bool) : Prop :=
  ∃ w, (t.pt p).switch = some w ∧ w.phase = .draining ∧ w.target = target ∧ w.urgent = urgent ∧
    w.returning = returning ∧ w.haltTime = s.nsWord ∧ w.failure = 0 ∧ (t.pt p).job = (s.pt p).job ∧ (t.pt p).preq = false ∧
    (t.pt p).swstat.getLsbD 0 = true ∧ (t.pt p).jobdirUsed = (s.pt p).jobdir ∧ t.partRuns p = false ∧ t.mem = s.mem ∧
    t.slices = s.slices ∧ t.teams = s.teams ∧ (∀ tm ∈ w.discard, (s.tm tm).part = p ∧ (s.tm tm).header.restartable = true) ∧
    (∀ c ∈ s.copies, c.team ∉ w.discard → c ∈ t.copies) ∧ (∀ c ∈ t.copies, c ∈ s.copies ∧ c.team ∉ w.discard) ∧
    ∀ c, c < 16 → (s.cl c).lent ≠ 0 → (s.cl c).borrower.toNat = p → (t.cl c).lent = 2

/-- A job as the image header at a key describes it (R357), its peer table aside. -/
def describedAt (s : State) (key : Nat) (job : BitVec 16) (gen : BitVec 12) (y : Job) : Prop :=
  y.job = job ∧ y.gen = gen ∧ y.codeva = s.dword key ∧ y.root = s.dword (key + 8) ∧
    y.rootw = (List.range 8).map (fun d => s.dword (key + 0x10 + 8 * d)) ∧ y.peertab = s.dword (key + 0x50) ∧
    y.evq = s.dword (key + 0x58) ∧ y.save = s.dword (key + 0x60)

/-! ## The fabric -/

/-- A packet has been handed to the fabric again, on whatever path it takes. -/
def resent (t : State) (q : Packet) : Prop := ∃ det so, { q with det := det, so := so } ∈ t.outbox

/-- A stream goes on: of its kept packets those picked are handed to the fabric again, now (R406, R407, R411). -/
def streamResent (s t : State) (i : StreamId) (pick : Packet → Prop) : Prop :=
  t.txOf i = { s.txOf i with nacked := none, sent := (t.txOf i).sent } ∧
    (∀ q ∈ (s.txOf i).unacked, pick q → resent t q ∧ aget 0 (t.txOf i).sent q.seq.toNat = s.ns) ∧ t.mem = s.mem ∧ t.slices = s.slices

/-- Packets for a peer leave this package by a path, and those kept in a stream are for its destination. -/
def hasPath (s : State) (i : StreamId) : Prop :=
  s.route i.dstPeer ≠ .none ∧ s.route i.dstPeer ≠ .crossbar ∧ ∀ q ∈ (s.txOf i).unacked, q.dstPeer = i.dstPeer ∧
    (isPtp q = true → s.route i.dstPeer = .direct (i.dstPeer.extractLsb' 0 4).toNat)

/-- A packet comes next in its stream and finds it empty. -/
structure InOrder (s : State) (pkt : Packet) : Prop where
  here : pkt.dstPeer = s.selfPeer
  next : (s.rxOf (pktStream pkt)).expect = pkt.seq
  alone : (s.rxOf (pktStream pkt)).held = []
  empty : s.inboxOf (pktStream pkt) = []

/-- The packet of a peer is for the current job of a partition (R370). -/
structure ForJob (s : State) (pkt : Packet) (p : Nat) : Prop where
  current : s.currentPart pkt.job = some p
  engine : s.engineOn p = true
  gen : pkt.gen = (s.jobOf p).gen ∨ pkt.gen = (s.jobOf p).gen - 1

/-- An answer of this class and STAT has gone back for a packet, with the TAG and bytes given (R410). -/
def answeredPeer (t : State) (pkt : Packet) (stat : BitVec 4) (tag : BitVec 20) (payload : List Byte) : Prop :=
  ∃ a ∈ (t.txOf ⟨pkt.dstPeer, pkt.dstDie, pkt.srcPeer, pkt.srcDie, 3⟩).unacked, a.cls = 8 ∧ a.stat = stat ∧ a.tag = tag ∧
    a.txid = pkt.txid ∧ a.dstPeer = pkt.srcPeer ∧ a.payload = payload

/-- A write or atomic of a peer that stands first in its stream, for the current job of p. -/
structure PeerTurn (s : State) (pkt : Packet) (p : Nat) : Prop where
  first : (s.inboxOf (pktStream pkt)).head? = some pkt
  other : pkt.srcPeer ≠ s.selfPeer
  job : ForJob s pkt p

/-- A packet as it arrives is taken (R411): by a link, or in a datagram that comes from the packet's source and to this package's port
with a checksum that holds; and this package is not in the recovery state (R394). -/
def comesIn (s : State) (pkt : Packet) (dg : Option Datagram) : Prop :=
  s.rot.recovery = false ∧ ∀ d, dg = some d → d.src = s.peerAddress pkt.srcPeer ∧ d.dport = BitVec.ofNat 16 (s.socfgField 0xC 2) ∧
    d.checksum = udpChecksum d.src d.dst d.sport d.dport (pktBytes pkt)

/-- The page tables and the clearance lines that a request of a peer is checked by can be read, so its check appends no event (R286,
R292). -/
def linesRead (s : State) (p : Nat) (pkt : Packet) : Prop :=
  ∀ e a, (s.jobOf p).prins.find? (fun e => decide (e.1 = pkt.job)) = some e → windowAddr (s.jobOf p) pkt.addr = some a →
    let c := s.checkSide ⟨p, s.jobOf p, some (some e.2)⟩ a
    (∀ k ∈ s.walkKeys c.1 c.2.1, s.unreported k 8 = []) ∧
    s.unreadLines c.1 c.2.1 ⟨(peerOp pkt).r, (peerOp pkt).w, (peerOp pkt).a⟩ = []

/-- Requests whose stream has no path now are marked, and no other changes (R412). -/
def lostMarked (s t : State) : Prop :=
  t.peerReqs = s.peerReqs.map (fun r => if t.route r.stream.dstPeer = .none then { r with lost := true } else r)

/-- Port y is x with these flits kept in its retry buffer and with these flits, none of an answer, handed to it (R401): in their
order behind those that wait, each takes the next FSEQ, names the last flit received in FACK, and stands in the retry buffer of 512
and, the link up, on the wire, as far as the buffer has room; the others wait. -/
def flitsLeave (x y : Port) (keep : List Flit) (es : List WaitFlit) : Prop :=
  ∃ new : List Flit, y = { x with
      buffer := keep ++ new, waiting := y.waiting, sendSeq := x.sendSeq + BitVec.ofNat 12 new.length
      wire := if x.state = 2 then new.reverse ++ x.wire else x.wire } ∧
    y.waiting = (x.waiting ++ es).drop new.length ∧
    new.map (fun f => (f.ftype, f.payload)) = ((x.waiting ++ es).take new.length).map (fun f => (f.ftype, f.payload)) ∧
    (y.waiting ≠ [] → 512 ≤ (keep ++ new).length) ∧ (keep.length ≤ 512 → (keep ++ new).length ≤ 512) ∧
    ∀ i f, new[i]? = some f → f.fseq = (x.sendSeq + BitVec.ofNat 12 i).setWidth 16 ∧ f.fack = x.recvSeq.setWidth 16 ∧
      flitCrc f = f.crc

/-- A control flit that asks for a retry has been handed to the port (its contents: log entry 15). -/
def asksRetry (x y : Port) (keep : List Flit) : Prop :=
  ∃ pl : List Byte, pl.length = 120 ∧ pl.headD 0 = 1 ∧ flitsLeave x y keep [⟨false, false, 0, pl⟩]

/-- No port but n has changed. -/
def otherPorts (s t : State) (n : Nat) : Prop := ∀ q, q ≠ n → t.po q = s.po q

/-- The peer delay of link n waits to be measured when its width is not w (R413). -/
def delayPends (s t : State) (n : Nat) (w : BitVec 2) : Prop :=
  ∀ m, t.ptp m = if m = n ∧ (s.po n).width ≠ w then { s.ptp m with pending := true } else s.ptp m

/-- The flits of a retry buffer that FACK does not cover (R401). -/
def uncovered (fack : BitVec 16) (buffer : List Flit) : List Flit :=
  match buffer with
  | [] => []
  | b :: _ => buffer.filter (fun x =>
      let far := (fack.setWidth 12 - b.fseq.setWidth 12 : BitVec 12).toNat
      decide (far < (x.fseq.setWidth 12 - b.fseq.setWidth 12 : BitVec 12).toNat ∨ 2048 ≤ far))

/-! ## Management -/

/-- Does a command name what is kept for a page of a job, of this size: the page of a job, a job, or all (R285)? -/
def xlCovers (w : DWord) (job : BitVec 16) (vpn : BitVec 36) (size : Nat) : Prop :=
  let action := w.extractLsb' 62 2
  let named := w.extractLsb' 33 16
  (action = 1 ∧ job = named ∧ (vpn.extractLsb' 0 33).toNat * 4096 / size = (w.extractLsb' 0 33).toNat * 4096 / size) ∨
    (action = 2 ∧ job = named) ∨ action = 3

/-- Is a held clearance line named by it? -/
def xlClears (w : DWord) (l : ClearLine) : Prop :=
  w.getLsbD 60 = true ∧ ((w.extractLsb' 62 2 = 2 ∧ l.job = w.extractLsb' 33 16) ∨ w.extractLsb' 62 2 = 3)

/-- Is a partition's PARTCFG locked: a job is current, or a cluster of it is lent out or one is borrowed (R377)? -/
def configLocked (s : State) (p : Nat) : Bool :=
  (s.pt p).job.isSome || (s.pt p).switch.isSome || (List.range 16).any (fun c => (s.cl c).lent != 0 &&
    ((s.pt p).inRange c || decide ((s.cl c).borrower.toNat = p)))

/-- A bit of PARTCFG after a write (R377): reserved bits read zero, and EN, BASE, LIMIT and COLOURS stay when they are locked. -/
def configBit (s : State) (p : Nat) (value : DWord) (n : Nat) : Bool :=
  if (8 ≤ n ∧ n < 16) ∨ (56 ≤ n ∧ n < 61) then false
  else if configLocked s p = true ∧ (n = 63 ∨ n < 8 ∨ (16 ≤ n ∧ n < 32)) then (s.pt p).partcfg.getLsbD n
  else value.getLsbD n

/-- Does an enabled partition as x overlap another enabled one in clusters or colours? -/
def configClash (s : State) (p : Nat) (x : Part) : Prop :=
  x.partcfg.getLsbD 63 = true ∧ ∃ q, q < 16 ∧ q ≠ p ∧ (s.pt q).partcfg.getLsbD 63 = true ∧
    ((∃ c, c < 16 ∧ x.inRange c = true ∧ (s.pt q).inRange c = true) ∨ x.colours &&& (s.pt q).colours ≠ 0)

/-- The regulator group that partition p holds when it is x (R377, R383): none while it is not enabled, and what it held where its
GROUP is another's. -/
def groupHeld (s : State) (p : Nat) (x : Part) : Option Nat :=
  let g := (x.pwrcfg.extractLsb' 45 3).toNat
  if x.partcfg.getLsbD 63 = false then none
  else if (List.range 16).any (fun q => q != p && (s.pt q).group == some g) then x.group
  else some g

/-- Was a command of CLEND written in this cycle? -/
def writtenNow (s : State) (m : Option ClendMark) : Prop := ∃ x, m = some x ∧ x.cycle = s.cycle

/-- The setting that a regulator group's ramp comes to next (R384): the voltage [15:8] rises before the clock, and the clock [4:0]
falls before the voltage. -/
def rampTo (applied reg v : Word) : Prop :=
  let up := (applied.extractLsb' 8 8).toNat < (reg.extractLsb' 8 8).toNat
  let slower := groupClock reg < groupClock applied
  (up → v.extractLsb' 8 8 = reg.extractLsb' 8 8 ∧ v.extractLsb' 0 5 = applied.extractLsb' 0 5) ∧
    (¬ up → slower → v.extractLsb' 8 8 = applied.extractLsb' 8 8 ∧ v.extractLsb' 0 5 = reg.extractLsb' 0 5) ∧
    (¬ up → ¬ slower → v = reg)

/-- The new value of a host AMO (R305). -/
def amoResult {w : Nat} (op : HostAmo) (old v : BitVec w) : BitVec w :=
  match op with
  | .swap => v
  | .add => old + v
  | .and => old &&& v
  | .or => old ||| v
  | .xor => old ^^^ v
  | .min => if old.sle v then old else v
  | .max => if old.sle v then v else old
  | .minu => if old.ule v then old else v
  | .maxu => if old.ule v then v else old

/-- The allotment of R386 in pJ for each us. -/
def allotment (x : Part) : Int := 256000000 * (max 1 (min 4500 (x.pwrcfg.extractLsb' 32 13).toNat) : Nat)

/-- The energy of R386 over the last us, in pJ, of the clusters that a partition holds. -/
def energyOf (s : State) (p : Nat) : Int :=
  (((List.range 16).filter (s.holdsCluster p)).map (fun c =>
    (((s.cl c).clcal.extractLsb' 48 16).toNat * ((s.cl c).enacc - (s.cl c).enaccSeen).toNat +
      256000 * ((s.cl c).clcal.extractLsb' 32 16).toNat : Int))).sum

/-- A resident team of partition p that a TEAMCMD word names (R389). -/
def commanded (s : State) (p : Nat) (value : Word) (action : BitVec 2) (tm : Nat) : Prop :=
  value.extractLsb' 30 2 = action ∧
    tm = 16 * (256 * (value.extractLsb' 0 4).toNat + (value.extractLsb' 4 8).toNat) + (value.extractLsb' 12 4).toNat ∧
    (afind s.teams tm).isSome ∧ (s.tm tm).part = p

/-- Corrections of a unit within the last 10 s, this one with them (R291). -/
def corrections (s : State) (u : EccUnit) : List DWord :=
  s.nsWord :: (s.eccOf u).times.filter (fun a => decide (s.ns ≤ a.toNat + 10000000000))

/-- What a register write leaves of a value: its bits under a mask (R6). -/
def kept {w : Nat} (value : DWord) (mask : BitVec w) : BitVec w := value.setWidth w &&& mask

end Sys2Proof.Claims
end

