-- ==== Sys2Proof/Claims/Far.lean ====
section
/-! DEFINITION. What the rules say of far accesses at issue and when they return (spec R159, R167 to R171). -/

namespace Sys2Proof.Claims

open Sys2Proof.Machine

/-- The far instructions: fields, scope, and what their requests do. -/
def farForm : Instr → Option (Long × BitVec 3 × FarKind)
  | .fld f => some (f, f.ext8.extractLsb' 3 3, .load (f.ext8.extractLsb' 0 3) f.vd)
  | .fst f => some (f, f.ext8.extractLsb' 3 3, .store (f.ext8.extractLsb' 0 3))
  | .fatom f => some (f, f.ext8.extractLsb' 4 3, .atomic (f.ext8.extractLsb' 0 4) f.ty f.vd)
  | _ => none

/-- Access width of a far request. -/
def farBytes : FarKind → Nat
  | .load z _ => accessBytes z
  | .store z => accessBytes z
  | .atomic _ ty _ => if ty = .i64 then 8 else 4

/-- The active lanes of a slice. -/
def lanesOf (i : Instr) (x : Slice) : List Nat := lanes.filter (activeIn i x)

/-- Does the request count as a far store (R171)? -/
def countsStore : FarKind → Bool
  | .store _ => true
  | _ => false

/-- A far instruction of the gang whose turn it is meets nothing to trap, to wait or to stall for (R164, R168, R171, R177 to R179). -/
structure FarReady (s u : State) (i : Instr) (f : Long) (scope : BitVec 3) (kind : FarKind) (cs : Assoc Word) : Prop where
  turn : s.onTurn
  fetch : fetched s i (s.members s.cur) cs u
  readable : ∀ k ∈ s.members s.cur, longReadable i (u.sl k)
  unclamped : ∀ k ∈ s.members s.cur, clampTrap u k scope = false
  aligned : ∀ k ∈ s.members s.cur, ∀ l ∈ lanesOf i (u.sl k), (farAddr i f (u.sl k) cs (farBytes kind) l).toNat % farBytes kind = 0
  room : ∀ k ∈ s.members s.cur, lanesOf i (u.sl k) ≠ [] → (if countsStore kind then (u.sl k).fs else (u.sl k).fl) < 63
  queue : u.farUsed (coreOfSlice s.cur) + ((s.members s.cur).map (fun k =>
    (linesOf ((lanesOf i (u.sl k)).map (farAddr i f (u.sl k) cs (farBytes kind)))).length)).sum ≤ 64
  released : f.xw.getLsbD 1 = true → ∀ k ∈ s.members s.cur, Released u k

/-- A line request of this package that can be performed: formed, first of its lane registers and bytes, not yet sent, no answer
held, its team not standing still for a switch (R168, R169, R172, R362). -/
structure FarDue (s : State) (f : Far) : Prop where
  found : s.farOf f.id = some f
  formed : f.formed = true
  first : s.farBlocked f = false
  unsent : f.sent = false
  unanswered : f.answer = none
  slice : s.present f.slice
  goes : s.farGoes f = true

/-- It is within its timeout, and no other load of its gang's instruction finds its value with it (R163, R170). -/
structure FarAlone (s : State) (f : Far) : Prop where
  inTime : s.ns ≤ f.due
  alone : s.loadMates f = []

/-- It is the last request of its instruction in its slice (R171). -/
def lastRequest (s : State) (f : Far) : Prop := ∀ g ∈ s.fars, g.slice = f.slice → g.parent = f.parent → g.id = f.id

end Sys2Proof.Claims
end

