-- ==== Sys2Proof/Claims/Lane.lean ====
section
/-! DEFINITION. What the rules say of the lane instructions (spec R9, R27, R82 to R132, R148 to R154, R218): what each writes in a
slice and leaves alone, element values written from the tables of the specification, and the lanes that the cross-lane
instructions read. -/

namespace Sys2Proof.Claims

open Sys2Proof.Machine

/-- The instructions of R218, each with the function that gives its result in a lane (chapters 04 and 05): IADD, ISUB, IMUL, IMULH,
IMAD, IMADW, IMIN, IMAX, IABS, IAND, IOR, IXOR, IANDN, ISHL, ISHR, ISRA, IROT, IPOPC, ICLZ, IBREV, IBFX, IBFI, IPERM, ICMP, ISAD,
IADD64, MOV, MOVI, SEL, MOVS, MOVK to a mask and to a vector, VTOS, VTOS.first, FADD, FSUB, FMUL, FFMA, FMIN, FMAX, FNEG, FABS,
FCMP, FCLASS, FRND, FFRAC, FLDEXP, FGETEXP, CVT, PACK, UNPACK, SCALE.fit, SCALE.apply, RCP, RSQ, SQRT, EXP2, LOG2, SINPI, COSPI,
DOT2, DOT4, DOT8, FUSE. -/
def isLane : Instr → Bool
  | .iadd _ | .isub _ | .imul _ | .imulh _ | .imad _ | .imadw _ | .imin _ | .imax _ | .iabs _ | .iand _ | .ior _ | .ixor _
  | .iandn _ | .ishl _ | .ishr _ | .isra _ | .irot _ | .ipopc _ | .iclz _ | .ibrev _ | .ibfx _ | .ibfi _ | .iperm _ | .icmp _
  | .isad _ | .iadd64 _ | .mov _ | .movi _ | .sel _ | .movs _ | .movkToMask _ | .movkToVector _ | .vtos _ | .vtosFirst _ | .fadd _
  | .fsub _ | .fmul _ | .ffma _ | .fmin _ | .fmax _ | .fneg _ | .fabs _ | .fcmp _ | .fclass _ | .frnd _ | .ffrac _ | .fldexp _
  | .fgetexp _ | .cvt _ | .pack _ | .unpack _ | .scaleFit _ | .scaleApply _ | .rcp _ | .rsq _ | .sqrt _ | .exp2 _ | .log2 _
  | .sinpi _ | .cospi _ | .dot2 _ | .dot4 _ | .dot8 _ | .fuse _ => true
  | _ => false

/-- The lanes whose sources a lane instruction reads: the active ones, but for VTOS its named lane (R97). -/
def readIn (i : Instr) (x : Slice) (l : Nat) : Bool := (readLanes i (x.lanesOn (predOf i).1 (predOf i).2)).getLsbD l

/-- The lanes in which it writes: the active ones, but for MOVS and VTOS one lane for the slice (R97). -/
def writesIn (i : Instr) (x : Slice) : List Nat := writeLanes i (x.lanesOn (predOf i).1 (predOf i).2)

/-- No register read is dead or in error. -/
def laneReadable (i : Instr) (x : Slice) : Prop :=
  ∀ o ∈ sources i, ∀ n, n < o.regs →
    (o.kind = .v → ∀ l, l < 4 → readIn i x l = true → (x.vRd (o.idx + n) l).dead = false) ∧
    (o.kind = .s → readLanes i (x.lanesOn (predOf i).1 (predOf i).2) ≠ 0 → (x.sRd (o.idx + n)).dead = false)

/-- The reads of dead registers by a lane instruction in a slice, in operand order (R28, R29): register, lanes, and whether an error not
found before is among them. -/
def deadReads (i : Instr) (x : Slice) : List Poison :=
  (sources i).flatMap (fun o => (List.range o.regs).flatMap (fun n =>
    let r := o.idx + n
    match o.kind with
    | .v =>
      let m := maskOf (fun l => readIn i x l && (x.vRd r l).dead)
      if m = 0 then [] else [⟨false, r, m, (List.range 4).any (fun l => readIn i x l && (x.vRd r l).err)⟩]
    | .s => if (List.range 4).any (readIn i x) = true ∧ (x.sRd r).dead = true then [⟨true, r, 0xF, (x.sRd r).err⟩] else []
    | _ => []))

/-- POISON after such reads: the first fills it when it was clear (R22, R28). -/
def poisonAfter (x : Slice) : List Poison → Word
  | [] => x.poison
  | p :: _ => if x.poison.getLsbD 10 then x.poison
      else 0#16 ++ (p.lanes ++ (BitVec.ofBool p.err ++ (1#1 ++ ((if p.scalar then 1#2 else 0#2) ++ BitVec.ofNat 8 p.reg))))

/-- What an instruction computes in lane l of a slice at a gang position, every source read before (R9). -/
def laneResult (i : Instr) (fn : LaneEnv → LaneIn → Nat → LaneOut) (x : Slice) (cs : Assoc Word) (pos l : Nat) : LaneOut :=
  fn (laneEnv i x (modeOf i x.fpmode) (x.fpmode.extractLsb' 0 10) pos l) (laneIn i x cs l) l

/-- The result stands in its destination, live (R9, R27). -/
def laneWritten (i : Instr) (fn : LaneEnv → LaneIn → Nat → LaneOut) (x y : Slice) (cs : Assoc Word) (pos : Nat) : Prop :=
  ∀ l ∈ writesIn i x, let o := laneResult i fn x cs pos l
    y.lfsr.get l = o.lfsr ∧
    match (destOf i).1 with
    | .none => True
    | .v n => ∀ j, j < n → y.vRd ((destOf i).2 + j) l = ⟨o.val.extractLsb' (32 * j) 32, false, false⟩
    | .s n => ∀ j, j < n → y.sRd ((destOf i).2 + j) = ⟨o.val.extractLsb' (32 * j) 32, false, false⟩
    | .k => (y.kGet (destOf i).2).getLsbD l = o.bit

/-- Is register r of a class among the destinations? -/
def vDest (i : Instr) (r : Nat) : Prop := match (destOf i).1 with
  | .v n => (destOf i).2 ≤ r ∧ r < (destOf i).2 + n
  | _ => False
def sDest (i : Instr) (r : Nat) : Prop := match (destOf i).1 with
  | .s n => (destOf i).2 ≤ r ∧ r < (destOf i).2 + n
  | _ => False
def kDest (i : Instr) (j : Nat) : Prop := match (destOf i).1 with
  | .k => j = (destOf i).2
  | _ => False

/-- The frame of a lane instruction in one slice: registers that are not its destination in a lane it writes, nor ended by their
last use, mask bits that are not its destination, and the LFSRs of the other lanes are as before, and nothing else of the slice
changes but the list of results still to be written (R217). -/
def laneFramed (i : Instr) (x y : Slice) : Prop :=
  (∀ r l, l < 4 → ¬ (vDest i r ∧ l ∈ writesIn i x) → ¬ (activeIn i x l = true ∧ lastUsed i .v r) → y.vRd r l = x.vRd r l) ∧
  (∀ r, ¬ (sDest i r ∧ writesIn i x ≠ []) → ¬ lastUsed i .s r → y.sRd r = x.sRd r) ∧
  (∀ j l, l < 4 → ¬ (kDest i j ∧ l ∈ writesIn i x) → (y.kGet j).getLsbD l = (x.kGet j).getLsbD l) ∧
  (∀ l, l < 4 → l ∉ writesIn i x → y.lfsr.get l = x.lfsr.get l) ∧
  y = { x.moved y with v := y.v, s := y.s, bad := y.bad, k := y.k, lfsr := y.lfsr, inflight := y.inflight }

/-! ## Element values -/

/-- Element j of an operand as a w-bit vector, and as the integer that a type reads. -/
def elemBits (t : Ty) (x : DWord) (j : Nat) : BitVec (elemWidth t) := x.extractLsb' (elemWidth t * j) (elemWidth t)
def elemVal (t : Ty) (x : DWord) (j : Nat) : Int := if elemSigned t then (elemBits t x j).toInt else (elemBits t x j).toNat

/-- An exact integer result in its type: wrapped, or saturated (R37). -/
def finished (t : Ty) (sat : Bool) (y : Int) : BitVec (elemWidth t) :=
  let hi : Int := if elemSigned t then 2 ^ (elemWidth t - 1) - 1 else 2 ^ elemWidth t - 1
  let lo : Int := if elemSigned t then -2 ^ (elemWidth t - 1) else 0
  BitVec.ofInt (elemWidth t) (if sat then max lo (min hi y) else y)

/-- The integer arithmetic of R83 by element. -/
def integerTable : Instr → Option (Long × (Int → Int → Int → Int))
  | .iadd f => some (f, fun a b _ => a + b)
  | .isub f => some (f, fun a b _ => a - b)
  | .imul f => some (f, fun a b _ => a * b)
  | .imulh f => some (f, fun a b _ => a * b / 2 ^ elemWidth f.ty)
  | .imad f => some (f, fun a b c => a * b + c)
  | .imin f => some (f, fun a b _ => if a ≤ b then a else b)
  | .imax f => some (f, fun a b _ => if a ≤ b then b else a)
  | .iabs f => some (f, fun a _ _ => if a < 0 then -a else a)
  | _ => none

/-- The bitwise, shift and count instructions of R85 to R87, and the signs of R112, by element; the count of a shift under I64 is one
word. -/
def bitTable (i : Instr) : Option (Long × ((w : Nat) → BitVec w → BitVec w → BitVec w)) :=
  match i with
  | .iand f => some (f, fun _ a b => a &&& b)
  | .ior f => some (f, fun _ a b => a ||| b)
  | .ixor f => some (f, fun _ a b => a ^^^ b)
  | .iandn f => some (f, fun _ a b => a &&& ~~~b)
  | .ishl f => some (f, fun _ a b => a <<< b.toNat)
  | .ishr f => some (f, fun _ a b => a >>> b.toNat)
  | .isra f => some (f, fun _ a b => a.sshiftRight b.toNat)
  | .irot f => some (f, fun _ a b => a.rotateLeft b.toNat)
  | .ipopc f => some (f, fun _ a _ => a.cpop)
  | .iclz f => some (f, fun _ a _ => a.clz)
  | .ibrev f => some (f, fun _ a _ => a.reverse)
  | .fneg f => some (f, fun w a _ => a ^^^ BitVec.twoPow w (w - 1))
  | .fabs f => some (f, fun w a _ => a &&& ~~~(BitVec.twoPow w (w - 1)))
  | _ => none

/-- Is B one word whatever the type: the shifts under I64 (R86)? -/
def wordCount : Instr → Bool
  | .ishl f | .ishr f | .isra f | .irot f => f.ty == .i64
  | _ => false

/-! ## Cross-lane instructions -/

/-- A lane of a gang by its slice, its lane and its virtual number (R148). -/
structure VLane where
  k : Nat
  l : Nat
  v : Nat
  deriving DecidableEq, Repr

/-- The participants in the order of their virtual numbers (R149). -/
def participants (u : State) (i : Instr) (ms : List Nat) : List VLane :=
  ms.flatMap (fun k => (lanes.filter (activeIn i (u.sl k))).map (fun l => ⟨k, l, 4 * ms.idxOf k + l⟩))

/-- The lane of a virtual number, none when it is absent (R149). -/
def vlaneAt (u : State) (ms : List Nat) (n : Int) : Option VLane :=
  if n < 0 ∨ 4 * ms.length ≤ n then none
  else
    let k := ms.getD (n.toNat / 4) 0
    if (u.sl k).exited.getLsbD (n.toNat % 4) then none else some ⟨k, n.toNat % 4, n.toNat⟩

/-- The virtual number that a route word names at vlane v in a gang of n slices (R151): base from v or 0, an xor, a signed
distance; beyond the gang absent, wrapped or clamped. -/
def route (edge : BitVec 2) (n v : Nat) (w : Word) : Int :=
  let base := if w.getLsbD 11 then 0#5 else BitVec.ofNat 5 v
  let c : Int := (base ^^^ w.extractLsb' 6 5).toNat + (w.extractLsb' 0 6).toInt
  if edge = 0 then c else if edge = 1 then c % (4 * n) else max 0 (min c (4 * n - 1))

/-- The participants of V (R153). -/
def votes (u : State) (j : Nat) (ps : List VLane) : List VLane := ps.filter (fun p => ((u.sl p.k).kGet j).getLsbD p.l)

/-- The lane that a mover reads for a participant, none when it is absent (R151, R152). -/
def sourceLane (u : State) (i : Instr) (cs : Assoc Word) (ms : List Nat) (ps : List VLane) (p : VLane) : Option VLane :=
  match i with
  | .shfl f => vlaneAt u ms (route f.xw ms.length p.v (loWord (srcAt i (u.sl p.k) cs p.l 1)))
  | .shflx f => (votes u (f.ext8.extractLsb' 3 3).toNat ps)[(ps.filter (fun q => decide (q.v < p.v))).length]?
  | .bcast f => vlaneAt u ms (f.ext8.extractLsb' 0 5).toNat
  | _ => ps.head?

/-- The movers, with their report mask, 0 for none (R149, R151, R152). -/
def moverForm : Instr → Option (Long × Nat)
  | .shfl f | .shflx f => some (f, (f.ext8.extractLsb' 0 3).toNat)
  | .bcast f | .bcastFirst f => some (f, 0)
  | _ => none

/-- A word whose bit v is 1 for the virtual numbers of a list. -/
def maskWord (vs : List Nat) : Word := vs.foldl (fun w v => w ||| BitVec.twoPow 32 v) 0

/-- What the instructions that move no operand give a participant (R150, R153). -/
def numberFor (u : State) (i : Instr) (ms : List Nat) (ps : List VLane) (p : VLane) : Option Word :=
  match i with
  | .laneid f => some (if f.xw = 0 then BitVec.ofNat 32 p.v else if f.xw = 1 then BitVec.ofNat 32 (4 * ms.length)
      else maskWord (ps.map VLane.v))
  | .plane _ => some (BitVec.ofNat 32 (4 * (u.sl p.k).idx + p.l))
  | .vote f =>
    let v := votes u (f.ext8.extractLsb' 0 3).toNat ps
    if f.xw = 0 then some (maskWord (v.map VLane.v))
    else if f.xw = 1 then some (BitVec.ofNat 32 v.length)
    else if f.xw = 2 then some (BitVec.ofNat 32 (v.filter (fun q => decide (q.v < p.v))).length)
    else none
  | _ => none

/-- The condition of VOTE.test on the members of V among the participants (R153). -/
def testHolds (c : BitVec 3) (v n : Nat) : Bool :=
  if c = 0 then decide (v ≠ 0) else if c = 1 then decide (v = n) else if c = 2 then decide (v = 0 ∨ v = n)
  else if c = 3 then decide (v = 0) else decide (v ≠ 0 ∧ v ≠ n)

/-- The participants over which a reduction gives a participant its value (R154). -/
def reducedOver (i : Instr) (ps : List VLane) (p : VLane) : List VLane :=
  match i with
  | .scan f => ps.filter (fun q => decide (q.v < p.v) || (f.xw == 0 && q.v == p.v))
  | _ => ps

/-- The reduction of words by R154; F32 sums, minima and maxima by the operations of R48, R54 and R111. -/
def reduction (f : Long) (x : Slice) (mode : Nat) (lfsr : Word) (ws : List Word) : Word :=
  let op := (f.ext8.extractLsb' 0 3).toNat
  if f.ty = .f32 then BitVec.ofNat 32 (reduceWords f mode (x.fpmode.extractLsb' 0 10) lfsr (ws.map BitVec.toNat)).1
  else
    let val (w : Word) : Int := if f.ty = .i32 then w.toInt else w.toNat
    match op with
    | 0 => (finished (if f.ty = .i32 then .i32 else .n32) f.sat (ws.map val).sum).setWidth 32
    | 1 => ws.foldl (fun a b => if val a ≤ val b then a else b) (if f.ty = .i32 then 0x7FFFFFFF else 0xFFFFFFFF)
    | 2 => ws.foldl (fun a b => if val a ≤ val b then b else a) (if f.ty = .i32 then 0x80000000 else 0)
    | 3 => ws.foldl (· &&& ·) 0xFFFFFFFF
    | 4 => ws.foldl (· ||| ·) 0
    | _ => ws.foldl (· ^^^ ·) 0

/-- Operand A can be read in a lane. -/
def aLive (u : State) (i : Instr) (e : VLane) : Prop :=
  ∀ o ∈ sources i, o.pos = 0 → ∀ n, n < o.regs →
    (o.kind = .v → ((u.sl e.k).vRd (o.idx + n) e.l).dead = false) ∧ (o.kind = .s → ((u.sl e.k).sRd (o.idx + n)).dead = false)

/-- The operands after A can be read in the lanes that participate. -/
def restLive (u : State) (i : Instr) (p : VLane) : Prop :=
  ∀ o ∈ sources i, o.pos ≠ 0 → ∀ n, n < o.regs →
    (o.kind = .v → ((u.sl p.k).vRd (o.idx + n) p.l).dead = false) ∧ (o.kind = .s → ((u.sl p.k).sRd (o.idx + n)).dead = false)

/-- The frame of a cross-lane instruction in one slice. -/
def crossFramed (i : Instr) (report : Nat) (x y : Slice) : Prop :=
  (∀ r l, l < 4 → ¬ (vDest i r ∧ activeIn i x l = true) → ¬ (activeIn i x l = true ∧ lastUsed i .v r) → y.vRd r l = x.vRd r l) ∧
  (∀ r, ¬ lastUsed i .s r → y.sRd r = x.sRd r) ∧
  (∀ j l, l < 4 → ¬ ((kDest i j ∨ (j = report ∧ report ≠ 0)) ∧ activeIn i x l = true) →
    (y.kGet j).getLsbD l = (x.kGet j).getLsbD l) ∧
  y = { x.moved y with v := y.v, s := y.s, bad := y.bad, k := y.k, lfsr := y.lfsr, sticky := y.sticky }

end Sys2Proof.Claims
end

