-- ==== Sys2Proof/Claims/Float.lean ====
section
/-! DEFINITION. What the rules say of the values that the floating, conversion, special-function, dot-product and fused instructions
compute in a lane (spec R44 to R54, R109 to R131): element by element, an exact operation of Machine/Float.lean and one rounding. -/

namespace Sys2Proof.Claims

open Sys2Proof.Machine

/-! ## Rounding (R45, R46, R49) -/

/-- The magnitude x rounded in F, as the number of the encoding in the order of magnitudes: x lies between the multiples y and y + 1 of
the spacing of F there, and the mode chooses; u is the LFSR after its step. -/
def roundedMag (F : Fmt) (mode : Nat) (neg : Bool) (x : ℚ) (u : Word) : Nat :=
  let least : Int := 1 - F.bias - F.mbits
  let q : Int := max least (Int.log 2 x - F.mbits)
  let y : ℚ := x / 2 ^ q
  let r : ℚ := y - ⌊y⌋
  let above : Bool := match mode with
    | 1 => decide (1 / 2 < r) || (decide (r = 1 / 2) && decide (⌊y⌋ % 2 = 1))
    | 2 => false
    | 3 => neg
    | 4 => !neg
    | 5 => decide (2 ^ 32 ≤ ⌊r * 2 ^ 32⌋ + (u.toNat : Int))
    | _ => decide (1 / 2 ≤ r)
  (q - least).toNat * 2 ^ F.mbits + ⌊y⌋.toNat + if r ≠ 0 ∧ above = true then 1 else 0

/-- The real number of an exact value (R7). -/
def ratOf : FVal → Option ℚ
  | .fin n m e false => some ((if n then -1 else 1) * (m * 2 ^ e))
  | _ => none

/-! ## Elements -/

/-- Operand element j of a type as `val` after R44. -/
def readAs (e : LaneEnv) (t : Ty) (x : DWord) (j : Nat) : FVal := fread (fmtOf t) e.fpm (elemBits t x j).toNat

/-- The LFSR of the lane after n values rounded (R50). -/
def lfsrFrom (e : LaneEnv) (n : Nat) : Word := if e.mode = 5 then lfsrStep^[n] e.lfsr else e.lfsr

/-- `round` of R8 under the mode and FPMODE of the instruction. -/
def roundAs (F : Fmt) (e : LaneEnv) (v : FVal) (l : Word) : Nat := (fround F e.mode e.fpm v l).1

/-- What an instruction gives in a lane: so many elements of a width, each by its number, and the LFSR after it. -/
structure Values where
  width : Nat
  count : Nat
  value : LaneEnv → LaneIn → Nat → Nat
  lfsr : LaneEnv → LaneIn → Word

/-- Elements of an exact operation, each rounded once in its format, and clamped when SAT is set (R109). -/
def rounding (f : Long) (sat : Bool) (op : LaneEnv → LaneIn → Nat → FVal) : Values :=
  { width := elemWidth f.ty, count := f.ty.count, lfsr := fun e _ => lfsrFrom e f.ty.count
    value := fun e x j =>
      let b := roundAs (fmtOf f.ty) e (op e x j) (lfsrFrom e j)
      if sat then satFloat (fmtOf f.ty) b else b }

/-- Elements of a width that are not rounded under the mode: the LFSR stays. -/
def plain (w n : Nat) (value : LaneEnv → LaneIn → Nat → Nat) : Values :=
  { width := w, count := n, value := value, lfsr := fun e _ => e.lfsr }

/-- A sum is −0 when it is an exact zero under RDN (R48). -/
def down (e : LaneEnv) : Bool := decide (e.mode = 3)

/-- The special operands of RCP, RSQ and SQRT (R122). -/
def rcpOf : FVal → FVal
  | .nan => .nan
  | .inf n => .fin n 0 0 false
  | .fin n m e st => if m = 0 then .inf n else xdiv (.fin false 1 0 false) (.fin n m e st)
def rsqOf : FVal → FVal
  | .nan => .nan
  | .inf n => if n then .nan else .fin false 0 0 false
  | .fin n m e st => if m = 0 then .inf n else if n then .nan else xrsqrt (.fin n m e st)
def sqrtOf : FVal → FVal
  | .nan => .nan
  | .inf n => if n then .nan else .inf false
  | .fin n m e st => if m = 0 then .fin n 0 0 false else if n then .nan else xsqrt (.fin n m e st)

/-- The lesser or the greater of two encodings as read (R111). -/
def lesserOf (greater : Bool) (F : Fmt) (fpm : BitVec 10) (a b : Nat) : Nat :=
  let a1 := flushEnc F fpm a
  let b1 := flushEnc F fpm b
  let x := fval F a1
  let y := fval F b1
  if x.isNan ∧ y.isNan then F.nanEnc
  else if x.isNan then (if fpm.getLsbD 9 then F.nanEnc else b1)
  else if y.isNan then (if fpm.getLsbD 9 then F.nanEnc else a1)
  else if (if greater then x.below y else y.below x) then b1 else a1

/-- The class word of an encoding (R114). -/
def classOf (F : Fmt) (b : Nat) : Nat :=
  match fval F b with
  | .nan => if F = .f32 ∧ b = 0x7FC00001 then 0x300 else 0x100
  | .inf n => if n then 2 ^ 0 else 2 ^ 7
  | .fin n m _ _ => if m = 0 then (if n then 2 ^ 3 else 2 ^ 4)
      else if b / 2 ^ F.mbits % 2 ^ F.ebits = 0 then (if n then 2 ^ 2 else 2 ^ 5) else (if n then 2 ^ 1 else 2 ^ 6)

/-- A value less its floor, toward zero (R115). -/
def fracOf (F : Fmt) (fpm : BitVec 10) : FVal → Nat
  | .fin n m k st => (fround F 2 fpm (if m = 0 then .fin false 0 0 false
      else xsum false [.fin n m k st, fint (-(roundInt 3 (.fin n m k st) 1).1)]) 1).1
  | _ => F.nanEnc

/-- The exponent of a value in a signed type of w bits (R116). -/
def exponentOf (w : Nat) : FVal → Int
  | .fin _ m k _ => if m = 0 then -2 ^ (w - 1) else Nat.log2 m + k
  | _ => 2 ^ (w - 1) - 1

/-- A value rounded to an integral value of its format (R115). -/
def integralOf (F : Fmt) (e : LaneEnv) (l : Word) : FVal → Nat
  | .fin n m k st => (fround F 1 e.fpm (.fin n (roundInt e.mode (.fin n m k st) l).1.natAbs 0 false) l).1
  | v => (fround F 1 e.fpm v l).1

/-- The conditions of FCMP by EXT8 [2:0] (R113). -/
def fcmpTable : List (FVal → FVal → Bool) :=
  [fun a b => a.eq b, fun a b => a.isNan || b.isNan || !a.eq b, fun a b => a.lt b, fun a b => a.lt b || a.eq b, fun a b => b.lt a,
   fun a b => b.lt a || a.eq b, fun a b => a.isNan || b.isNan, fun a b => !(a.isNan || b.isNan)]

/-- The bit that FCMP writes: its condition on the elements that XW chooses, combined with the old bit by EXT8 [4:3] (R113). -/
def compared (f : Long) (e : LaneEnv) (x : LaneIn) : Bool :=
  let c (j : Nat) := (fcmpTable.getD (f.ext8.extractLsb' 0 3).toNat (fun _ _ => false)) (readAs e f.ty x.a j) (readAs e f.ty x.b j)
  let t := if f.xw = 0 then c 0 else if f.xw = 1 then c 1 else if f.xw = 2 then c 0 && c 1 else c 0 || c 1
  if f.ext8.extractLsb' 3 2 = 0 then t else if f.ext8.extractLsb' 3 2 = 1 then e.kd && t else e.kd || t

/-! ## Conversions (R51, R52, R117 to R121) -/

/-- An encoding of one type converted to another, by the row of R118. -/
def convertedTo (e : LaneEnv) (dty sty : Ty) (sat : Bool) (b : BitVec (elemWidth sty)) (l : Word) : Nat :=
  let F := fmtOf sty
  let exact : FVal := if sty.isFloat then fread F e.fpm b.toNat else fint (if elemSigned sty then b.toInt else b.toNat)
  match cvtRow sty dty with
  | .same => if sty.isFloat = false then b.toNat else if exact.isNan then F.nanEnc else flushEnc F e.fpm b.toNat
  | .exact => (fround (fmtOf dty) 1 e.fpm exact l).1
  | .toFloat => roundAs (fmtOf dty) e exact l
  | .toInt => match (if F = .e4m3 ∨ F = .e5m2 then fval F b.toNat else exact) with
    | .nan => 0
    | .inf n => (finished dty true (if n then -2 ^ 64 else 2 ^ 64)).toNat
    | v => (finished dty true (roundInt e.mode v l).1).toNat
  | .intInt => (finished dty sat (if elemSigned sty then b.toInt else b.toNat)).toNat

/-- The LFSR after n conversions: those that round under the mode step it (R50, R118). -/
def lfsrConverted (e : LaneEnv) (dty sty : Ty) (n : Nat) : Word := if rowRm (cvtRow sty dty) then lfsrFrom e n else e.lfsr

/-- The scale of a block whose greatest magnitude is v (R121). -/
def scaleOf (emax : Int) : FVal → Nat
  | .fin _ m k _ => if m = 0 then 0 else (max 0 (min 254 (Nat.log2 m + k - emax + 127))).toNat
  | _ => 0xFF

/-! ## Dot products (R54, R128) -/

/-- The type of B's elements. -/
def dotOther (f : Long) : Ty :=
  if f.xw = 0 then f.ty else (match f.ty with
    | .e4m3x4 => .e5m2x4 | .e5m2x4 => .e4m3x4 | .i8x4 => .n8x4 | .n8x4 => .i8x4 | t => t)

/-- One exact sum of C and the products, rounded once, or wrapped or saturated. -/
def dotValues (f : Long) : Values :=
  let js := List.range f.ty.count
  { width := 32, count := 1, lfsr := fun e _ => if f.ty.isFloat then lfsrFrom e 1 else e.lfsr
    value := fun e x _ =>
      if f.ty.isFloat then
        roundAs .f32 e (xsum (down e) (readAs e .f32 x.c 0 :: js.map (fun j => xmul (readAs e f.ty x.a j) (readAs e (dotOther f) x.b j))))
          e.lfsr
      else
        let t : Ty := if elemSigned f.ty = true ∨ f.xw ≠ 0 then .i32 else .n32
        (finished t f.sat (elemVal t x.c 0 + (js.map (fun j => elemVal f.ty x.a j * elemVal (dotOther f) x.b j)).sum)).toNat }

/-! ## FUSE (R129 to R131) -/

/-- How many entries an operator takes off the stack. -/
def fuseTakes : FuseOp → Nat
  | .add | .sub | .mul | .min | .max => 2
  | .fma => 3
  | _ => 1

/-- Does an operator round under a type (R130)? -/
def fuseRounds (t : Ty) (op : FuseOp) : Bool :=
  decide (op ∈ [FuseOp.add, .sub, .mul, .fma, .rcp, .rsq]) || (decide (t ≠ .f32) && decide (op ∈ [FuseOp.exp2, .log2]))

/-- EXP2 and LOG2 as an operator (R130). -/
def fuseProcedure (e : LaneEnv) (t : Ty) (proc : FVal → Nat) (x : Nat) (l : Word) : Nat :=
  let word := if t = .f32 then x else (fround .f32 1 0 (fread (fmtOf t) e.fpm x) l).1
  let r := flushEnc .f32 e.fpm (proc (fread .f32 e.fpm word))
  if t = .f32 then r else roundAs (fmtOf t) e (fval .f32 r) l

/-- An operator on the entries it takes, x pushed first, under a floating type (R130). -/
def fuseFloat (e : LaneEnv) (t : Ty) (op : FuseOp) (x y z : Nat) (l : Word) : Nat :=
  let F := fmtOf t
  let v (n : Nat) : FVal := fread F e.fpm n
  match op with
  | .add => roundAs F e (xsum (down e) [v x, v y]) l
  | .sub => roundAs F e (xsum (down e) [v x, (v y).negate]) l
  | .mul => roundAs F e (xmul (v x) (v y)) l
  | .fma => roundAs F e (xsum (down e) [xmul (v x) (v y), v z]) l
  | .min => lesserOf false F e.fpm x y
  | .max => lesserOf true F e.fpm x y
  | .neg => if x < 2 ^ (F.width - 1) then x + 2 ^ (F.width - 1) else x - 2 ^ (F.width - 1)
  | .abs => x % 2 ^ (F.width - 1)
  | .rcp => roundAs F e (rcpOf (v x)) l
  | .rsq => roundAs F e (rsqOf (v x)) l
  | .exp2 => fuseProcedure e t procExp2 x l
  | .log2 => fuseProcedure e t procLog2 x l
  | .clamp01 => satFloat F (flushEnc F e.fpm x)
  | _ => x

/-- The same under I32 (R131). -/
def fuseInt (op : FuseOp) (x y z : Word) : Word :=
  match op with
  | .add => x + y
  | .sub => x - y
  | .mul => x * y
  | .fma => x * y + z
  | .min => if x.sle y then x else y
  | .max => if x.sle y then y else x
  | .neg => -x
  | .abs => if x.slt 0 then -x else x
  | _ => x

/-- One operator on the stack, its top first, and the LFSR after it. -/
def fuseOn (e : LaneEnv) (t : Ty) (op : FuseOp) (st : List Nat) (l : Word) : List Nat × Word :=
  let n := fuseTakes op
  match op, st with
  | .dup, x :: r => (x :: x :: r, l)
  | .swap, y :: x :: r => (x :: y :: r, l)
  | .dup, [] | .swap, _ => (st, l)
  | _, _ =>
    if st.length < n then (st, l)
    else
      let at_ (j : Nat) : Nat := st.getD (n - 1 - j) 0
      if t = .i32 then
        ((fuseInt op (BitVec.ofNat 32 (at_ 0)) (BitVec.ofNat 32 (at_ 1)) (BitVec.ofNat 32 (at_ 2))).toNat :: st.drop n, l)
      else
        (fuseFloat e t op (at_ 0) (at_ 1) (at_ 2) l :: st.drop n, if fuseRounds t op ∧ e.mode = 5 then lfsrStep l else l)

/-- The slots in order until END, the inputs not yet pushed, the stack, and the LFSR (R129). -/
def fuseRun (e : LaneEnv) (t : Ty) : List Slot → List Nat → List Nat → Word → Nat × Word
  | [], _, st, l => (st.headD 0, l)
  | s :: rest, ins, st, l =>
    if s.op = .fin then (st.headD 0, l)
    else
      let r := fuseOn e t s.op (if s.push then ins.headD 0 :: st else st) l
      fuseRun e t rest (if s.push then ins.tail else ins) r.1 r.2

/-- Element j of FUSE from the LFSR before it, and the LFSR after it. -/
def fuseElement (f : FuseWord) (e : LaneEnv) (x : LaneIn) (j : Nat) (l : Word) : Nat × Word :=
  let t := fuseTy f.ft
  let input (y : DWord) : Nat := if t = .i32 then (elemBits t y j).toNat else flushEnc (fmtOf t) e.fpm (elemBits t y j).toNat
  let r := fuseRun e t f.slots [input x.b, input x.c, input x.vd] [input x.a] l
  (if t ≠ .i32 ∧ (fval (fmtOf t) r.1).isNan = true then (fmtOf t).nanEnc else r.1, r.2)

/-- The LFSR before element j of FUSE. -/
def fuseLfsr (f : FuseWord) (e : LaneEnv) (x : LaneIn) : Nat → Word
  | 0 => e.lfsr
  | j + 1 => (fuseElement f e x j (fuseLfsr f e x j)).2

/-! ## The table -/

/-- The instructions of chapter 05 that write a register, by their rules (R110 to R131). An exponent of FLDEXP beyond 5,000 either way
gives the overflow or underflow that 5,000 gives. -/
def floatTable : Instr → Option Values
  | .fadd f => some (rounding f f.sat (fun e x j => xsum (down e) [readAs e f.ty x.a j, readAs e f.ty x.b j]))
  | .fsub f => some (rounding f f.sat (fun e x j => xsum (down e) [readAs e f.ty x.a j, (readAs e f.ty x.b j).negate]))
  | .fmul f => some (rounding f f.sat (fun e x j => xmul (readAs e f.ty x.a j) (readAs e f.ty x.b j)))
  | .ffma f => some (rounding f f.sat (fun e x j =>
      xsum (down e) [xmul (readAs e f.ty x.a j) (readAs e f.ty x.b j), readAs e f.ty x.c j]))
  | .fldexp f => some (rounding f false (fun e x j => (readAs e f.ty x.a j).scale (max (-5000) (min 5000
      (if f.ty.count = 2 then (elemBits .i16x2 x.b j).toInt else (x.b.extractLsb' 0 32).toInt)))))
  | .scaleApply f => some (rounding f false (fun e x j =>
      let s := (x.b.extractLsb' (8 * (f.ext8.extractLsb' 0 2).toNat) 8).toNat
      if s = 0xFF then .nan else (readAs e f.ty x.a j).scale (s - 127)))
  | .rcp f => some (rounding f f.sat (fun e x j => rcpOf (readAs e f.ty x.a j)))
  | .rsq f => some (rounding f f.sat (fun e x j => rsqOf (readAs e f.ty x.a j)))
  | .sqrt f => some (rounding f f.sat (fun e x j => sqrtOf (readAs e f.ty x.a j)))
  | .fmin f => some (plain (elemWidth f.ty) f.ty.count (fun e x j =>
      lesserOf false (fmtOf f.ty) e.fpm (elemBits f.ty x.a j).toNat (elemBits f.ty x.b j).toNat))
  | .fmax f => some (plain (elemWidth f.ty) f.ty.count (fun e x j =>
      lesserOf true (fmtOf f.ty) e.fpm (elemBits f.ty x.a j).toNat (elemBits f.ty x.b j).toNat))
  | .fclass f => some (plain (elemWidth f.ty) f.ty.count (fun _ x j => classOf (fmtOf f.ty) (elemBits f.ty x.a j).toNat))
  | .ffrac f => some (plain (elemWidth f.ty) f.ty.count (fun e x j => fracOf (fmtOf f.ty) e.fpm (readAs e f.ty x.a j)))
  | .fgetexp f =>
    let w := if f.ty.count = 2 then 16 else 32
    some (plain w f.ty.count (fun e x j => (BitVec.ofInt w (exponentOf w (readAs e f.ty x.a j))).toNat))
  | .frnd f => some { width := elemWidth f.ty, count := f.ty.count, lfsr := fun e _ => lfsrFrom e f.ty.count
                      value := fun e x j => integralOf (fmtOf f.ty) e (lfsrFrom e j) (readAs e f.ty x.a j) }
  | .cvt f => some { width := elemWidth f.ty, count := f.ty.count, lfsr := fun e _ => lfsrConverted e f.ty f.sty f.ty.count
                     value := fun e x j => convertedTo e f.ty f.sty f.sat (elemBits f.sty x.a j) (lfsrConverted e f.ty f.sty j) }
  | .pack f =>
    let p := (f.ext8.extractLsb' 4 2).toNat
    some { width := elemWidth f.ty, count := f.ty.count, lfsr := fun e _ => lfsrConverted e f.ty f.sty 2
           value := fun e x j =>
            if j = 2 * p then convertedTo e f.ty f.sty f.sat (elemBits f.sty x.a 0) e.lfsr
            else if j = 2 * p + 1 then convertedTo e f.ty f.sty f.sat (elemBits f.sty x.b 0) (lfsrConverted e f.ty f.sty 1)
            else (elemBits f.ty x.vd j).toNat }
  | .unpack f => some { width := 32, count := 1, lfsr := fun e _ => lfsrConverted e f.ty f.sty 1
                        value := fun e x _ =>
                          convertedTo e f.ty f.sty f.sat (elemBits f.sty x.a (f.ext8.extractLsb' 4 3).toNat) e.lfsr }
  | .scaleFit f => some (plain 8 4 (fun e x j =>
      if j = (f.ext8.extractLsb' 4 2).toNat then
        scaleOf (if f.sty = .e4m3x4 then 8 else if f.sty = .e5m2x4 then 15 else 2) (readAs e .f32 x.a 0)
      else (x.vd.extractLsb' (8 * j) 8).toNat))
  | .exp2 _ => some (plain 32 1 (fun e x _ => flushEnc .f32 e.fpm (procExp2 (readAs e .f32 x.a 0))))
  | .log2 _ => some (plain 32 1 (fun e x _ => flushEnc .f32 e.fpm (procLog2 (readAs e .f32 x.a 0))))
  | .sinpi _ => some (plain 32 1 (fun e x _ => flushEnc .f32 e.fpm (procSinCos false (readAs e .f32 x.a 0))))
  | .cospi _ => some (plain 32 1 (fun e x _ => flushEnc .f32 e.fpm (procSinCos true (readAs e .f32 x.a 0))))
  | .dot2 f | .dot4 f | .dot8 f => some (dotValues f)
  | .fuse f => some { width := elemWidth (fuseTy f.ft), count := (fuseTy f.ft).count
                      value := fun e x j => (fuseElement f e x j (fuseLfsr f e x j)).1
                      lfsr := fun e x => fuseLfsr f e x (fuseTy f.ft).count }
  | _ => none

end Sys2Proof.Claims
end

