-- ==== Sys2Proof/Claims/Scalar.lean ====
section
/-! DEFINITION. What the rules say that the slice-scalar and mask instructions write (spec R74, R100 to R107): for each
instruction the s registers it reads and the one place it writes, from the tables of the specification. -/

namespace Sys2Proof.Claims

open Sys2Proof.Machine

/-- A place and the value written to it, from the slice as it was: nothing, an s register, a pair of s registers, a mask. -/
inductive Write where
  | nothing
  | word (r : Nat) (v : Slice → Word)
  | pair (r : Nat) (v : Slice → DWord)
  | mask (j : Nat) (v : Slice → BitVec 4)

/-- The value stands in its place, live, in the slice afterwards. -/
def Write.done (w : Write) (x y : Slice) : Prop :=
  match w with
  | .nothing => True
  | .word r v => y.sRd r = ⟨v x, false, false⟩
  | .pair r v => y.sRd r = ⟨loWord (v x), false, false⟩ ∧ y.sRd (r + 1) = ⟨hiWord (v x), false, false⟩
  | .mask j v => y.kGet j = v x

/-- Nothing else of the slice has changed but the account of its issue: no other s register, no other mask, no v register,
no flag, no special register, nothing of its path but the PC. -/
def Write.framed (w : Write) (x y : Slice) : Prop :=
  match w with
  | .nothing => y = x.moved y
  | .word r _ => y = { x.moved y with s := y.s, bad := y.bad } ∧ ∀ q, q ≠ r → y.sRd q = x.sRd q
  | .pair r _ => y = { x.moved y with s := y.s, bad := y.bad } ∧ ∀ q, q ≠ r → q ≠ r + 1 → y.sRd q = x.sRd q
  | .mask j _ => y = { x.moved y with k := y.k } ∧ ∀ q, q ≠ j → y.kGet q = x.kGet q

/-- A result of two s registers, of one, of two masks. -/
def two (d a b : BitVec 6) (f : Word → Word → Word) : List Nat × Write :=
  ([a.toNat, b.toNat], .word d.toNat (fun x => f (x.sVal a.toNat) (x.sVal b.toNat)))
def one (d a : BitVec 6) (f : Word → Word) : List Nat × Write := ([a.toNat], .word d.toNat (fun x => f (x.sVal a.toNat)))
def masks (d a b : BitVec 6) (f : BitVec 4 → BitVec 4 → BitVec 4) : List Nat × Write :=
  ([], .mask d.toNat (fun x => f (x.kGet a.toNat) (x.kGet b.toNat)))

/-- The condition of SCMP by FN6 (R102). -/
def scmpTable : List (Word → Word → Bool) :=
  [fun a b => a == b, fun a b => a != b, fun a b => a.slt b, fun a b => a.sle b, fun a b => b.slt a, fun a b => b.sle a,
   fun a b => a.ult b, fun a b => a.ule b, fun a b => b.ult a, fun a b => b.ule a]

/-- The slice-scalar and mask instructions by the tables of R74, R101 to R107: what each reads and what it writes. -/
def scalarTable : Instr → Option (List Nat × Write)
  | .nop => some ([], .nothing)
  | .sadd d a b => some (two d a b (fun x y => x + y))
  | .ssub d a b => some (two d a b (fun x y => x - y))
  | .smul d a b => some (two d a b (fun x y => x * y))
  | .smulh d a b => some (two d a b (fun x y => hiWord (x.signExtend 64 * y.signExtend 64)))
  | .smulhn d a b => some (two d a b (fun x y => hiWord (x.setWidth 64 * y.setWidth 64)))
  | .sand d a b => some (two d a b (fun x y => x &&& y))
  | .sor d a b => some (two d a b (fun x y => x ||| y))
  | .sxor d a b => some (two d a b (fun x y => x ^^^ y))
  | .sandn d a b => some (two d a b (fun x y => x &&& ~~~y))
  | .sshl d a b => some (two d a b (fun x y => x <<< y.toNat))
  | .sshr d a b => some (two d a b (fun x y => x >>> y.toNat))
  | .ssra d a b => some (two d a b (fun x y => x.sshiftRight y.toNat))
  | .srot d a b => some (two d a b (fun x y => x.rotateLeft y.toNat))
  | .smin d a b => some (two d a b (fun x y => if x.sle y then x else y))
  | .smax d a b => some (two d a b (fun x y => if x.sle y then y else x))
  | .sminn d a b => some (two d a b (fun x y => if x.ule y then x else y))
  | .smaxn d a b => some (two d a b (fun x y => if x.ule y then y else x))
  | .sclz d a => some (one d a (fun x => x.clz))
  | .spopc d a => some (one d a (fun x => x.cpop))
  | .smov d a => some (one d a (fun x => x))
  | .scmp c d a b => some (two d a b (fun x y => if (scmpTable.getD c.toNat (fun _ _ => false)) x y then 1 else 0))
  | .sadd64 d a b => some ([a.toNat, a.toNat + 1, b.toNat, b.toNat + 1],
      .pair d.toNat (fun x => x.sPair a.toNat + x.sPair b.toNat))
  | .ssub64 d a b => some ([a.toNat, a.toNat + 1, b.toNat, b.toNat + 1],
      .pair d.toNat (fun x => x.sPair a.toNat - x.sPair b.toNat))
  | .sshl64 d a b => some ([a.toNat, a.toNat + 1, b.toNat], .pair d.toNat (fun x => x.sPair a.toNat <<< (x.sVal b.toNat).toNat))
  | .sshr64 d a b => some ([a.toNat, a.toNat + 1, b.toNat], .pair d.toNat (fun x => x.sPair a.toNat >>> (x.sVal b.toNat).toNat))
  | .saddi d a i => some (one d a (fun x => x + i.signExtend 32))
  | .sandi d a i => some (one d a (fun x => x &&& i.signExtend 32))
  | .sori d a i => some (one d a (fun x => x ||| i.signExtend 32))
  | .sxori d a i => some (one d a (fun x => x ^^^ i.signExtend 32))
  | .sshli d a i => some (one d a (fun x => x <<< i.toNat))
  | .sshri d a i => some (one d a (fun x => x >>> i.toNat))
  | .ssrai d a i => some (one d a (fun x => x.sshiftRight i.toNat))
  | .scmpi d a i => some (one d a (fun x => if x.slt (i.signExtend 32) then 1 else 0))
  | .slil d i => some ([], .word d.toNat (fun _ => i.signExtend 32))
  | .slih d i => some (one d d (fun x => i ++ x.extractLsb' 0 18))
  | .kand d a b => some (masks d a b (fun x y => x &&& y))
  | .kor d a b => some (masks d a b (fun x y => x ||| y))
  | .kxor d a b => some (masks d a b (fun x y => x ^^^ y))
  | .kandn d a b => some (masks d a b (fun x y => x &&& ~~~y))
  | .knot d a => some (masks d a a (fun x _ => ~~~x))
  | .kset d i => some ([], .mask d.toNat (fun _ => i))
  | .kmovsToMask d a => some ([a.toNat], .mask d.toNat (fun x => (x.sVal a.toNat).setWidth 4))
  | .kmovsToScalar d a => some ([], .word d.toNat (fun x => (x.kGet a.toNat).setWidth 32))
  | _ => none

end Sys2Proof.Claims
end

