-- ==== Sys2Proof/Claims/Special.lean ====
section
/-! DEFINITION. What the rules say of the special registers (spec R15 to R23): the value each reads as, and what a write of it
changes, field by field from the maps of the specification. -/

namespace Sys2Proof.Claims

open Sys2Proof.Machine

/-- STATUS as the map of R19 lays it out, in slice k as x. -/
def statusOf (s : State) (k : Nat) (x : Slice) : Word :=
  0#23 ++ (BitVec.ofBool ((s.tm x.team).header.ctl.getLsbD 12) ++
    (BitVec.ofBool (decide (s.members k ≠ s.launchGang x.team (x.idx / 8))) ++ (BitVec.ofBool x.frame.isSome ++
    (x.sticky.extractLsb' 5 1 ++ (BitVec.ofBool (x.farstat.extractLsb' 0 4 != 0) ++ (x.poison.extractLsb' 10 1 ++
    x.sticky.extractLsb' 0 3))))))

/-- TOKSTAT (R16): the done bits, the error bits, the depth of the token stack. -/
def tokstatOf (s : State) (x : Slice) : Word :=
  let done (j : Nat) := BitVec.ofBool (((s.tm x.team).token j).count == 0)
  let err (j : Nat) := BitVec.ofBool ((s.tm x.team).token j).err
  BitVec.ofNat 16 x.stack.length ++ (
    (err 7 ++ (err 6 ++ (err 5 ++ (err 4 ++ (err 3 ++ (err 2 ++ (err 1 ++ err 0))))))) ++
    (done 7 ++ (done 6 ++ (done 5 ++ (done 4 ++ (done 3 ++ (done 2 ++ (done 1 ++ done 0))))))))

/-- What each special register reads as, in slice k of a state, whose registers are x (R16). -/
def specialValue (s : State) (k : Nat) (x : Slice) (sel : Nat) : Option Word :=
  let tm := s.tm x.team
  match sel with
  | 0x00 => some ((tm.header.wid tm.index (4 * x.idx)).extractLsb' 0 32)
  | 0x01 => some ((tm.header.wid tm.index (4 * x.idx)).extractLsb' 32 32)
  | 0x02 => some (BitVec.ofNat 32 (x.idx + 32 * (k % 64)))
  | 0x03 => some (0#23 ++ (BitVec.ofBool (decide (s.members k ≠ s.launchGang x.team (x.idx / 8))) ++
      (BitVec.ofNat 3 ((s.members k).length - 1) ++ (BitVec.ofNat 3 ((s.members k).idxOf k) ++ BitVec.ofNat 2 (x.idx / 8)))))
  | 0x04 => some (BitVec.ofNat 32 (slotOfTeam x.team))
  | 0x05 => some (BitVec.ofNat 32 (coreOfSlice k % 256))
  | 0x06 => some (BitVec.ofNat 32 (clusterOfCore (coreOfSlice k)))
  | 0x07 => some (BitVec.ofNat 32 (dieOfCore (coreOfSlice k)))
  | 0x08 => some (0#12 ++ s.podcfg.extractLsb' 0 20)
  | 0x09 => some (0#16 ++ tm.job)
  | 0x0A => some (0#20 ++ tm.gen)
  | 0x0B => some (BitVec.ofNat 32 s.ns)
  | 0x0C => some (x.timehi.getD (BitVec.ofNat 32 (s.ns / 2 ^ 32)))
  | 0x0D => some (0#31 ++ BitVec.ofBool (s.pt tm.part).preq)
  | 0x0E => some x.fpmode
  | 0x0F => some (statusOf s k x)
  | 0x10 => some x.farstat
  | 0x11 => some x.poison
  | 0x12 => some x.trapen
  | 0x13 => some tm.trapvec
  | 0x14 => some (x.fairCount ++ x.fair)
  | 0x15 => some (0#21 ++ (tm.launchPrio ++ (BitVec.ofNat 4 (s.effPrio x.team) ++ (0#1 ++ tm.prio))))
  | 0x16 => some (tokstatOf s x)
  | 0x17 => some (BitVec.ofNat 32 (x.fl + 2 ^ 6 * x.fs + 2 ^ 12 * x.cp + 2 ^ 18 * x.tl))
  | 0x18 => some (BitVec.ofNat 32 tm.spbase)
  | 0x19 => some (BitVec.ofNat 32 tm.splimit)
  | 0x1A => some (0#28 ++ (s.pt tm.part).partcfg.extractLsb' 52 4)
  | 0x1B => some (x.lfsr.get 0)
  | _ => none

/-- The latch of R17 after a read: TIMELO takes the high half of its sample, TIMEHI uses it up. -/
def latchAfter (s : State) (x : Slice) (sel : Nat) : Option Word :=
  if sel = 0x0B then some (BitVec.ofNat 32 (s.ns / 2 ^ 32)) else if sel = 0x0C then none else x.timehi

/-- The three forms of SSET (R15): the selector, the operand's register, and how the register and the operand combine. -/
def ssetForm : Instr → Option (Nat × Nat × (Word → Word → Word))
  | .sset sel a => some (sel.toNat, a.toNat, fun _ w => w)
  | .ssetSet sel a => some (sel.toNat, a.toNat, fun r w => r ||| w)
  | .ssetClr sel a => some (sel.toNat, a.toNat, fun r w => r &&& ~~~w)
  | _ => none

/-- A word with the bits under a mask taken from another. -/
def under (mask old w : Word) : Word := (old &&& ~~~mask) ||| (w &&& mask)

/-- What the hardware has set in FARSTAT and POISON of a slice in a cycle (R24). -/
def hwIn (now : Nat) (x : Slice) : HwSet :=
  if x.hw.cycle = now then x.hw
  else { cycle := now, far := 0, count := 0, farBase := x.farstat, poison := none, poisonBase := x.poison
         held := x.poison.getLsbD 10, wrote := x.hw.wrote }

/-- What an SSET combines its operand with: FARSTAT and POISON without what the hardware has set in this cycle (R24). -/
def findsBefore (s : State) (x : Slice) (sel : Nat) : Word :=
  if sel = 0x10 then (hwIn s.cycle x).farBase else if sel = 0x11 then (hwIn s.cycle x).poisonBase
  else (specialValue (s.issued [s.cur]) s.cur ((s.issued [s.cur]).sl s.cur) sel).getD 0

/-- The writable fields of the special registers of a slice, written with a word (R15, R16, R20). -/
def specialField (now sel : Nat) (w : Word) (x : Slice) : Option Slice :=
  let h := hwIn now x
  match sel with
  | 0x0E => some { x with fpmode := 0#22 ++ (w.extractLsb' 3 7 ++
      (if w.extractLsb' 0 3 = 0 ∨ w.extractLsb' 0 3 = 7 then 1#3 else w.extractLsb' 0 3)) }
  | 0x0F => some { x with sticky := w &&& 0x27 }
  | 0x10 =>
    let y := under 0x00FF000F h.farBase w
    some { x with farstat := raiseCount (y ||| h.far) h.count, hw := { h with farBase := y } }
  | 0x11 =>
    let y := under 0x0000FDFF h.poisonBase w
    some { x with
      poison := match h.poison with | some r => if h.held = false ∨ y.getLsbD 10 = false then r else y | none => y
      hw := { h with poisonBase := y, wrote := now + 1 } }
  | 0x12 => some { x with trapen := 0#26 ++ w.extractLsb' 0 6 }
  | 0x14 => some { x with fair := if (w.extractLsb' 0 16).toNat < 16 then 16 else w.extractLsb' 0 16 }
  | _ => none

/-- The LFSR of a lane after a form of SSET with operand w, zero replaced (R18). -/
def lfsrAfter (i : Instr) (x : Slice) (w : Word) (l : Nat) : Word :=
  let v := match i with
    | .sset _ _ => w ^^^ BitVec.ofNat 32 (l * 0x01010101)
    | .ssetSet _ _ => x.lfsr.get l ||| w
    | _ => x.lfsr.get l &&& ~~~w
  if v = 0 then 1 else v

end Sys2Proof.Claims
end

