-- ==== Sys2Proof/Certificates/Slice0/Obligations.lean ====
section
/-! DEFINITION. The statements made of the model. Each docstring names the rules of the specification it formalises, or the
model's choice and its log entry. -/

open Sys2Proof Sys2Proof.Machine Sys2Proof.Claims

/-! ## Encoding -/

/-- R58, R61 to R70: the granules of a well-formed instruction decode to it, every operand at every value it admits. -/
def Obligations.DecodeOfEncode : Prop := ∀ i : Instr, i.isEncoded = true → i.WellFormed → decodeList (encode i) = .ok i

/-- R58, R72: granules that decode give a well-formed instruction whose encoding they are, so no two words mean the same
instruction and no bit is dropped. -/
def Obligations.EncodeOfDecode : Prop := ∀ (g0 g1 g2 : Word) (i : Instr), decode g0 g1 g2 = .ok i →
  i.WellFormed ∧ encode i = if isLong g0 then [g0, g1, g2] else [g0]

/-- R63, R65, R73, R75 and the worked encodings of R83, R102, R105, R106, R136: words of the specification and what they decode to. -/
def Obligations.DecodeWords : Prop :=
  decodeList [0x1820462A] = .ok (.scmp 6 6 1 2) ∧ decodeList [0x159E0550] = .ok (.slil 5 0x5678) ∧
  decodeList [0x01234552] = .ok (.slih 5 0x48D) ∧ decodeList [0x0020038A] = .ok (.kandn 3 0 2) ∧
  decodeList [0x00000070] = .ok .merge ∧ decodeList [0x00000072] = .ok .regang ∧ decodeList [0x00000074] = .ok .yield ∧
  decodeList [0x0000007E] = .ok .exit ∧ decodeList [0x0000386E] = .ok (.ptoken 14) ∧
  decodeList [0x00030462] = .ok (.brc 0 1 0 6) ∧
  decodeList [0x21426C0B, 0x00402101, 0x00000004] = .ok (.imad
    { xw := 0, sat := true, rm := 0, ty := .i8x4, vd := 9, pn := true, pk := 3
      a := ⟨.v, false, true, 1⟩, b := ⟨.s, false, false, 2⟩, ext8 := 0, g2 := .cd ⟨.v, false, false, 4⟩ ⟨.v, false, false, 0⟩ 0 })

/-- R72, R73: a short word whose OP7 the map does not assign fails check 1, and one with a reserved bit set fails check 2. -/
def Obligations.ReservedWordsRejected : Prop :=
  (∀ g0 : Word, g0.getLsbD 0 = false →
    (g0.extractLsb' 1 7).toNat ∈ [0, 27, 28, 29, 30, 31, 42, 43, 44, 45, 46, 47, 73, 74, 75, 76, 77, 78, 79, 87, 88, 89, 90, 91, 92,
      93, 94, 95, 109, 110, 111, 125, 126, 127] → decode g0 0 0 = .error 1) ∧
  (∀ (d a b : BitVec 6) (x : BitVec 6), x ≠ 0 → decode (x ++ (b ++ (a ++ (d ++ (2#7 ++ 0#1))))) 0 0 = .error 2)

/-! ## Steps -/

/-- R58, R60, R211, R212, R302: the turn at the head of the agenda belongs to a slice that can issue, its granules are fetched, or its
gang has begun a short instruction and holds its granule, they decode
to an instruction whose registers the team has, nothing stalls it, and an instruction that each slice executes for itself comes
to it in position order: the step executes that instruction for the slice, and the slices that have still to execute it hold its granule. The
turn at the head of the agenda is a device event of the table: the step is the event's effect (log entry 1). -/
def Obligations.StepRuns : Prop :=
  (∀ (s s1 : State) (k : Nat) (rest : List Turn) (g0 g1 g2 : Word) (i : Instr), s.agenda = .issue k :: rest →
    let u := { s with agenda := rest, freeNo := s.freeNo + 1 }
    u.canIssue k = true → (match (u.sl k).granule with
      | none => u.fetch (u.codeFence (u.members k)) (u.sl k).team (u.sl k).pc = .ok ((g0, g1, g2), s1)
      | some g => (g, 0, 0) = (g0, g1, g2) ∧ u = s1) → decode g0 g1 g2 = .ok i →
    i.beyond (s1.tm (u.sl k).team).header.regs = false → s1.stalls k (isPerSlice i) i = false →
    let turn := (u.members k).filter (fun j => !(u.sl j).midway)
    (isPerSlice i = true → turn.head? = some k) →
    ∃ t, step s = exec i t ∧ t = { s1 with cur := k, slices := t.slices } ∧ ∀ j, s1.present j →
      t.sl j = if isPerSlice i = true ∧ j ∈ turn then { s1.sl j with granule := some g0 } else s1.sl j) ∧
  (∀ (s : State) (rest : List Turn) (i : Instr), s.agenda = .event i :: rest → i.isEncoded = false →
    step s = exec i { s with agenda := rest, freeNo := s.freeNo + 1 })

/-! ## Slice-scalar and mask instructions -/

/-- R74, R100 to R107: each slice-scalar or mask instruction whose sources are readable completes; the result of its table row stands in
its destination, live, and the slice goes on 4 bytes further. Frame: nothing of the slice but the destination and the account of issue,
nothing of another slice but its gang, and nothing else of the machine; every byte of memory reads as before. -/
def Obligations.SliceScalarResult : Prop :=
  ∀ (i : Instr) (srcs : List Nat) (w : Write), scalarTable i = some (srcs, w) → i.WellFormed → ∀ s : State, s.onTurn →
    (s.sl s.cur).readable srcs → ∃ t, exec i s = .next t ∧ w.done (s.sl s.cur) (t.sl s.cur) ∧
      (t.sl s.cur).pc = (s.sl s.cur).pc + 4 ∧ w.framed (s.sl s.cur) (t.sl s.cur) ∧ s.changesOnly t [s.cur] ∧
      ∀ key, t.byte key = s.byte key

/-- R28, R100: a slice-scalar or mask instruction that reads a dead s register with TRAPEN.POISON set traps POISON, unexecuted:
the frame names the instruction, INFO0 is POISON, which names the first register in operand order when it was clear. With
TRAPEN.POISON clear it reads POISON_WORD there, records that in POISON, and completes as it otherwise does. R28, R29, R224: each slice of a gang
that issues a lane instruction traps POISON when it reads a dead register in a lane with TRAPEN.POISON set, out of trap mode, unexecuted: LANES names the
lanes of the first such register; every other slice completes, with POISON_WORD read from its dead registers; in both POISON names the first. -/
def Obligations.PoisonTrap : Prop :=
  (∀ (i : Instr) (srcs : List Nat) (w : Write) (r : Nat) (more : List Nat), scalarTable i = some (srcs, w) → ∀ s : State,
    CanTrap s s.cur → (s.sl s.cur).trapen.getLsbD 0 = true → srcs.filter (fun q => ((s.sl s.cur).sRd q).dead) = r :: more →
    ∃ t info, exec i s = .next t ∧
      trapTaken s t s.cur 0x02 0 0xF info 0 (s.sl s.cur).pc ∧ (t.sl s.cur).poison = info ∧
      ((s.sl s.cur).poison.getLsbD 10 = false →
        info = 0#16 ++ (0xF#4 ++ (BitVec.ofBool ((s.sl s.cur).sRd r).err ++ (1#1 ++ (1#2 ++ BitVec.ofNat 8 r))))) ∧
      ((s.sl s.cur).poison.getLsbD 10 = true → info = (s.sl s.cur).poison)) ∧
  (∀ (i : Instr) (srcs : List Nat) (w : Write) (r : Nat) (more : List Nat), scalarTable i = some (srcs, w) → i.WellFormed → ∀ s : State,
    s.onTurn → (s.sl s.cur).trapen.getLsbD 0 = false → (∀ q ∈ srcs, ((s.sl s.cur).sRd q).err = false) →
    srcs.filter (fun q => ((s.sl s.cur).sRd q).dead) = r :: more →
    let x := { s.sl s.cur with poison := poisonAfter (s.sl s.cur) [⟨true, r, 0xF, false⟩] }
    x.sVal r = 0x7FC00001 ∧ ∃ t, exec i s = .next t ∧ w.done x (t.sl s.cur) ∧ w.framed x (t.sl s.cur) ∧
      (t.sl s.cur).pc = x.pc + 4 ∧ s.changesOnly t [s.cur] ∧ ∀ key, t.byte key = s.byte key) ∧
  (∀ i : Instr, isLane i = true → i.WellFormed → ∃ fn, laneFn i = some fn ∧ ∀ (s u : State) (cs : Assoc Word), s.onTurn →
    let ms := s.members s.cur
    fetched ((s.issuedFor ms (figures i).1).charge i ms) i ms cs u →
    let stops (k : Nat) : Prop := deadReads i (u.sl k) ≠ [] ∧ (u.sl k).trapen.getLsbD 0 = true ∧ (u.sl k).frame = none
    (∀ k ∈ ms, stops k → CanTrap u k ∧ u.permitsUsed (coreOfSlice k) + ms.length ≤ 8) →
    ∃ t, exec i s = .next t ∧ ∀ k ∈ ms, let x := u.sl k
      (t.sl k).poison = poisonAfter x (deadReads i x) ∧
      (∀ p more, deadReads i x = p :: more → stops k → trapTaken u t k 0x02 0 p.lanes (poisonAfter x (p :: more)) 0 x.pc) ∧
      (¬ stops k → (t.sl k).pc = x.pc + 12 ∧ laneWritten i fn x (t.sl k) cs (ms.idxOf k)))

/-! ## Control flow -/

/-- R137, R141, R359: BR, BRZ, BRNZ, RET, JMPI and BRP give each slice of the gang its next PC, and change nothing else but
the account of issue.
R141: CALL writes the link address, live, and branches; nothing else changes. -/
def Obligations.BranchAndCall : Prop :=
  (∀ (i : Instr) (srcs : List Nat) (next : State → Slice → Word), branchTable i = some (srcs, next) → ∀ s : State,
      (∀ k ∈ s.members s.cur, (s.sl k).readable srcs) →
      ∃ t, exec i s = .next t ∧ s.changesOnly t (s.members s.cur) ∧
        ∀ k ∈ s.members s.cur, t.sl k = (((s.sl k).issuedIn s.cycle).standingAt (next s (s.sl k))).ganged (t.sl k)) ∧
  (∀ (d : BitVec 6) (off : BitVec 18) (s : State), ∃ t, exec (.call d off) s = .next t ∧ s.changesOnly t (s.members s.cur) ∧
      ∀ k ∈ s.members s.cur, (t.sl k).pc = target (s.sl k).pc off ∧ (t.sl k).sRd d.toNat = ⟨(s.sl k).pc + 4, false, false⟩ ∧
        (∀ q, q ≠ d.toNat → (t.sl k).sRd q = (s.sl k).sRd q) ∧
        t.sl k = { (s.sl k).moved (t.sl k) with s := (t.sl k).s, bad := (t.sl k).bad })

/-- R145: after a control instruction that chooses PCs, two slices of the gang are in one gang exactly when their PCs agree. -/
def Obligations.GangsPart : Prop :=
  ∀ (i : Instr) (srcs : List Nat) (next : State → Slice → Word), branchTable i = some (srcs, next) → ∀ s t : State,
    (∀ k ∈ s.members s.cur, (s.sl k).readable srcs) → (s.sl s.cur).gang < 2 ^ 20 → exec i s = .next t →
    ∀ j ∈ s.members s.cur, ∀ k ∈ s.members s.cur, (t.sl j).gang = (t.sl k).gang ↔ (t.sl j).pc = (t.sl k).pc

/-- R138: PTOKEN pushes T(target, 0000) in each slice with room on its stack, which changes in nothing else; with room in every
slice of the gang nothing else of the machine changes. R138, R140, R227: at depth 8, PTOKEN, and a BRC that has to park lanes, trap TOKEN_OVF in a slice alone in its gang; the stack is as it was in the
frame, and the PC in the frame names the instruction. -/
def Obligations.TokenStack : Prop :=
  (∀ (off : BitVec 22) (s : State), ∃ t, exec (.ptoken off) s = .next t ∧
    ((∀ k ∈ s.members s.cur, (s.sl k).stack.length < 8) → s.changesOnly t (s.members s.cur)) ∧
    ∀ k ∈ s.members s.cur, (s.sl k).stack.length < 8 → (s.sl k).wait = none →
      (t.sl k).stack = (s.sl k).stack ++ [token (target (s.sl k).pc off) 0] ∧ (t.sl k).pc = (s.sl k).pc + 4 ∧
      t.sl k = { (s.sl k).moved (t.sl k) with stack := (t.sl k).stack }) ∧
  (∀ (i : Instr) (s : State), s.members s.cur = [s.cur] → CanTrap s s.cur → 8 ≤ (s.sl s.cur).stack.length →
    ((∃ off, i = .ptoken off) ∨ ∃ hint k off, i = .brc hint k 0 off ∧
      (s.sl s.cur).active &&& (s.sl s.cur).kGet k.toNat ≠ 0 ∧ (s.sl s.cur).active &&& ~~~((s.sl s.cur).kGet k.toNat) ≠ 0 ∧
      (s.sl s.cur).stack.all (fun e => e.kind != 1) = true) →
    ∃ t, exec i s = .next t ∧ trapTaken s t s.cur 0x03 0 0xF 8 0 (s.sl s.cur).pc)

/-- R139: MERGE adds the active lanes to the arrivals of the innermost token for its address and resumes by next_path; with
no such token it only moves the PC. Nothing else of a slice changes, and nothing else of the machine where no slice exits. -/
def Obligations.MergeResult : Prop :=
  ∀ s : State, ∃ t, exec .merge s = .next t ∧
    ((∀ k ∈ s.members s.cur, (t.sl k).done = false) → s.changesOnly t (s.members s.cur)) ∧
    (onDies s → t = { s with slices := t.slices, teams := t.teams, walks := t.walks }) ∧ ∀ k ∈ s.members s.cur,
    (match arriveAt (s.sl k).pc (s.sl k).active (s.sl k).stack.reverse with
    | none => (t.sl k).pc = (s.sl k).pc + 4 ∧ (t.sl k).stack = (s.sl k).stack ∧ (t.sl k).active = (s.sl k).active ∧
        (t.sl k).done = false
    | some top => resumed (s.sl k) (s.sl k).exited top (t.sl k)) ∧
    ((s.sl k).wait = none → t.sl k = { (s.sl k).moved (t.sl k) with
      stack := (t.sl k).stack, active := (t.sl k).active, done := (t.sl k).done })

/-- R140: BRC: the lanes that take and those that do not, the side that goes first, and in each slice its PC, its active
mask and its token stack; UNIFORM_MISS for a hint that lanes miss. -/
def Obligations.DivergentBranch : Prop :=
  ∀ (hint : BitVec 2) (k : BitVec 3) (cond : BitVec 2) (off : BitVec 17) (s : State),
    (∀ j ∈ s.members s.cur, (s.sl j).stack.length < 8) →
    let ms := s.members s.cur
    let all := ms.all (fun j => (s.sl j).active &&& ~~~((s.sl j).kGet k.toNat) == 0)
    let tk (j : Nat) := taking cond ((s.sl j).kGet k.toNat) all (s.sl j)
    let nt (j : Nat) := (s.sl j).active &&& ~~~(tk j)
    let nTk := (ms.map (fun j => laneCount (tk j))).sum
    let nNt := (ms.map (fun j => laneCount (nt j))).sum
    let yes := target (s.sl s.cur).pc off
    let no := (s.sl s.cur).pc + 4
    ∃ t, exec (.brc hint k cond off) s = .next t ∧ t = { s with slices := t.slices } ∧ ∀ j ∈ ms,
      (if takenFirst hint nTk nNt then divides (tk j) (nt j) yes no (s.sl j) (t.sl j)
        else divides (nt j) (tk j) no yes (s.sl j) (t.sl j)) ∧
      (t.sl j).sticky = (s.sl j).sticky ||| (if nTk ≠ 0 ∧ nNt ≠ 0 ∧ hint = 3 then 1 else 0)

/-- R143, R144, R224: YIELD switches to the switch target, whatever PROGRESS holds, or only moves the PC, and restarts the
fairness count, which is frozen in trap mode. Nothing else changes. -/
def Obligations.YieldResult : Prop :=
  ∀ s : State, ∃ t, exec .yield s = .next t ∧ s.changesOnly t (s.members s.cur) ∧ ∀ k ∈ s.members s.cur,
    t.sl k = { (s.sl k).moved (t.sl k) with stack := (t.sl k).stack, active := (t.sl k).active } ∧
    (match switchAt (s.sl k).exited (s.sl k).stack.reverse with
    | none => (t.sl k).pc = (s.sl k).pc + 4 ∧ (t.sl k).stack = (s.sl k).stack ∧ (t.sl k).active = (s.sl k).active
    | some n => ∃ e, (s.sl k).stack.reverse[n]? = some e ∧ (t.sl k).pc = e.addr ++ 0#2 ∧
        (t.sl k).active = liveMask (s.sl k).exited e ∧
        (t.sl k).stack.reverse = (s.sl k).stack.reverse.set n (parked ((s.sl k).pc + 4) (s.sl k).active)) ∧
    (t.sl k).fairCount = if (s.sl k).trapMode then (s.sl k).fairCount else 0

/-- R142, R224: EXIT ends the active lanes, takes exited lanes off every entry of the stack, and resumes by next_path; in trap
mode the slice exits and gives up its frame. Nothing else of a slice changes, and nothing else of the machine where no slice exits.
R147: the slices of a gang that execute REGANG wait after it, and start the regang timer of their launch gang, while a slice of
it has still to come; when the last has come, those at one address go on in one gang. In trap mode REGANG only moves the PC. -/
def Obligations.ExitAndRegang : Prop :=
  (∀ s : State, ∃ t, exec .exit s = .next t ∧
      ((∀ k ∈ s.members s.cur, (t.sl k).done = false) → s.changesOnly t (s.members s.cur)) ∧
      (onDies s → t = { s with slices := t.slices, teams := t.teams, walks := t.walks }) ∧ ∀ k ∈ s.members s.cur,
      (if (s.sl k).trapMode then (t.sl k).done = true ∧ (t.sl k).exited = 0xF ∧ (t.sl k).active = 0 ∧ (t.sl k).stack = [] ∧
        (t.sl k).frame = none
      else (t.sl k).exited = (s.sl k).exited ||| (s.sl k).active ∧ (t.sl k).frame = (s.sl k).frame ∧
        resumed (s.sl k) (t.sl k).exited
          ((s.sl k).stack.reverse.map (fun e => { e with mask := liveMask (t.sl k).exited e })) (t.sl k)) ∧
      ((s.sl k).wait = none → t.sl k = { (s.sl k).moved (t.sl k) with
        stack := (t.sl k).stack, active := (t.sl k).active, exited := (t.sl k).exited, done := (t.sl k).done
        frame := (t.sl k).frame })) ∧
  (∀ s : State, ∃ t, exec .regang s = .next t ∧ t = { s with slices := t.slices, teams := t.teams } ∧
      ∀ k ∈ s.members s.cur, (t.sl k).pc = (s.sl k).pc + 4 ∧ t.sl k = { (s.sl k).moved (t.sl k) with wait := (t.sl k).wait } ∧
      ((s.sl k).trapMode = true → (s.sl k).wait = none → (t.sl k).wait = none) ∧
      ((s.sl k).trapMode = false → let tm := (s.sl s.cur).team
        let g := (s.sl k).idx / 8
        let h := (s.tm tm).header
        ((∃ j ∈ s.launchGang tm g, j ∉ s.members s.cur ∧ (s.sl j).wait ≠ some .regang) → (t.sl k).wait = some .regang ∧
          ((afind s.teams tm).isSome → afind (t.tm tm).rgDue g = match afind (s.tm tm).rgDue g with
            | some due => some due
            | none => if h.regang = 0 then none else some (s.cycle + h.regang.toNat))) ∧
        ((∀ j ∈ s.launchGang tm g, (j ∈ s.members s.cur ∧ (s.sl j).trapMode = false) ∨ (s.sl j).wait = some .regang) →
          k ∈ s.launchGang tm g → ∀ j ∈ s.launchGang tm g, (t.sl j).wait = none ∧
            ((t.sl j).pc = (t.sl k).pc → (t.sl j).gang = (t.sl k).gang))))

/-! ## Traps -/

/-- R217, R220, R225: TRAP enters the handler, whatever the lane mask: the frame holds the cause SOFTWARE with DETAIL 0, the immediate,
unsigned, in INFO0 and the address of the next instruction; its word has OP7 0x40, IMM18 in [31:14], and SD, which is reserved. -/
def Obligations.TrapEntry : Prop :=
  (∀ (imm : BitVec 18) (sd : BitVec 6), decode (imm ++ (sd ++ (0x40#7 ++ 0#1))) 0 0 = if sd = 0 then .ok (.trap imm) else .error 2) ∧
  (∀ (imm : BitVec 18) (s : State), CanTrap s s.cur → ∃ t, exec (.trap imm) s = .next t ∧ s.changesOnly t [s.cur] ∧
    trapTaken s t s.cur 0x0F 0 0xF (imm.setWidth 32) 0 ((s.sl s.cur).pc + 4))

/-- R226: TRET in trap mode gives up the frame and resumes at the frame's PC with its active lanes, its token stack and, with no
replay entry, its masks, LFSRs and fairness count; registers are then as the handler left them. A slice that stood at a REGANG
waits again, with the time that the frame has left, while another slice of its launch gang has still to come; of two timers the one
that ends first counts (the model's choice, log entry 62). R226: TRET outside
trap mode traps SOFTWARE with DETAIL 1. R219, R224: with no permit free a slice that traps backs off where it stands, twice as long each
time up to 8,192 cycles; in trap mode a trap stops the slice where it stands. -/
def Obligations.TrapReturn : Prop :=
  (∀ (s : State) (f : Frame), s.onTurn → (s.sl s.cur).frame = some f →
    ∃ t, exec .tret s = .next t ∧ (t.sl s.cur).frame = none ∧ (t.sl s.cur).pc = (f.word 1).extractLsb' 2 30 ++ 0#2 ∧
      (t.sl s.cur).active = (f.word 4).extractLsb' 0 4 &&& ~~~((f.word 7).extractLsb' 0 4) ∧
      (t.sl s.cur).stack.length = min 8 ((f.word 7).extractLsb' 4 4).toNat ∧
      (∀ (n : Nat) (e : StackEntry), (t.sl s.cur).stack[n]? = some e →
        e = ⟨(f.word (17 + 2 * n)).extractLsb' 30 2, (f.word (17 + 2 * n)).extractLsb' 26 4, (f.word (16 + 2 * n)).extractLsb' 0 30⟩) ∧
      (let tm := (s.sl s.cur).team
        let g := (s.sl s.cur).idx / 8
        ((f.word 7).getLsbD 8 = false → (t.sl s.cur).wait = none ∧
          (s.cur ∈ s.launchGang tm g → s.changesOnly t [s.cur])) ∧
        ((f.word 7).getLsbD 8 = true → (∃ j ∈ s.launchGang tm g, j ≠ s.cur ∧ (s.sl j).wait ≠ some .regang) →
          (t.sl s.cur).wait = some .regang ∧ ((afind s.teams tm).isSome →
            afind (t.tm tm).rgDue g = if f.word 10 = 0 then afind (s.tm tm).rgDue g
              else some (match afind (s.tm tm).rgDue g with
                | some due => min (s.cycle + (f.word 10).toNat) due
                | none => s.cycle + (f.word 10).toNat)))) ∧
      ((f.word 0).extractLsb' 20 4 = 0 → (t.sl s.cur).fairCount = (f.word 11).extractLsb' 0 16 ∧
        (∀ j, 0 < j → j < 8 → (t.sl s.cur).kGet j = (f.word 4).extractLsb' (4 * j) 4) ∧
        (∀ l, l < 4 → (t.sl s.cur).lfsr.get l = if f.word (12 + l) = 0 then 1 else f.word (12 + l)) ∧
        t.sl s.cur = { (s.sl s.cur).moved (t.sl s.cur) with
          active := (t.sl s.cur).active, k := (t.sl s.cur).k, stack := (t.sl s.cur).stack, lfsr := (t.sl s.cur).lfsr
          frame := none, wait := (t.sl s.cur).wait, inflight := [] })) ∧
  (∀ s : State, CanTrap s s.cur → ∃ t, exec .tret s = .next t ∧ trapTaken s t s.cur 0x0F 1 0xF 0 0 (s.sl s.cur).pc) ∧
  ∀ (imm : BitVec 18) (s : State), s.onTurn → ((s.sl s.cur).frame = none → 8 ≤ s.permitsUsed (coreOfSlice s.cur)) →
    ∃ t, exec (.trap imm) s = .next t ∧ (t.sl s.cur).pc = (s.sl s.cur).pc ∧ (t.sl s.cur).frame = (s.sl s.cur).frame ∧
    ((s.sl s.cur).frame = none →
      (t.sl s.cur).wait = some (.backoff (s.cycle + (s.sl s.cur).backoffLen) none (s.regangHeld s.cur)) ∧
      (t.sl s.cur).backoffLen = min (2 * (s.sl s.cur).backoffLen) 8192) ∧
    ((s.sl s.cur).frame ≠ none → (t.sl s.cur).wait = some .stopped)

/-! ## Special registers -/

/-- R15 to R23: SGET writes the value of a special register, as the map of each lays it out, to an s register, live; TIMELO
latches the high half of its sample and TIMEHI uses the latch up. Nothing else changes. FAIR counts the issue of the SGET that reads it
(the model's choice, log entry 50). -/
def Obligations.SpecialRead : Prop :=
  ∀ (d : BitVec 6) (sel : BitVec 8) (s : State) (w : Word), s.onTurn →
    specialValue (s.issued [s.cur]) s.cur ((s.issued [s.cur]).sl s.cur) sel.toNat = some w →
    ∃ t, exec (.sget d sel) s = .next t ∧ s.changesOnly t [s.cur] ∧ (t.sl s.cur).pc = (s.sl s.cur).pc + 4 ∧
      (t.sl s.cur).sRd d.toNat = ⟨w, false, false⟩ ∧ (∀ q, q ≠ d.toNat → (t.sl s.cur).sRd q = (s.sl s.cur).sRd q) ∧
      t.sl s.cur = { (s.sl s.cur).moved (t.sl s.cur) with
        s := (t.sl s.cur).s, bad := (t.sl s.cur).bad, timehi := latchAfter s (s.sl s.cur) sel.toNat }

/-- R15, R18, R20: the three forms of SSET combine the register and the operand and write the writable fields alone, of the slice,
of the team for TRAPVEC and PRIO, of each lane for LFSR. Nothing else changes. R16: a write to TRAPVEC or PRIO is seen from the
fourth cycle on; R24: what the hardware has set in FARSTAT and POISON in the cycle of the write stands over it. -/
def Obligations.SpecialWrite : Prop :=
  ∀ (i : Instr) (sel a : Nat) (op : Word → Word → Word), ssetForm i = some (sel, a, op) → ∀ s : State, s.onTurn →
    (s.sl s.cur).readable [a] → (afind s.teams (s.sl s.cur).team).isSome →
    let x := s.sl s.cur
    let w := x.sVal a
    let tm := s.tm x.team
    let old := findsBefore s x sel
    ∃ t, exec i s = .next t ∧ (t.sl s.cur).pc = x.pc + 4 ∧ othersKept s t [s.cur] ∧
      (∀ y, specialField s.cycle sel (op old w) x = some y → t = { s with slices := t.slices } ∧ t.sl s.cur = y.moved (t.sl s.cur)) ∧
      (sel = 0x1B → t = { s with slices := t.slices } ∧
        t.sl s.cur = { x.moved (t.sl s.cur) with lfsr := Quad.ofFn (lfsrAfter i x w) }) ∧
      (sel = 0x13 → t = { s with slices := t.slices, teams := t.teams } ∧ t.sl s.cur = x.moved (t.sl s.cur) ∧
        ∀ j, t.tm j = if j = x.team then
          { tm with pend := tm.pend ++ [(s.cycle + 4, true, (op tm.trapvec w).extractLsb' 2 30 ++ 0#2)] } else s.tm j) ∧
      (sel = 0x15 → t = { s with slices := t.slices, teams := t.teams } ∧ t.sl s.cur = x.moved (t.sl s.cur) ∧
        let p := (op old w).extractLsb' 0 3
        ∀ j, t.tm j = if j = x.team then
          { tm with pend := tm.pend ++ [(s.cycle + 4, false, (if tm.launchPrio.ult p then tm.launchPrio else p).setWidth 32)] }
          else s.tm j)

/-- R360: with no pre-emption request pending YIELDP only moves the PC; else registers from v[VLIVE] up die, SLIVE is recorded,
and the slice leaves its gang and issues nothing more.
R171, R175, R176: WAITC, WAITT and YIELDT go on, YIELDT at its label, when their condition already holds, and else the slice,
or the whole gang, stands in the wait where it is; a walk may begin then, for which entries come back from their spill areas. -/
def Obligations.YieldAndTokenWaits : Prop :=
  (∀ (a : BitVec 6) (s : State), s.onTurn → (s.sl s.cur).readable [a.toNat] →
      let x := s.sl s.cur
      let w := x.sVal a.toNat
      ∃ t, exec (.yieldp a) s = .next t ∧ (t.sl s.cur).pc = x.pc + 4 ∧ t = { s with slices := t.slices } ∧
        ((s.pt (s.tm x.team).part).preq = false → s.changesOnly t [s.cur] ∧ t.sl s.cur = x.moved (t.sl s.cur)) ∧
        ((s.pt (s.tm x.team).part).preq = true →
          (t.sl s.cur).wait = some .yieldp ∧ (t.sl s.cur).gang = aloneKey s.cur ∧
          (t.sl s.cur).slive = some (0#19 ++ w.extractLsb' 9 13) ∧ (t.sl s.cur).s = x.s ∧ (t.sl s.cur).k = x.k ∧
          ∀ r l, l < 4 → (t.sl s.cur).vRd r l =
            if r < (w.extractLsb' 0 9).toNat then x.vRd r l else ⟨poisonWord, true, false⟩)) ∧
  (∀ s : State, s.onTurn →
      let x := s.sl s.cur
      (∀ fl fs cp tl : BitVec 6, ∃ t, exec (.waitc fl fs cp tl) s = .next t ∧ s.changesOnly t [s.cur] ∧
        (withinLimits x fl.toNat fs.toNat cp.toNat tl.toNat → t.sl s.cur = (x.moved (t.sl s.cur)).standingAt (x.pc + 4)) ∧
        (¬ withinLimits x fl.toNat fs.toNat cp.toNat tl.toNat → (t.sl s.cur).pc = x.pc ∧
          (t.sl s.cur).wait = some (.waitc fl.toNat fs.toNat cp.toNat tl.toNat))) ∧
      (∀ mask : BitVec 8, ∃ t, exec (.waitt mask) s = .next t ∧
        (onDies s → t = { s with slices := t.slices, walks := t.walks }) ∧ othersKept s t [s.cur] ∧
        (tokensDone s x.team mask → t.walks = s.walks ∧ t.sl s.cur = (x.moved (t.sl s.cur)).standingAt (x.pc + 4)) ∧
        (¬ tokensDone s x.team mask → (t.sl s.cur).pc = x.pc ∧ (t.sl s.cur).wait = some (.waitt mask))) ∧
      (∀ (mask : BitVec 8) (off : BitVec 12), ∃ t, exec (.yieldt mask off) s = .next t ∧
        (onDies s → t = { s with slices := t.slices, walks := t.walks }) ∧ ∀ k ∈ s.members s.cur,
        (tokensDone s x.team mask → (t.sl k).pc = target (s.sl k).pc off ∧ (t.sl k).wait = (s.sl k).wait) ∧
        (¬ tokensDone s x.team mask → (t.sl k).pc = (s.sl k).pc ∧ (t.sl k).gang = (s.sl k).gang ∧
          (t.sl k).wait = some (.yieldt mask (target (s.sl k).pc off)))))

/-! ## Waits, fences and barriers -/

/-- R177 to R180: a fence that does not trap notes a clamped scope; a release waits for the slice's far accesses, and else the
slice goes on, its later memory instructions held while an acquire has far loads to wait for. PFENCE moves the slice's fence of its
path past every write to HBM so far. R179: an ordered instruction whose clamped scope traps, trapping FENCE_CLAMP with ORD and SCOPE in INFO0,
nothing executed. -/
def Obligations.FenceResult : Prop :=
  (∀ s : State, s.onTurn →
    let x := s.sl s.cur
    (∀ (kind : BitVec 2) (scope : BitVec 3), clampTrap s s.cur scope = false → (∀ d ∈ s.denials, d.team ≠ x.team) →
      ∃ t, exec (.fence kind scope) s = .next t ∧ s.changesOnly t [s.cur] ∧ (t.sl s.cur).sticky = clampSticky s s.cur scope ∧
        (kind.getLsbD 1 = true ∧ (x.fl ≠ 0 ∨ x.fs ≠ 0) → (t.sl s.cur).pc = x.pc ∧ (t.sl s.cur).wait = some (.fence kind)) ∧
        (¬ (kind.getLsbD 1 = true ∧ (x.fl ≠ 0 ∨ x.fs ≠ 0)) → (t.sl s.cur).pc = x.pc + 4 ∧ (t.sl s.cur).wait = x.wait ∧
          (t.sl s.cur).acqHold = if kind.getLsbD 0 then decide (x.fl ≠ 0) else x.acqHold)) ∧
    (∀ path : BitVec 6, ∃ t, exec (.pfence path) s = .next t ∧ s.changesOnly t [s.cur] ∧
      t.sl s.cur = { (x.moved (t.sl s.cur)).standingAt (x.pc + 4) with
        codeFence := if path.getLsbD 0 then s.writeNo else x.codeFence
        constFence := if path.getLsbD 1 then s.writeNo else x.constFence })) ∧
  (∀ (kind : BitVec 2) (scope : BitVec 3) (s : State), CanTrap s s.cur → clampTrap s s.cur scope = true →
    ∃ t, exec (.fence kind scope) s = .next t ∧ s.changesOnly t [s.cur] ∧
      trapTaken s t s.cur 0x0D 0 0xF (0#27 ++ (kind ++ scope)) 0 (s.sl s.cur).pc)

/-- R254, R255, R257, R258: BARINIT writes the initial barrier, and BARARR and BARTX change the barrier by the procedure update;
the 16 bytes of the barrier are all of memory that changes. -/
def Obligations.BarrierUpdate : Prop :=
  (∀ (a b : BitVec 6) (s : State), BarReady s [a.toNat, b.toNat] ((s.sl s.cur).sVal a.toNat) false 0 →
    let x := s.sl s.cur
    let key := spKey s.cur (x.sVal a.toNat)
    ∃ t, exec (.barinit a b) s = .next t ∧ slicesAndMemory s t ∧ othersKept s t [s.cur] ∧ storesOnly s t key 16 ∧
      t.sl s.cur = (x.moved (t.sl s.cur)).standingAt (x.pc + 4) ∧
      barrierAt t key = Barrier.initial ((x.sVal b.toNat).extractLsb' 0 24).toNat) ∧
  ∀ (i : Instr) (f : BarForm), barForm i = some f → ∀ s : State, BarReady s f.srcs ((s.sl s.cur).sVal f.addr) f.rel f.scope →
    let x := s.sl s.cur
    let key := spKey s.cur (x.sVal f.addr)
    ∃ t, exec i s = .next t ∧ slicesAndMemory s t ∧ othersKept s t [s.cur] ∧ storesOnly s t key 16 ∧
      t.sl s.cur = { x.moved (t.sl s.cur) with sticky := clampSticky s s.cur f.scope } ∧ (t.sl s.cur).pc = x.pc + 4 ∧
      barrierAt t key = (barrierAt s key).update (f.arrivals x) (f.bytes x) false

/-- R259, R309, R317: BARTRY writes whether the phase differs from the parity, and AERR, BOVF and DERR; BARWAIT goes on when it
differs and else stands in a wait, registered on the barrier when the table has room, and else with STATUS.WFT_UNREG set unless
TRAPEN makes it trap. Memory is unchanged, but where entries move to or from their spill areas. -/
def Obligations.BarrierTests : Prop :=
  ∀ (scope : BitVec 3) (a b : BitVec 6) (s : State), BarReady s [a.toNat, b.toNat] ((s.sl s.cur).sVal a.toNat) false scope →
    let x := s.sl s.cur
    let w := barrierAt s (spKey s.cur (x.sVal a.toNat))
    let differs := w.phase ≠ (x.sVal b.toNat).getLsbD 0
    (∀ d : BitVec 6, ∃ t, exec (.bartry scope d a b) s = .next t ∧ s.changesOnly t [s.cur] ∧ (t.sl s.cur).pc = x.pc + 4 ∧
      (t.sl s.cur).sRd d.toNat = ⟨0#28 ++ (BitVec.ofBool w.derr ++ (BitVec.ofBool w.bovf ++ (BitVec.ofBool w.aerr ++
        BitVec.ofBool (decide differs)))), false, false⟩ ∧
      (∀ q, q ≠ d.toNat → (t.sl s.cur).sRd q = x.sRd q) ∧
      ((t.sl s.cur).acqHold = if differs then decide (x.fl ≠ 0) else x.acqHold)) ∧
    let obj := localKey (coreOfSlice s.cur) (x.sVal a.toNat).toNat
    ((differs ∨ x.trapen.getLsbD 4 = false ∨ RoomToWait s s.cur obj) →
      ∃ t, exec (.barwait scope a b) s = .next t ∧ othersKept s t [s.cur] ∧
      (differs ∨ Unspilled s (s.tm x.team).part obj → ∀ key, t.byte key = s.byte key) ∧
      (differs → (t.sl s.cur).pc = x.pc + 4 ∧ (t.sl s.cur).wait = x.wait ∧ (t.sl s.cur).acqHold = decide (x.fl ≠ 0)) ∧
      (¬ differs → (t.sl s.cur).pc = x.pc ∧ ∃ e next back,
        (t.sl s.cur).wait = some (.barwait (x.sVal a.toNat) ((x.sVal b.toNat).getLsbD 0) scope e next back) ∧
        (e = none → (t.sl s.cur).sticky.getLsbD 2 = true) ∧
        (RoomToWait s s.cur obj → ∃ id, e = some id ∧ registered t s.cur x.team id obj)))

/-- R260: TSYNC marks its slice arrived and stands in a registered wait until every slice of the team that has not exited has
arrived; the last to arrive clears the set, and it and every slice that waits go on. -/
def Obligations.TeamBarrier : Prop :=
  ∀ (scope : BitVec 3) (s : State), s.onTurn → clampTrap s s.cur scope = false → Released s s.cur →
    let x := s.sl s.cur
    let tm := s.tm x.team
    (afind s.teams x.team).isSome → tm.slices.Nodup → s.cur ∈ tm.slices → x.wait = none → x.done = false →
    let all := ∀ j ∈ tm.slices, (s.sl j).done = false → j = s.cur ∨ j ∈ tm.arrived
    (all ∨ x.trapen.getLsbD 4 = false ∨ RoomToWait s s.cur (tsyncKey x.team)) → ∃ t, exec (.tsync scope) s = .next t ∧
      (all ∨ Unspilled s tm.part (tsyncKey x.team) → ∀ key, t.byte key = s.byte key) ∧
      (all → (t.tm x.team).arrived = [] ∧ (t.sl s.cur).pc = x.pc + 4 ∧ (t.sl s.cur).wait = none ∧
        ∀ j ∈ tm.slices, ∀ sc id n b, (s.sl j).wait = some (.tsync sc (some id) n b) → s.present j →
          (t.sl j).wait = none ∧ (t.sl j).pc = (s.sl j).pc + 4) ∧
      (¬ all → (t.sl s.cur).pc = x.pc ∧ s.cur ∈ (t.tm x.team).arrived ∧ (∀ j ∈ tm.arrived, j ∈ (t.tm x.team).arrived) ∧
        ∃ e next back, (t.sl s.cur).wait = some (.tsync scope e next back) ∧
        (e = none → (t.sl s.cur).sticky.getLsbD 2 = true) ∧
        (RoomToWait s s.cur (tsyncKey x.team) → ∃ id, e = some id ∧ registered t s.cur x.team id (tsyncKey x.team)))

/-! ## Local memory -/

/-- R80, R302: a constant word is read at code-space address ENTRY − 1,024 + 4i, through translation with the R permission; it is the
word that stands there, or one that a write replaced since the slice's last PFENCE of the constant path, and after the last write
the word that stands there alone. The reads change no slice and no team. -/
def Obligations.ConstantBank : Prop :=
  ∀ (s u : State) (fence tm : Nat) (is : List Nat) (cs : Assoc Word), s.fetchConsts fence tm is = .ok (cs, u) →
    u.slices = s.slices ∧ u.teams = s.teams ∧ u.cur = s.cur ∧ ∀ i key, is = [i] →
      s.codeTarget tm ((s.tm tm).header.entry - 1024 + 4 * BitVec.ofNat 32 i) = .key key →
      (aget 0 cs i = s.word key ∨ ∃ e ∈ s.overwritten, fence ≤ e.1 ∧ e.2.1 = key / 4 ∧ aget 0 cs i = e.2.2) ∧
      ((∀ e ∈ s.overwritten, e.2.1 = key / 4 → e.1 < fence) → aget 0 cs i = s.word key)

/-- R165, R223: SLD reads, and SST writes, the word at its address in the scratchpad; in trap mode addresses from 0xFFFFFC00 up name
the words of the slice's own frame, of which a write changes the fields that R220 and R222 mark as edit. Nothing else changes. -/
def Obligations.ScalarMemory : Prop :=
  ∀ (d a : BitVec 6) (imm : BitVec 12) (s : State), s.onTurn → (s.sl s.cur).readable [a.toNat] →
    (∀ f ∈ s.fars, f.slice ≠ s.cur) →
    let x := s.sl s.cur
    let ad := x.sVal a.toNat + imm.signExtend 32 * 4
    let key := spKey s.cur ad
    let n := (ad.toNat - 0xFFFFFC00) / 4
    let gets (v : Word) := ∃ t, exec (.sld d a imm) s = .next t ∧ s.changesOnly t [s.cur] ∧ (t.sl s.cur).pc = x.pc + 4 ∧
      (t.sl s.cur).sRd d.toNat = ⟨v, false, false⟩ ∧ (∀ q, q ≠ d.toNat → (t.sl s.cur).sRd q = x.sRd q) ∧
      t.sl s.cur = { x.moved (t.sl s.cur) with s := (t.sl s.cur).s, bad := (t.sl s.cur).bad }
    ((x.frame = none ∨ ad.toNat < 0xFFFFFC00) → inScratch s s.cur ad 4 4 → clean s key 4 →
      gets (s.byte (key + 3) ++ (s.byte (key + 2) ++ (s.byte (key + 1) ++ s.byte key))) ∧
      (x.readable [d.toNat] → ∃ t, exec (.sst d a imm) s = .next t ∧ slicesAndMemory s t ∧ othersKept s t [s.cur] ∧ storesOnly s t key 4 ∧
        t.sl s.cur = (x.moved (t.sl s.cur)).standingAt (x.pc + 4) ∧
        ∀ j, j < 4 → t.byte (key + j) = (x.sVal d.toNat).extractLsb' (8 * j) 8)) ∧
    ∀ fr, x.frame = some fr → 0xFFFFFC00 ≤ ad.toNat → ad.toNat % 4 = 0 → gets (fr.word n) ∧
      (x.readable [d.toNat] → ∃ t, exec (.sst d a imm) s = .next t ∧ s.changesOnly t [s.cur] ∧ (t.sl s.cur).pc = x.pc + 4 ∧
        t.sl s.cur = { x.moved (t.sl s.cur) with frame := (t.sl s.cur).frame } ∧
        ∃ fr2, (t.sl s.cur).frame = some fr2 ∧ (∀ j, j ≠ n → fr2.word j = fr.word j) ∧
          fr2.word n = editedWord ((fr.word 0).extractLsb' 20 4).toNat n (fr.word n) (x.sVal d.toNat))

/-- R158 to R160, R163: each active lane of an LD reads its bytes, little-endian and extended as SIZE says, into its v registers,
live. Every other register and every byte of memory is unchanged, but for registers whose last use it was. -/
def Obligations.LocalLoad : Prop :=
  ∀ (f : Long) (s u : State) (cs : Assoc Word), (Instr.ld f).WellFormed →
    LocalReady s u (.ld f) f (f.ext8.extractLsb' 3 3) (accessBytes (f.ext8.extractLsb' 0 3)) cs →
    let w := accessBytes (f.ext8.extractLsb' 0 3)
    let words (k l : Nat) := loaded (f.ext8.extractLsb' 0 3) (fun n => u.byte (spKey k (localAddr (.ld f) f (u.sl k) cs w l) + n))
    ∃ t, exec (.ld f) s = .next t ∧ localDone s u t f (f.ext8.extractLsb' 3 3) ∧ (∀ key, t.byte key = u.byte key) ∧
      ∀ k ∈ s.members s.cur, longFrame (.ld f) f.vd.toNat ((w + 3) / 4) (u.sl k) (t.sl k) ∧
        ∀ l, l < 4 → activeIn (.ld f) (u.sl k) l = true → ∀ n, n < (w + 3) / 4 →
          (t.sl k).vRd (f.vd.toNat + n) l = ⟨(words k l).getD n 0, false, false⟩

/-- R158, R159, R161, R163: each active lane of an ST writes the low bytes of its data at its address, the highest virtual lane last.
Every other byte of memory, and every register, is unchanged, but for registers whose last use it was. -/
def Obligations.LocalStore : Prop :=
  ∀ (f : Long) (s u : State) (cs : Assoc Word), (Instr.st f).WellFormed →
    LocalReady s u (.st f) f (f.ext8.extractLsb' 3 3) (accessBytes (f.ext8.extractLsb' 0 3)) cs →
    let w := accessBytes (f.ext8.extractLsb' 0 3)
    ∃ t, exec (.st f) s = .next t ∧ localDone s u t f (f.ext8.extractLsb' 3 3) ∧
      (∀ k ∈ s.members s.cur, longFrame (.st f) 0 0 (u.sl k) (t.sl k)) ∧
      ∀ key, t.byte key = (accesses u (s.members s.cur) (.st f) f cs w).foldl
        (fun m e => overlay m (spKey e.k e.a) (lowBytes w (srcWords (.st f) (u.sl e.k) cs e.l 1))) u.byte key

/-- R162, R163: the lanes of an ATOM or ATOM.cas act one after another in the order of the virtual lanes; each replaces the value
at its address by that of the table and receives the value before. -/
def Obligations.LocalAtomic : Prop :=
  ∀ (i : Instr) (f : Long) (s u : State) (cs : Assoc Word), (i = .atom f ∨ i = .atomCas f) → i.WellFormed →
    let w := if f.ty = .i64 then 8 else 4
    LocalReady s u i f (f.ext8.extractLsb' 4 3) w cs →
    let es := accesses u (s.members s.cur) i f cs w
    let run := atomRun w (atomResult (f.ext8.extractLsb' 0 4).toNat f.ty) u.byte (es.map (fun e =>
      (spKey e.k e.a, (srcAt i (u.sl e.k) cs e.l 1).toNat, (srcAt i (u.sl e.k) cs e.l 2).toNat)))
    ∃ t, exec i s = .next t ∧ localDone s u t f (f.ext8.extractLsb' 4 3) ∧ (∀ key, t.byte key = run.2 key) ∧
      (∀ k ∈ s.members s.cur, longFrame i f.vd.toNat (w / 4) (u.sl k) (t.sl k)) ∧
      ∀ n e, es[n]? = some e → ∀ j, j < w / 4 →
        (t.sl e.k).vRd (f.vd.toNat + j) e.l = ⟨BitVec.ofNat 32 (run.1.getD n 0 / 2 ^ (32 * j)), false, false⟩

/-- R164: a slice with a lane whose address is not a multiple of the access traps MISALIGN, and else one with a lane outside the
team's scratchpad traps LOCAL_BOUNDS; LANES names the failing lanes, INFO0 holds the lowest one's address, nothing is written.
R164, R165, R256: an SLD, an SST or a barrier instruction whose address is not aligned traps MISALIGN, and one outside the
team's scratchpad traps LOCAL_BOUNDS, with the address in INFO0, nothing done. R71, R72: the step of a slice whose granules do not
decode, or name a v register that its team has not (check 7), traps ILLEGAL in each slice of its gang, the check code in DETAIL and the first granule in
INFO0 (LANES 1111: the model's reading, log entry 27). R80, R134, R227: a fetch that fails
traps FAR_ERR with DETAIL 1 at the failing address, and a lane instruction whose constant can not be read traps FAR_ERR with DETAIL 2 and the
word's code-space address in INFO1 in each slice with an active lane; FARSTAT has DENIED or FAULT set and stands in INFO0. -/
def Obligations.AddressTraps : Prop :=
  (∀ (i : Instr) (f : Long) (scope : BitVec 3) (w : Nat) (s u : State) (cs : Assoc Word),
    localForm i = some (f, scope, w) → s.members s.cur = [s.cur] → fetched s i [s.cur] cs u → CanTrap u s.cur →
    longReadable i (u.sl s.cur) → clampTrap u s.cur scope = false → (∀ g ∈ u.fars, g.slice ≠ s.cur) →
    (f.xw.getLsbD 1 = true → (u.sl s.cur).fl = 0 ∧ (u.sl s.cur).fs = 0) →
    let at_ (l : Nat) := localAddr i f (u.sl s.cur) cs w l
    let tm := u.tm (u.sl s.cur).team
    let mis := lanes.filter (fun l => activeIn i (u.sl s.cur) l && decide ((at_ l).toNat % w ≠ 0))
    let out := lanes.filter (fun l => activeIn i (u.sl s.cur) l &&
      decide ((at_ l).toNat < tm.spbase ∨ tm.splimit < (at_ l).toNat + w))
    let mask (ls : List Nat) : BitVec 4 := maskOf (fun l => ls.contains l)
    (∀ l more, mis = l :: more → ∃ t, exec i s = .next t ∧ (∀ key, t.byte key = u.byte key) ∧
      trapTaken u t s.cur 0x08 0 (mask mis) (at_ l) 0 (u.sl s.cur).pc) ∧
    (∀ l more, mis = [] → out = l :: more → ∃ t, exec i s = .next t ∧ (∀ key, t.byte key = u.byte key) ∧
      trapTaken u t s.cur 0x07 0 (mask out) (at_ l) 0 (u.sl s.cur).pc)) ∧
  (∀ (i : Instr) (srcs : List Nat) (addr : Slice → Word) (n : Nat) (rel : Bool) (scope : BitVec 3),
    shortAccess i = some (srcs, addr, n, rel, scope) → ∀ s : State, CanTrap s s.cur → (s.sl s.cur).readable srcs →
    clampTrap s s.cur scope = false → (rel = true → (s.sl s.cur).fl = 0 ∧ (s.sl s.cur).fs = 0) → (∀ f ∈ s.fars, f.slice ≠ s.cur) →
    let a := addr (s.sl s.cur)
    let tm := s.tm (s.sl s.cur).team
    (a.toNat % n ≠ 0 → ∃ t, exec i s = .next t ∧ s.changesOnly t [s.cur] ∧
      trapTaken s t s.cur 0x08 0 0xF a 0 (s.sl s.cur).pc) ∧
    (a.toNat % n = 0 → (a.toNat < tm.spbase ∨ tm.splimit < a.toNat + n) → ∃ t, exec i s = .next t ∧
      s.changesOnly t [s.cur] ∧ trapTaken s t s.cur 0x07 0 0xF a 0 (s.sl s.cur).pc)) ∧
  (∀ (s : State) (k : Nat) (rest : List Turn), s.agenda = .issue k :: rest →
    let u := { s with agenda := rest, freeNo := s.freeNo + 1 }
    let ms := (u.members k).filter (fun j => !(u.sl j).midway)
    u.canIssue k = true → allCanTrap u ms →
    (∀ (s1 : State) (g0 g1 g2 : Word) (code : Nat), u.fetchAt k = .ok ((g0, g1, g2), s1) →
      (decode g0 g1 g2 = .error code ∨ code = 7 ∧ ∃ i, decode g0 g1 g2 = .ok i ∧ i.beyond (s1.tm (u.sl k).team).header.regs = true) →
      ∃ t, step s = .next t ∧ ∀ j ∈ ms, trapTaken u t j 0x01 (BitVec.ofNat 8 code) 0xF g0 0 (u.sl j).pc) ∧
    (∀ e : FetchFail, u.fetchAt k = .error e → ∃ t, step s = .next t ∧ ∀ j ∈ ms,
      trapTaken u t j 0x09 1 0xF (t.sl j).farstat 0 e.at_ ∧
      withBit (u.sl j).farstat (t.sl j).farstat (if e.err = .denied then 2 else 3) true) ∧
    ((u.sl k).granule = none → ∀ e tag, u.codeTarget (u.sl k).team (u.sl k).pc = .fail e tag →
      u.fetchAt k = .error ⟨(u.sl k).pc, e, tag⟩)) ∧
  (∀ (i : Instr), isLane i = true → i.WellFormed → ∀ (s : State) (e : FetchFail), s.onTurn →
    let ms := s.members s.cur
    let u := (s.issuedFor ms (figures i).1).charge i ms
    let acting := ms.filter (fun k => decide ((u.sl k).lanesOn (predOf i).1 (predOf i).2 ≠ 0))
    acting ≠ [] → constsOf i ≠ [] → u.fetchConsts (u.constFence ms) (u.sl (ms.headD 0)).team (constsOf i) = .error e →
    allCanTrap u acting → ∃ t, exec i s = .next t ∧ ∀ k ∈ ms,
      (k ∈ acting → trapTaken u t k 0x09 2 0xF (t.sl k).farstat e.at_ (u.sl k).pc ∧
        withBit (u.sl k).farstat (t.sl k).farstat (if e.err = .denied then 2 else 3) true) ∧
      (k ∉ acting → (t.sl k).pc = (u.sl k).pc + 12))

/-! ## Lane instructions -/

/-- R7 to R9, R13, R14, R27, R80, R82 to R131, R218: every lane instruction named in Claims/Lane.lean (isLane) whose constants are
fetched and whose sources are readable completes in every slice of its gang: the lanes it writes receive what it computes from the
registers as they were before, live, and the slice goes on 12 bytes further. -/
def Obligations.LaneResult : Prop :=
  ∀ i : Instr, isLane i = true → i.WellFormed → ∃ fn, laneFn i = some fn ∧ ∀ (s u : State) (cs : Assoc Word), s.onTurn →
    let ms := s.members s.cur
    fetched ((s.issuedFor ms (figures i).1).charge i ms) i ms cs u → (∀ k ∈ ms, laneReadable i (u.sl k)) →
    ∃ t, exec i s = .next t ∧ ∀ k ∈ ms, (t.sl k).pc = (u.sl k).pc + 12 ∧
      laneWritten i fn (u.sl k) (t.sl k) cs (ms.idxOf k)

/-- R9, R27, R218: the frame of the same instructions: registers and mask bits that are not the destination in a lane written, nor
ended by their last use, are as before, and so is everything else, all of memory included. -/
def Obligations.LaneFrame : Prop :=
  ∀ i : Instr, isLane i = true → i.WellFormed → ∀ (s u t : State) (cs : Assoc Word), s.onTurn →
    let ms := s.members s.cur
    fetched ((s.issuedFor ms (figures i).1).charge i ms) i ms cs u → (∀ k ∈ ms, laneReadable i (u.sl k)) → exec i s = .next t →
    u.changesOnly t ms ∧ ∀ k ∈ ms, laneFramed i (u.sl k) (t.sl k)

/-- R36, R37, R82, R83: each element of the result of IADD, ISUB, IMUL, IMULH, IMAD, IMIN, IMAX and IABS is the exact value of
its table row, wrapped to the type or saturated. R85 to R87, R112: each element of the result of the bitwise, shift, count and
sign instructions is that of the table, on bits. R44 to R54, R109 to R131: each element of the result of the floating, conversion, special-function,
dot-product and fused instructions is what its rule says, the LFSR stepped once for each value rounded under STOCH; FCMP gives
its bit. R39, R45 to R49, R110: encodings stand for the values of their formats, products and sums are exact, and a value is
rounded to one of its neighbours as the mode chooses. Signs of zero products and the flushing of exact results are the model's
reading (log entry 25). -/
def Obligations.ElementValues : Prop :=
  (∀ (i : Instr) (f : Long) (op : Int → Int → Int → Int), integerTable i = some (f, op) → i.WellFormed →
    ∃ fn, laneFn i = some fn ∧ ∀ (e : LaneEnv) (x : LaneIn) (l j : Nat), j < f.ty.count →
      elemBits f.ty (fn e x l).val j =
        finished f.ty f.sat (op (elemVal f.ty x.a j) (elemVal f.ty x.b j) (elemVal f.ty x.c j))) ∧
  (∀ (i : Instr) (f : Long) (op : (w : Nat) → BitVec w → BitVec w → BitVec w), bitTable i = some (f, op) → i.WellFormed →
    ∃ fn, laneFn i = some fn ∧ ∀ (e : LaneEnv) (x : LaneIn) (l j : Nat), j < f.ty.count →
      elemBits f.ty (fn e x l).val j = op (elemWidth f.ty) (elemBits f.ty x.a j)
        (if wordCount i then (x.b.extractLsb' 0 32).setWidth (elemWidth f.ty) else elemBits f.ty x.b j)) ∧
  (∀ (i : Instr) (v : Values), floatTable i = some v → i.WellFormed → ∃ fn, laneFn i = some fn ∧ ∀ (e : LaneEnv) (x : LaneIn) (l : Nat),
    (fn e x l).lfsr = v.lfsr e x ∧ ∀ j, j < v.count →
      (fn e x l).val.extractLsb' (v.width * j) v.width = BitVec.ofNat v.width (v.value e x j)) ∧
  (∀ f : Long, (Instr.fcmp f).WellFormed → ∃ fn, laneFn (.fcmp f) = some fn ∧ ∀ (e : LaneEnv) (x : LaneIn) (l : Nat),
    (fn e x l).bit = compared f e x ∧ (fn e x l).lfsr = e.lfsr) ∧
  (∀ (F : Fmt) (b : Nat), b < 2 ^ F.width → let E := b / 2 ^ F.mbits % 2 ^ F.ebits
    let M : ℚ := (b % 2 ^ F.mbits : Nat) / 2 ^ F.mbits
    let sign : ℚ := if b < 2 ^ (F.width - 1) then 1 else -1
    (E = 0 → ratOf (fval F b) = some (sign * (M * 2 ^ (1 - F.bias)))) ∧
    (0 < E → E < 2 ^ F.ebits - 1 → ratOf (fval F b) = some (sign * ((1 + M) * 2 ^ (E - F.bias))))) ∧
  (∀ (a b : FVal) (x y : ℚ), ratOf a = some x → ratOf b = some y → ratOf (xmul a b) = some (x * y)) ∧
  (∀ (vs : List FVal) (xs : List ℚ) (zero : Bool), vs.map ratOf = xs.map some → ratOf (xsum zero vs) = some xs.sum) ∧
  (∀ (F : Fmt) (mode : Nat) (fpm : BitVec 10) (n : Bool) (m : Nat) (e : Int) (l : Word), 0 < m →
    let enc := roundedMag F mode n (m * 2 ^ e) (if mode = 5 then lfsrStep l else l)
    (fround F mode fpm (.fin n m e false) l).1 =
      if F.maxFin < enc then withSign F n (overflowEnc F mode fpm n false) else flushEnc F fpm (withSign F n enc))

/-- R148, R149, R151, R152: SHFL, SHFLX, BCAST and BCAST.first give each participant operand A of its source lane, zero when that
is absent, which sets STATUS.ABSENT and the participant's bit of the report mask; every source is read before any write. -/
def Obligations.CrossLaneMoves : Prop :=
  ∀ (i : Instr) (f : Long) (report : Nat), moverForm i = some (f, report) → i.WellFormed → ∀ (s u : State) (cs : Assoc Word),
    s.onTurn →
    let ms := s.members s.cur
    let ps := participants u i ms
    fetched ((s.issuedFor ms (crossCycles i)).charge i ms) i ms cs u →
    (∀ p ∈ ps, restLive u i p ∧ ∀ e, sourceLane u i cs ms ps p = some e → aLive u i e) →
    ∃ t, exec i s = .next t ∧ u.changesOnly t ms ∧ (∀ k ∈ ms, (t.sl k).pc = (u.sl k).pc + 12 ∧
        crossFramed i report (u.sl k) (t.sl k)) ∧
      ∀ p ∈ ps, let src := sourceLane u i cs ms ps p
        let v : DWord := match src with
          | none => 0
          | some e => srcAt i (u.sl e.k) cs e.l 0
        (∀ j, j < (if f.ty = .i64 then 2 else 1) → (t.sl p.k).vRd (f.vd.toNat + j) p.l = ⟨v.extractLsb' (32 * j) 32, false, false⟩) ∧
        (src = none → (t.sl p.k).sticky.getLsbD 5 = true) ∧
        (report ≠ 0 → ((t.sl p.k).kGet report).getLsbD p.l = src.isNone)

/-- R148, R150, R153: LANEID, PLANE and VOTE give each participant its virtual number, the gang's lane count or mask, its number in
the team, the ballot, count or rank of a mask, or, VOTE.test, a mask bit.
R154: REDUCE gives every participant the reduction of A over all participants, SCAN over those at or below, or below, its own
virtual number, each under the FPMODE of the participant's own slice (the model's reading, log entry 53). -/
def Obligations.CrossLaneNumbersAndReductions : Prop :=
  (∀ (i : Instr) (f : Long), (i = .laneid f ∨ i = .plane f ∨ i = .vote f) → i.WellFormed → ∀ s : State, s.onTurn →
      let ms := s.members s.cur
      let u := (s.issuedFor ms (crossCycles i)).charge i ms
      let ps := participants u i ms
      ∃ t, exec i s = .next t ∧ u.changesOnly t ms ∧ (∀ k ∈ ms, (t.sl k).pc = (u.sl k).pc + 12 ∧
          crossFramed i 0 (u.sl k) (t.sl k)) ∧
        ∀ p ∈ ps, (∀ w, numberFor u i ms ps p = some w → (t.sl p.k).vRd f.vd.toNat p.l = ⟨w, false, false⟩) ∧
          (i = .vote f → f.xw = 3 → ((t.sl p.k).kGet f.vd.toNat).getLsbD p.l =
            testHolds (f.ext8.extractLsb' 3 3) (votes u (f.ext8.extractLsb' 0 3).toNat ps).length ps.length)) ∧
  (∀ (i : Instr) (f : Long), (i = .reduce f ∨ i = .scan f) → i.WellFormed → ∀ (s u : State) (cs : Assoc Word), s.onTurn →
      let ms := s.members s.cur
      let ps := participants u i ms
      fetched ((s.issuedFor ms (crossCycles i)).charge i ms) i ms cs u → (∀ p ∈ ps, aLive u i p) →
      ∃ t, exec i s = .next t ∧ u.changesOnly t ms ∧ (∀ k ∈ ms, (t.sl k).pc = (u.sl k).pc + 12 ∧
          crossFramed i 0 (u.sl k) (t.sl k)) ∧
        ∀ p ∈ ps, (t.sl p.k).vRd f.vd.toNat p.l = ⟨reduction f (u.sl p.k) (modeOf i (u.sl p.k).fpmode) ((u.sl p.k).lfsr.get p.l)
          ((reducedOver i ps p).map (fun q => loWord (srcAt i (u.sl q.k) cs q.l 0))), false, false⟩)

/-! ## Far access -/

/-- R159, R167, R168, R171, R177: FLD, FST and FATOM make one record of their active lanes and addresses in each slice that has any,
raise its class counter by 1 and go on; the destinations stay as they are until the answer, and memory is unchanged. -/
def Obligations.FarIssue : Prop :=
  ∀ (i : Instr) (f : Long) (scope : BitVec 3) (kind : FarKind), farForm i = some (f, scope, kind) → i.WellFormed →
    ∀ (s u : State) (cs : Assoc Word), FarReady s u i f scope kind cs →
    let ms := s.members s.cur
    let acting := ms.filter (fun k => decide (lanesOf i (u.sl k) ≠ []))
    ∃ t, exec i s = .next t ∧ othersKept u t ms ∧ t.mem = u.mem ∧
      (∀ k ∈ ms, (t.sl k).pc = (u.sl k).pc + 12 ∧ regsKept i 0 0 (u.sl k) (t.sl k) ∧
        (t.sl k).fl = (u.sl k).fl + (if k ∈ acting ∧ countsStore kind = false then 1 else 0) ∧
        (t.sl k).fs = (u.sl k).fs + (if k ∈ acting ∧ countsStore kind = true then 1 else 0) ∧
        (k ∈ acting → (t.sl k).sticky = clampSticky u k scope ∧
          (t.sl k).acqHold = if f.xw.getLsbD 0 then decide ((t.sl k).fl ≠ 0) else (u.sl k).acqHold) ∧
        t.sl k = { (u.sl k).moved (t.sl k) with v := (t.sl k).v, s := (t.sl k).s, bad := (t.sl k).bad, fl := (t.sl k).fl
                                                fs := (t.sl k).fs, sticky := (t.sl k).sticky, acqHold := (t.sl k).acqHold }) ∧
      ∃ recs, t.fars = u.fars ++ recs ∧ recs.map Far.slice = acting ∧
        t = { u with slices := t.slices, fars := t.fars, clusters := t.clusters, nextId := t.nextId, nextSeq := t.nextSeq } ∧
        ∀ r ∈ recs, r.kind = kind ∧ r.formed = false ∧
          r.ops.map (fun o => (o.lane, o.addr)) =
            (lanesOf i (u.sl r.slice)).map (fun l => (l, farAddr i f (u.sl r.slice) cs (farBytes kind) l))

/-- R168 to R171, R282, R284, R289: the coalescer turns the oldest far instruction of a core, in each slice of its gang, into one request
for each 64-byte line; a load that is performed lands its lanes: a register shows the landed value or the one before, and with the
last request the landed one, live, and the count is released; a one-lane store or atomic changes the bytes at its place; a request
that fails, or is past its timeout, sets its FARSTAT bit and count; a walk caches the leaf it finds; a denial record closes when its
time is over. -/
def Obligations.FarEvents : Prop :=
  (∀ (s : State) (f : Far), s.farOf f.id = some f → f.formed = false → s.engineOn (s.tm (s.sl f.slice).team).part = true →
    s.farGoes f = true →
    let mine := s.fars.filter (fun g => decide (coreOfSlice g.slice = coreOfSlice f.slice))
    let gang := mine.filter (fun g => !g.formed && decide (g.gangNo = f.gangNo))
    (∀ g ∈ mine, g.formed = false → f.seq ≤ g.seq) →
    (mine.filter Far.formed).length + (gang.map (fun g => (linesOf (g.ops.map LaneOp.addr)).length)).sum ≤ 64 →
    ∃ t, exec (.coalesceFarRequests f.id) s = .next t ∧ t.slices = s.slices ∧ t.mem = s.mem ∧
      (∀ g ∈ t.fars, g.id = f.id → g.formed = true) ∧ ∀ h ∈ gang, ∀ o ∈ h.ops, ∃ g ∈ t.fars, g.formed = true ∧ g.slice = h.slice ∧
        g.parent = h.parent ∧ g.kind = h.kind ∧
        g.ops = h.ops.filter (fun q => decide (q.addr.toNat / 64 = o.addr.toNat / 64))) ∧
  (∀ (s : State) (f : Far) (z : BitVec 3) (vd : BitVec 8), FarDue s f → FarAlone s f → f.kind = .load z vd → z ≠ 7 →
    let u := s.checkedTag (s.sl f.slice).team 0 ((f.ops.headD ⟨0, 0, 0, 0, 0, false⟩).addr)
    f.ops ≠ [] → (f.ops.map LaneOp.lane).Nodup → (∃ key, s.farTarget f (f.ops.headD ⟨0, 0, 0, 0, 0, false⟩).addr = .key key) →
    (∀ o ∈ f.ops, o.lane < 4 ∧ ∃ key, u.farTarget f o.addr = .key key ∧ clean u key (accessBytes z)) →
    ∃ t, exec (.farResponse f.id) s = .next t ∧ t.mem = u.mem ∧ (∀ g ∈ t.fars, g.id ≠ f.id) ∧
      (∀ o ∈ f.ops, ∀ key, u.farTarget f o.addr = .key key → ∀ n, n < (accessBytes z + 3) / 4 →
        let found := (t.sl f.slice).vRd (vd.toNat + n) o.lane
        let new : Rd := ⟨(loaded z (fun j => u.byte (key + j))).getD n 0, false, false⟩
        (lastRequest s f → found = new) ∧ (((s.sl f.slice).vRd (vd.toNat + n) o.lane).err = false →
          found = new ∨ found = (s.sl f.slice).vRd (vd.toNat + n) o.lane)) ∧
      (lastRequest s f → (t.sl f.slice).fl = (s.sl f.slice).fl - 1)) ∧
  (∀ (s : State) (f : Far) (o : LaneOp) (key : Nat), FarDue s f → FarAlone s f → f.ops = [o] → o.lane < 4 →
    let u := s.checkedTag (s.sl f.slice).team f.kind.agent o.addr
    s.farTarget f o.addr = .key key → u.farTarget f o.addr = .key key → clean u key (farBytes f.kind) →
    (∀ c, scratchCore key = some c → (u.co c).gated = false) →
    (∀ z, f.kind = .store z → z ≠ 7 → ∃ t, exec (.farResponse f.id) s = .next t ∧ storesOnly u t key (accessBytes z) ∧
      ∀ j, j < accessBytes z → t.byte (key + j) = BitVec.ofNat 8 ((o.data.toNat + 2 ^ 64 * o.data2.toNat) / 256 ^ j)) ∧
    (∀ op ty vd, f.kind = .atomic op ty vd → ty ∈ atomTys op →
      let w := if ty = .i64 then 8 else 4
      o.data.toNat < 256 ^ w → o.cmp.toNat < 256 ^ w →
      let old := leNat (u.bytes key w)
      ∃ t, exec (.farResponse f.id) s = .next t ∧ storesOnly u t key w ∧
        leNat (t.bytes key w) = atomResult op.toNat ty old o.data.toNat o.cmp.toNat ∧
        (lastRequest s f → ∀ j, j < w / 4 →
          (t.sl f.slice).vRd (vd.toNat + j) o.lane = ⟨BitVec.ofNat 32 (old / 2 ^ (32 * j)), false, false⟩))) ∧
  (∀ (s : State) (f : Far) (e : FarErr) (tag : BitVec 20), FarDue s f →
    s.farTarget f (f.ops.headD ⟨0, 0, 0, 0, 0, false⟩).addr = .fail e tag →
    let bit := match e with | .timeout => 0 | .noPeer => 1 | .partition => 2 | .denied => 2 | .fault => 3
    let x := s.sl f.slice
    ∃ t, exec (.farResponse f.id) s = .next t ∧ (∀ g ∈ t.fars, g.id ≠ f.id) ∧
      (t.sl f.slice).farstat.getLsbD bit = true ∧
      (t.sl f.slice).farstat.extractLsb' 16 8 = if x.farstat.extractLsb' 16 8 = 255 then 255 else x.farstat.extractLsb' 16 8 + 1) ∧
  (∀ (s : State) (f : Far), s.farOf f.id = some f → f.formed = true → f.sent = false → f.answer = none → s.present f.slice →
    s.farGoes f = true → f.due < s.ns → s.destBlocked f = false →
    ∃ t, exec (.farTimeout (f.id + 65536)) s = .next t ∧ (∀ g ∈ t.fars, g.id ≠ f.id) ∧ t.mem = s.mem ∧
      (t.sl f.slice).farstat.getLsbD 0 = true) ∧
  (∀ (s : State) (r : PeerReq) (f : Far), s.peerReqs.find? (fun q => decide (q.txid.toNat = r.txid.toNat)) = some r → r.lost = false →
    r.kind = 0 → s.farOf r.src = some f → linePassed (s.ns - 2000) r.dline = true → s.route r.stream.dstPeer ≠ .none →
    (s.txOf r.stream).nacked = none → ∃ t pkt, exec (.farTimeout r.txid.toNat) s = .next t ∧ t.slices = s.slices ∧ t.mem = s.mem ∧
      t.farOf f.id = some { f with answer := some pkt } ∧ pkt.stat = 3) ∧
  (∀ (s : State) (part : Nat) (va : BitVec 48) (j : Job) (m : Mapped), (s.pt part).job = some j →
    s.cachedLeaf part j.job va.toNat = none → s.walk j.rootw va.toNat = .ok m →
    (∀ k ∈ s.walkKeys ⟨part, j, none⟩ (va.setWidth 64), clean s k 8) →
    ∃ t, exec (.translationWalk part va) s = .next t ∧ t = { s with dies := t.dies } ∧
      ∃ e ∈ (t.di (ownerDie va.toNat)).xlats, e.part = part ∧ e.job = j.job ∧ e.vpn = va.extractLsb' 12 36 ∧ e.tag = m.tag ∧
        e.r = m.r ∧ e.w = m.w ∧ e.a = m.a) ∧
  (∀ (s : State) (d : Denial), s.denials.find? (fun q => decide (q.id = d.id)) = some d →
    (d.time.toNat + 1000 ≤ s.ns ∨ 255 ≤ d.count) → ∃ t, exec (.denialRecordClose d.id) s = .next t ∧
      (∀ q ∈ t.denials, q.id ≠ d.id) ∧ t.slices = s.slices)

/-! ## Keys: holds, wills, value waits and locks -/

/-- R310 to R312, R317: WHOLD and WWILL raise the team's count on a key of this package and answer it, or answer 0 when the table
has no room; WDROP lowers the counts it names, entries at 0 go, and answers their sum, or all ones when there is none. Memory is
unchanged, but where entries move to or from their spill areas. -/
def Obligations.Registrations : Prop :=
  ∀ (loc : Bool) (d a : BitVec 6) (s : State), KeyReady s loc a.toNat 4 [] →
    let tm := (s.sl (leadOf s)).team
    ∀ (die : Nat) (obj : DWord), s.homeOf (s.tm tm).part (keyOf s loc a.toNat) = .here die obj →
    (∀ will : Bool, let kind : BitVec 2 := if will then 2 else 1
      let i := if will then Instr.wwill loc d a else .whold loc d a
      ∃ t, exec i s = .next t ∧ (Unspilled s (s.tm tm).part obj → t.mem = s.mem) ∧
        ((s.regOf tm obj kind).isSome ∨ (s.makeRoom die (s.tm tm).part).isSome → homeHere obj = .here die obj →
          answered s t d.toNat (BitVec.ofNat 32 (raised (s.regOf tm obj kind))) ∧
          ∃ e ∈ t.wft, e.team = tm ∧ e.obj = obj ∧ e.kind = kind ∧ e.count = raised (s.regOf tm obj kind)) ∧
        (s.regOf tm obj kind = none → s.makeRoom die (s.tm tm).part = none → homeHere obj = .here die obj →
          answered s t d.toNat 0 ∧ t.wft = s.wft)) ∧
    ∀ kind : BitVec 2, ∃ t, exec (.wdrop loc kind d a) s = .next t ∧ (onDies s → t.mem = s.mem) ∧
      ((∀ q ∈ namedKinds kind, s.regOf tm obj q = none) → answered s t d.toNat 0xFFFFFFFF ∧ t.wft = s.wft) ∧
      ((∃ q ∈ namedKinds kind, s.regOf tm obj q ≠ none) →
        answered s t d.toNat (BitVec.ofNat 32 (match namedKinds kind with
          | [q] => lowered (s.regOf tm obj q)
          | _ => lowered (s.regOf tm obj 1) + lowered ((s.dropReg tm obj 1).1.regOf tm obj 2))) ∧
        ∀ q e, namedKinds kind = [q] → s.regOf tm obj q = some e → e.count ≤ 1 → ∀ x ∈ t.wft, x.id ≠ e.id)

/-- R313: WAITV, with no earlier far access of its lead slice open, answers the word and acquires when its condition holds, and else
every slice of the gang stands in the wait, registered when the table has room; memory is unchanged, but where entries move to or from
their spill areas. A read that fails ends it at once with the word of R170 and its FARSTAT bit in the lead slice. R317: with no
room for the entry every slice has STATUS.WFT_UNREG set, and with the lead slice's TRAPEN.WFT_OVERFLOW set every slice traps
WFT_OVERFLOW instead of waiting. That the lead slice's fence clamp decides for the gang is the model's reading (log entry 40). -/
def Obligations.ValueWait : Prop :=
  ∀ (loc : Bool) (cond : BitVec 2) (scope : BitVec 3) (d a b : BitVec 6) (s : State),
    KeyReady s loc a.toNat 4 [b.toNat] → clampTrap s (leadOf s) scope = false → (∀ f ∈ s.fars, f.slice ≠ leadOf s) →
    (∀ (e : FarErr) (tag : BitVec 20), loc = false →
      s.resolve (s.teamAsker (s.sl (leadOf s)).team) (keyOf s loc a.toNat) true false false = .fail e tag →
      let bit := match e with | .timeout => 0 | .noPeer => 1 | .partition => 2 | .denied => 2 | .fault => 3
      ∃ t, exec (.waitv loc cond scope d a b) s = .next t ∧ (t.sl (leadOf s)).farstat.getLsbD bit = true ∧
        ∀ k ∈ s.members s.cur, (t.sl k).pc = (s.sl k).pc + 4 ∧ (t.sl k).wait = none ∧
          (t.sl k).sRd d.toNat = ⟨if e = .denied then 0 else 0xFFFFFFFF, false, false⟩ ∧
          (∀ q, q ≠ d.toNat → (t.sl k).sRd q = (s.sl k).sRd q)) ∧
    ∀ (u : State) (m : Nat), placeOf (s.issued (s.members s.cur)) loc (keyOf s loc a.toNat) false = some (m, u) → clean u m 4 →
    let x := s.sl (leadOf s)
    let word : Word := u.byte (m + 3) ++ (u.byte (m + 2) ++ (u.byte (m + 1) ++ u.byte m))
    ∀ (die : Nat) (obj : DWord), s.homeOf (s.tm x.team).part (keyOf s loc a.toNat) = .here die obj →
    (valueMet cond word (x.sVal b.toNat) = false → Overflows s die obj → ∃ t, exec (.waitv loc cond scope d a b) s = .next t ∧
      overflowTraps s t obj) ∧
    (valueMet cond word (x.sVal b.toNat) = true ∨ x.trapen.getLsbD 4 = false ∨ RoomToWait s (leadOf s) obj →
    ∃ t, exec (.waitv loc cond scope d a b) s = .next t ∧
      (valueMet cond word (x.sVal b.toNat) = true → t.mem = u.mem ∧ answered s t d.toNat word ∧
        ∀ k ∈ s.members s.cur, (t.sl k).wait = none ∧ (t.sl k).acqHold = decide ((s.sl k).fl ≠ 0)) ∧
      (valueMet cond word (x.sVal b.toNat) = false → (Unspilled s (s.tm x.team).part obj → t.mem = u.mem) ∧
        ∃ w, ∀ k ∈ s.members s.cur, (t.sl k).pc = (s.sl k).pc ∧
        (t.sl k).wait = some (.key w (leadOf s)) ∧ w.key = keyOf s loc a.toNat ∧ w.cond = cond ∧ w.comparand = x.sVal b.toNat ∧
        w.sd = d ∧ w.lock = false ∧ w.last = word ∧ (w.entry = none → (t.sl k).sticky.getLsbD 2 = true) ∧
        (RoomToWait s (leadOf s) obj → ∃ id, w.entry = some id ∧ registered t (leadOf s) x.team id obj)))

/-- R314: LOCKACQ writes the team's lock word when the lock is free, answers 1 with the hold recorded, or 3 with STATUS.WFT_UNREG
when it cannot be, and acquires; on a held lock LOCKACQ.try answers 0, and LOCKACQ stands in the wait.
R315: LOCKREL, its release done, frees a held lock, lowers the team's hold on the key, and answers whether the lock was held and
whether the team had no hold. The lock's 8 bytes are all of memory that changes, but where entries move to or from their spill areas.
R172: both with no earlier far access of the lead slice open. R317: a LOCKACQ that has to wait and finds no room traps WFT_OVERFLOW in every
slice with the lead slice's TRAPEN.WFT_OVERFLOW set. That the answer 3 sets STATUS.WFT_UNREG in every slice of the gang, and that the lead slice's
fence clamp decides for the gang, are the model's reading (log entry 40). -/
def Obligations.Locks : Prop :=
  (∀ (loc once : Bool) (scope : BitVec 3) (d a : BitVec 6) (s u : State) (m : Nat), KeyReady s loc a.toNat 8 [] →
      clampTrap s (leadOf s) scope = false → (∀ f ∈ s.fars, f.slice ≠ leadOf s) → placeOf (s.issued (s.members s.cur)) loc (keyOf s loc a.toNat) true = some (m, u) →
      clean u m 8 → (loc = true ∨ keptAt u m) →
      let x := s.sl (leadOf s)
      let tm := x.team
      let old := leNat (u.bytes m 8)
      ∀ (die : Nat) (obj : DWord), s.homeOf (s.tm tm).part (keyOf s loc a.toNat) = .here die obj → homeHere obj = .here die obj →
      (old ≠ 0 → once = false → Overflows s die obj → ∃ t, exec (.lockacq loc once scope d a) s = .next t ∧ overflowTraps s t obj) ∧
      (old = 0 ∨ once = true ∨ x.trapen.getLsbD 4 = false ∨ RoomToWait s (leadOf s) obj →
      ∃ t, exec (.lockacq loc once scope d a) s = .next t ∧
        (Unspilled s (s.tm tm).part obj → storesOnly u t m 8 ∧ (old = 0 → t.dword m = lockBy s) ∧
          (old ≠ 0 → leNat (t.bytes m 8) = old)) ∧
        (old = 0 → (∀ k ∈ s.members s.cur, (t.sl k).acqHold = decide ((s.sl k).fl ≠ 0)) ∧
          ((s.regOf tm obj 1).isSome ∨ (s.makeRoom die (s.tm tm).part).isSome → answered s t d.toNat 1 ∧
            ∃ e ∈ t.wft, e.team = tm ∧ e.obj = obj ∧ e.kind = 1 ∧ e.count = raised (s.regOf tm obj 1)) ∧
          (s.regOf tm obj 1 = none → s.makeRoom die (s.tm tm).part = none → answered s t d.toNat 3 ∧
            ∀ k ∈ s.members s.cur, (t.sl k).sticky.getLsbD 2 = true)) ∧
        (old ≠ 0 → (once = true → answered s t d.toNat 0 ∧ storesOnly u t m 0) ∧
          (once = false → ∃ w, ∀ k ∈ s.members s.cur, (t.sl k).pc = (s.sl k).pc ∧
            (t.sl k).wait = some (.key w (leadOf s)) ∧ w.key = keyOf s loc a.toNat ∧ w.lock = true ∧ w.sd = d ∧
            (RoomToWait s (leadOf s) obj → ∃ id, w.entry = some id ∧ registered t (leadOf s) tm id obj))))) ∧
  (∀ (loc : Bool) (scope : BitVec 3) (d a : BitVec 6) (s u : State) (m : Nat), KeyReady s loc a.toNat 8 [] →
      clampTrap s (leadOf s) scope = false → (∀ k ∈ s.members s.cur, Released s k) → (∀ f ∈ s.fars, f.slice ≠ leadOf s) →
      placeOf (s.issued (s.members s.cur)) loc (keyOf s loc a.toNat) true = some (m, u) → clean u m 8 →
      (loc = true ∨ keptAt u m) →
      let tm := (s.sl (leadOf s)).team
      let old := leNat (u.bytes m 8)
      ∀ (die : Nat) (obj : DWord), s.homeOf (s.tm tm).part (keyOf s loc a.toNat) = .here die obj →
      ∃ t, exec (.lockrel loc scope d a) s = .next t ∧
        (onDies s → storesOnly u t m 8 ∧ leNat (t.bytes m 8) = (if 2 ^ 63 ≤ old then 0 else old)) ∧
        answered s t d.toNat (BitVec.ofNat 32 ((if 2 ^ 63 ≤ old then 1 else 0) + (if (s.regOf tm obj 1).isSome then 0 else 2))) ∧
        ∀ e, s.regOf tm obj 1 = some e → e.count ≤ 1 → ∀ x ∈ t.wft, x.id ≠ e.id)

/-! ## Launches and messages -/

/-- R332: LAUNCH and LAUNCH.param with a header in scratchpad give every slice of the gang the job's grid number, bind the header's
token, raise the grid counter and hand the header over with its parameter, clearance pointer and priority set. Memory is unchanged. -/
def Obligations.LaunchHandsOver : Prop :=
  ∀ (param : Bool) (d a b : BitVec 6) (s : State), OnceReady s (a.toNat :: if param then [b.toNat, b.toNat + 1] else []) →
    let k := leadOf s
    let tm := (s.sl k).team
    let p := (s.tm tm).part
    let at_ := (s.sl k).sVal a.toNat
    let h := Header.ofBytes (s.bytes (spKey k at_) 128)
    inScratch s k at_ 128 64 → clean s (spKey k at_) 128 → s.gridsOf p < 1024 → s.tokenFull h.token = false →
    ∃ t, exec (if param then .launchParam d a b else .launch d a) s = .next t ∧ t.mem = s.mem ∧
      answered s t d.toNat (BitVec.ofNat 32 (s.jobOf p).gridCtr) ∧ tokenIs s t tm h.token bound ∧
      (∃ l g, t.launches = s.launches ++ [l] ∧ l.part = p ∧ l.number = (s.jobOf p).gridCtr ∧ l.owner = .token tm h.token ∧
        l.header = some g ∧
        handedOver s tm (if param then some ((s.sl k).sVal (b.toNat + 1) ++ (s.sl k).sVal b.toNat) else none) h g) ∧
      ∀ j, (s.pt p).job = some j → (t.pt p).job = some { j with gridCtr := (j.gridCtr + 1) % 2 ^ 32 }

/-- R416 to R418: SEND binds its token; a message longer than 2^31 - 1 bytes, or to a peer out of reach, ends it with SEND_FAIL and
sends nothing; another is eager, sent in packets, or rendezvous, sent as one request. The gang goes on. That the packets are made when
the SEND issues is the model's choice (log entry 8). -/
def Obligations.SendResult : Prop :=
  ∀ (rdv : Bool) (j : BitVec 3) (a b : BitVec 6) (s : State),
    OnceReady s [a.toNat, a.toNat + 1, b.toNat, b.toNat + 1, b.toNat + 2] → s.tokenFull j.toNat = false →
    let x := s.sl (leadOf s)
    let len := (x.sVal b.toNat).toNat
    let dest := x.sVal (b.toNat + 2)
    let long := rdv || decide (65536 < len)
    (2 ^ 31 ≤ len → ∃ t, exec (.send rdv j a b) s = .next t ∧ wentOn s t ∧ t.mem = s.mem ∧ t.sends = s.sends ∧
      tokenIs s t x.team j.toNat (fun c => ended (bound c) 6)) ∧
    (len < 2 ^ 31 → (long = true → (s.nextHandle (dieOfCore (coreOfSlice (leadOf s)))).isSome) →
      (s.peerReachable (dest.extractLsb' 0 20) = false → ∃ t, exec (.send rdv j a b) s = .next t ∧ wentOn s t ∧ t.sends = s.sends ∧
        tokenIs s t x.team j.toNat (fun c => ended (bound c) 6)) ∧
      (s.peerReachable (dest.extractLsb' 0 20) = true → ∃ t, exec (.send rdv j a b) s = .next t ∧ wentOn s t ∧
        tokenIs s t x.team j.toNat bound ∧ (long = true → t.mem = s.mem) ∧ ∃ m ∈ t.sends, m.team = x.team ∧ m.token = j.toNat ∧
          m.addr = x.sVal (a.toNat + 1) ++ x.sVal a.toNat ∧ m.len = len ∧ m.tag = x.sVal (b.toNat + 1) ∧
          m.dstPeer = dest.extractLsb' 0 20 ∧ m.dstDie = dest.extractLsb' 20 3 ∧ m.rdv = long ∧ m.endAnswered = !long ∧
          ((∀ y ∈ s.sends, y.team = x.team → y.die = dieOfCore (coreOfSlice (leadOf s))) →
            m.packets.length = if long then 1 else 1 + (len - 2032 + 2047) / 2048)))

/-- R420, R421, R430: RPOST with sound structures captures its block and descriptor; it answers all ones when they break a limit, 0
when there is no room, and else a handle, binds its token, and stands posted unless a message already matches it.
R425, R426: RCANCEL withdraws an unmatched receive of the team, ends its token with RECV_CANCEL and answers 1, or changes nothing
and answers 0 for a matched one, also one whose message has landed and that is held no longer, and 2 for any other handle that is not held (the model's
reading, log entry 35). RPROBE answers length, tag and source of the oldest message that its block
matches, and takes nothing. -/
def Obligations.ReceivesAndProbes : Prop :=
  (∀ (tok cq bar : Bool) (j : BitVec 3) (d a : BitVec 6) (s : State), OnceReady s [a.toNat] →
      (tok = true → s.tokenFull j.toNat = false) →
      let k := leadOf s
      let x := s.sl k
      let tm := s.tm x.team
      let die := dieOfCore (coreOfSlice k)
      let at_ := x.sVal a.toNat
      let block := s.bytes (spKey k at_) 64
      let desc := s.bytes (spKey k (fieldW block 0x18)) 64
      let sound := blockClear block && tensorOk desc
      let m := (aget 0 (s.di die).rxSeq (tm.part * 65536 + tm.job.toNat)).toNat
      let handle : Word := BitVec.ofNat 3 die ++ BitVec.ofNat 29 (if m = 2 ^ 29 - 1 then 1 else m + 1)
      (∀ e ∈ postSpans block at_ cq bar, inScratch s k e.1 e.2 e.2) → clean s (spKey k at_) 64 →
      clean s (spKey k (fieldW block 0x18)) 64 →
      (sound = false → ∃ t, exec (.rpost tok cq bar j d a) s = .next t ∧ answered s t d.toNat 0xFFFFFFFF ∧ t.mem = s.mem ∧
        t.recvs = s.recvs ∧ t.teams = s.teams) ∧
      (sound = true → s.postRoom die tm.part tm.job = none → ∃ t, exec (.rpost tok cq bar j d a) s = .next t ∧
        answered s t d.toNat 0 ∧ t.mem = s.mem ∧ t.recvs = s.recvs ∧ t.teams = s.teams) ∧
      (sound = true → postedOn s die < 4096 → oldestMatch s die tm.part tm.job block = none →
        ∃ t r, exec (.rpost tok cq bar j d a) s = .next t ∧ answered s t d.toNat handle ∧
          (Unspilled s tm.part (localKey (coreOfSlice k) at_.toNat) → t.mem = s.mem) ∧
          tokenIs s t x.team j.toNat (if tok then bound else id) ∧ r ∈ t.recvs ∧ r.posted = true ∧ r.team = x.team ∧ r.handle = handle ∧
          r.block = block ∧ r.desc = desc ∧ r.tok = (if tok then some j.toNat else none) ∧ r.cq = cq ∧ r.bar = bar ∧
          (die < 8 → s.wftUsed die < 4096 → ∃ e ∈ t.wft, r.wft = some e.id ∧ e.kind = 3 ∧ e.team = x.team ∧
            e.obj = localKey (coreOfSlice k) at_.toNat)) ∧
      (sound = true → postedOn s die < 4096 → ∀ u, oldestMatch s die tm.part tm.job block = some u →
        ∃ t, exec (.rpost tok cq bar j d a) s = .next t ∧ ∀ k ∈ s.members s.cur, (t.sl k).pc = (s.sl k).pc + 4 ∧
          (t.sl k).sRd d.toNat = ⟨handle, false, false⟩)) ∧
  ((∀ (d a : BitVec 6) (s : State), OnceReady s [a.toNat] →
      let x := s.sl (leadOf s)
      let h := x.sVal a.toNat
      ((∀ r ∈ s.recvs, ¬(r.team = x.team ∧ r.handle = h)) → ∃ t, exec (.rcancel d a) s = .next t ∧
        answered s t d.toNat (if h ∈ (s.tm x.team).landed then 0 else 2) ∧ t.mem = s.mem ∧ t.recvs = s.recvs) ∧
      ∀ r, s.recvs.find? (fun q => decide (q.team = x.team ∧ q.handle = h)) = some r →
        (r.posted = false → ∃ t, exec (.rcancel d a) s = .next t ∧ answered s t d.toNat 0 ∧ t.mem = s.mem ∧ t.recvs = s.recvs) ∧
        (r.posted = true → ∃ t, exec (.rcancel d a) s = .next t ∧ answered s t d.toNat 1 ∧ (∀ q ∈ t.recvs, q.id ≠ r.id) ∧
          ∀ j, r.tok = some j → tokenIs s t x.team j (fun c => ended c 8))) ∧
    (∀ (d a : BitVec 6) (s : State), OnceReady s [a.toNat] → d.toNat % 4 = 0 →
      let k := leadOf s
      let tm := s.tm (s.sl k).team
      let at_ := (s.sl k).sVal a.toNat
      inScratch s k at_ 64 64 → clean s (spKey k at_) 24 →
      ∃ t, exec (.rprobe d a) s = .next t ∧ s.changesOnly t (s.members s.cur) ∧ ∀ q ∈ s.members s.cur, (t.sl q).pc = (s.sl q).pc + 4 ∧
        (∀ n, n < d.toNat ∨ d.toNat + 4 ≤ n → (t.sl q).sRd n = (s.sl q).sRd n) ∧
        ∀ n, n < 4 → (t.sl q).sRd (d.toNat + n) =
          ⟨(match oldestMatch s (dieOfCore (coreOfSlice k)) tm.part tm.job (s.bytes (spKey k at_) 64) with
            | some u => [BitVec.ofNat 32 u.len, u.tag, u.srcKey.extractLsb' 0 32, u.srcKey.extractLsb' 32 32]
            | none => [0xFFFFFFFF, 0, 0, 0]).getD n 0, false, false⟩))

/-- R417, R421 to R423: the first packet of a message lands in the oldest posted receive of its job that matches, or joins the
unexpected queue; a later eager packet counts its bytes as landed; a PULL with END ends its send, and its answer lands its chunk; a
send that is settled and a receive that is complete end their tokens with their codes. -/
def Obligations.MessageEvents : Prop :=
  (∀ (pkt : Packet) (s : State) (p : Nat), s.isFirst pkt = true → s.fate pkt = .deliver p →
    let die := pkt.dstDie.toNat
    let tag := fieldW pkt.payload 0
    let len := field pkt.payload 4 4
    let src : DWord := 0#25 ++ (pkt.addr.extractLsb' 26 16 ++ (pkt.srcDie ++ pkt.srcPeer))
    let off := (pkt.addr.extractLsb' 0 26).toNat
    (pkt.cls = clsRts ∨ pkt.cls = clsMsg ∧ off = 0 →
      (∀ r, s.postedFor die p pkt.job tag src = some r → (s.rxArea die p pkt.job).isSome → ∃ t q, exec (.messageArrival pkt) s = .next t ∧ q ∈ t.recvs ∧ q.id = r.id ∧
        q.posted = false ∧ q.len = len ∧ q.mtag = tag ∧ q.msrc = src) ∧
      (s.postedFor die p pkt.job tag src = none → ∀ area, s.rxArea die p pkt.job = some area →
        let us := s.unexpectedOf die p pkt.job
        let room := if pkt.cls = clsRts then 0 else (len + 63) / 64 * 64
        (lowestSlot ((us.filter (fun u => !u.gone)).map (fun u => u.slot)) 65536).isSome →
        (s.poolPlace die p pkt.job area.2 room).isSome →
        ∃ t u, exec (.messageArrival pkt) s = .next t ∧ t.unexpected = s.unexpected ++ [u] ∧ u.die = die ∧ u.part = p ∧
          u.job = pkt.job ∧ u.srcKey = src ∧ u.tag = tag ∧ u.len = len ∧ u.rdv = decide (pkt.cls = clsRts) ∧ u.room = room)) ∧
    (pkt.cls = clsMsg → off ≠ 0 → ∀ r,
      s.recvs.find? (fun r => !r.posted && !r.rdv && decide (r.die = die ∧ r.part = p ∧ r.job = pkt.job ∧ r.msrc = src ∧
        r.landed = off ∧ off < r.len)) = some r →
      ∃ t q, exec (.messagePacketLanding pkt) s = .next t ∧ q ∈ t.recvs ∧ q.id = r.id ∧ q.landed = off + pkt.payload.length) ∧
    (pkt.cls = clsPull → ∀ x, s.sendFor pkt = some x → ∃ t, exec (.pullRequest pkt) s = .next t ∧
      ∀ y ∈ t.sends, y.id = x.id → y.endAnswered = (x.endAnswered || pkt.op.getLsbD 0))) ∧
  (∀ (pkt : Packet) (s : State) (r : PeerReq) (v : Recv), s.isFirst pkt = true → pkt.cls = clsAns → s.requestFor pkt = some r →
    r.kind = 2 → s.recvOf r.src = some v → s.teamGoes v.part v.team = true → ∃ t q, exec (.pullAnswer pkt) s = .next t ∧ q ∈ t.recvs ∧ q.id = v.id ∧
      (v.landed = 2048 * r.off → 2048 * r.off + min 2048 (v.len - 2048 * r.off) ≤ q.landed)) ∧
  (∀ (n : Nat) (s : State) (x : SendOp), s.sends.find? (fun y => decide (y.id = n)) = some x → x.packets = [] →
    x.waits = false → x.endAnswered = true → ∃ t, exec (.sendFinish n) s = .next t ∧ t.sends = s.sends.filter (fun y => decide (y.id ≠ n)) ∧
      t.slices = s.slices ∧ t.mem = s.mem ∧ (x.team < 2 ^ 24 → tokenIs s t x.team x.token (fun c => ended c x.code))) ∧
  (∀ (n : Nat) (s : State) (r : Recv), s.recvOf n = some r → r.complete = true → s.engineOn r.part = true → r.team < 2 ^ 24 →
    ∃ t, exec (.receiveComplete n) s = .next t ∧ (∀ q ∈ t.recvs, q.id ≠ n) ∧
      ∀ j, r.tok = some j → tokenIs s t r.team j (fun c => ended c r.code))

/-! ## Copies -/

/-- R236 to R241, R252: a copy that passes its checks binds its token, counts in every slice of its gang and stands in its core's
queue with its operands, descriptor and group captured; one of length or count 0 ends its token at once. The gang goes on, its
registers as before. -/
def Obligations.CopyIssue : Prop :=
  ∀ (i : Instr) (f : CopyForm), copyForm i = some f → ∀ s : State, CopyReady s f →
    let x := s.sl (leadOf s)
    (f.idle x = false → ∃ t c, exec i s = .next t ∧ wentOn s t ∧ (∀ k ∈ s.members s.cur, (t.sl k).cp = (s.sl k).cp + 1) ∧
      tokenIs s t x.team f.token bound ∧ t.copies = s.copies ++ [c] ∧ c.team = x.team ∧ c.lead = leadOf s ∧
      c.members = s.members s.cur ∧ c.token = f.token ∧ c.bar = (if f.bar then some (x.sVal (f.b + 1)) else none) ∧
      c.kind = f.kind s x ∧ c.cursor = 0 ∧ c.denied = false ∧ c.state = .queued ∧ (f.mc = false → t.mem = s.mem ∧ c.group = none) ∧
      (f.mc = true → (s.tm x.team).header.mcast = 0 → c.group = none) ∧
      (f.mc = true → (s.tm x.team).header.mcast ≠ 0 → ∀ e, (s.cl (clusterOfCore (coreOfSlice s.cur))).groups.find? (fun e =>
          decide (e.1 = (s.tm x.team).header.mcast ∧ e.2.1 = ((x.sVal (f.b + 2)).extractLsb' 0 4).toNat)) = some e →
        c.group = some e.2.2.1)) ∧
    (f.idle x = true → ∃ t, exec i s = .next t ∧ wentOn s t ∧ (∀ k ∈ s.members s.cur, (t.sl k).cp = (s.sl k).cp) ∧
      tokenIs s t x.team f.token (fun c => ended (bound c) 0) ∧ (f.mc = false → t.mem = s.mem))

/-- R235, R241, R248, R250, R261, R262, R379, R380: the dispatcher starts the oldest waiting copy of a core, the cores in turn; an engine
performs an element of COPY that is a whole piece, its byte from source to destination, and credits its barrier; a copy whose elements are performed ends its token and
counts; one that cannot go on pauses with COPY_FAULT; system software resumes or aborts it, and sets the buckets, which refill. BUSY of
COPYCMD reads 0 after a command (the model's choice, log entry 59); the pieces of a copy are the model's reading (log entry 41). -/
def Obligations.CopyEvents : Prop :=
  (∀ (s : State) (c : Copy), s.copyOf c.id = some c →
    (c.state = .queued → (∀ x ∈ s.copies, x.core = c.core → x.state = .queued → c.id ≤ x.id) →
      (s.copies.filter (fun x => decide (x.cluster = c.cluster ∧ x.state = .running))).length < 32 → s.copyGoes c = true →
      let steps (x : Copy) : Nat := (x.core % 256 + 256 - (s.cl c.cluster).turn) % 256
      (∀ x ∈ s.copies, x.cluster = c.cluster → x.state = .queued → steps c ≤ steps x) →
      ∃ t, exec (.copyDispatch c.cluster c.id) s = .next t ∧ t = { s with copies := t.copies, clusters := t.clusters } ∧
        t.copyOf c.id = some { c with state := .running } ∧
        t.cl c.cluster = { s.cl c.cluster with turn := (c.core + 1) % 256 }) ∧
    (c.state = .running → c.kind.badDesc = false → c.kind.total ≤ c.cursor → ∃ t, exec (.copyFinish c.id) s = .next t ∧
      (∀ x ∈ t.copies, x.id ≠ c.id) ∧ t.mem = s.mem ∧ (∀ k ∈ c.members, s.present k → (t.sl k).cp = (s.sl k).cp - 1) ∧
      tokenIs s t c.team c.token (fun y => ended y (if c.denied then 9 else 0))) ∧
    (∀ h : BitVec 16, c.state = .running → s.copyGoes c = true → (∀ x ∈ s.copies, ∀ k a, x.state ≠ .paused h k a) →
      (∀ kind addr, s.pauseNow c = some (kind, addr) → ∃ t, exec (.copyPause c.id h) s = .next t ∧
        t.copyOf c.id = some { c with state := .paused h kind addr } ∧
        tokenIs s t c.team c.token (fun y => if y.err then y else { y with err := true, code := 1 })) ∧
      (c.kind.badDesc = true → s.pauseNow c = some (5, 0))) ∧
    (∀ (h : BitVec 16) (kind : BitVec 8) (addr : DWord), c.state = .paused h kind addr → s.pausedCopy c.cluster h = some c →
      (∀ x ∈ s.copies, ∀ h k a, x.state = .paused h k a → x.id = c.id) →
      (∃ t, exec (.copycmdResume c.cluster h) s = .next t ∧ t.mem = s.mem ∧
        (t.cl c.cluster).copycmd = 1#2 ++ (0#14 ++ h) ∧
        (∃ x ∈ t.copies, x.id = c.id ∧ x.state = .queued ∧ x.cursor = c.cursor ∧ x.kind = c.kind) ∧
        tokenIs s t c.team c.token (fun y => if y.code = 1 then { y with err := false, code := 0 } else y)) ∧
      (∃ t, exec (.copycmdAbort c.cluster h) s = .next t ∧ t.mem = s.mem ∧
        (t.cl c.cluster).copycmd = 2#2 ++ (0#14 ++ h) ∧ (∀ x ∈ t.copies, x.id ≠ c.id) ∧
        (∀ k ∈ c.members, s.present k → (t.sl k).cp = (s.sl k).cp - 1) ∧
        tokenIs s t c.team c.token (fun y => ended (if y.code = 1 then { y with code := 2 } else y) 2)))) ∧
  (∀ (s : State) (c : Copy) (dst src : DWord) (n a b : Nat), s.copyOf c.id = some c → c.kind = .copy false dst src n →
    c.state = .running → s.copyGoes c = true → c.cursor < n → c.saved = [] → c.asked = none → c.piece = 0 → c.part = 0 →
    c.got = [] → c.pieceLen = 1 →
    let p := (s.tm c.team).part
    let die := dieOfCore c.core
    s.withheld p = false → qosRate (aget 0 (s.di die).copyqos p) = 0 →
    let from_ := src + BitVec.ofNat 64 c.cursor
    let to_ := dst + BitVec.ofNat 64 c.cursor
    let u := s.checkedTag c.team 3 from_
    let v := u.checkedTag c.team 4 to_
    s.resolve (s.teamAsker c.team) from_ true false false = .key a →
    u.resolve (u.teamAsker c.team) to_ false true false = .key b → clean u a 1 → clean v b 1 →
    (∀ k, scratchCore b = some k → (v.co k).gated = false) →
    (c.bar = none → ∃ t, exec (.copyCredit c.id 1) s = .next t ∧ storesOnly v t b 1 ∧ t.byte b = u.byte a ∧
      ∃ x ∈ t.copies, x.id = c.id ∧ x.cursor = c.cursor + 1) ∧
    (∀ l, c.bar = some l → c.cursor + 1 < n → let key := coreKey c.core l.toNat
      (∀ q, key ≤ q → q < key + 16 → q ≠ b) → clean v key 16 → keptAt v key →
      ∃ t, exec (.copyCredit c.id 1) s = .next t ∧ t.byte b = u.byte a ∧
        barrierAt t key = (barrierAt v key).update 0 (-1) false ∧ ∃ x ∈ t.copies, x.id = c.id ∧ x.cursor = c.cursor + 1)) ∧
  (∀ (s : State) (die part : Nat) (value : DWord), ∃ t, exec (.copyqosWrite die part value) s = .next t ∧
    t = { s with dies := t.dies } ∧ (∀ d, d ≠ die → t.di d = s.di d) ∧
    aget 0 (t.di die).copyqos part = value &&& 0xFFFFFFFFFF00FFFF ∧
    qosDepth (aget 0 (t.di die).copyqst part) = qosDepth value ∧
    debtOf (aget 0 (t.di die).copyqst part) = debtOf (aget 0 (s.di die).copyqst part)) ∧
  (∀ (s : State) (die : Nat), (s.di die).refillUs ≠ s.ns / 1000 →
    ∃ t, exec (.copyTokenRefill die) s = .next t ∧
    t = { s with dies := t.dies } ∧ (t.di die).refillUs = s.ns / 1000 ∧ ∀ p, p < 16 →
      let q := aget 0 (s.di die).copyqos p
      let st := aget 0 (s.di die).copyqst p
      let r := qosRate q
      let back := min (debtOf st) (r / 2)
      aget 0 (t.di die).copyqos p = q ∧
      (r = 0 → aget 0 (t.di die).copyqst p = st) ∧
      (r ≠ 0 → debtOf (aget 0 (t.di die).copyqst p) = debtOf st - back ∧
        qosDepth (aget 0 (t.di die).copyqst p) = min (qosDepth q) (qosDepth st + (r - back))))

/-! ## Tiles and matrix operations -/

/-- R183 to R190: TSET, TSET.lo and TSET.hi write a descriptor of the team, VALID computed; TGET and TGET.hi read its words; a tile
move that passes its checks captures the descriptor and its operands, counts in every slice with an active lane, and moves nothing
yet. -/
def Obligations.TileInstructions : Prop :=
  (∀ (j a b : BitVec 6) (s : State) (i : Instr) (srcs : List Nat) (word : DWord → Slice → DWord),
    (i = .tset j a b ∧ srcs = [a.toNat, b.toNat] ∧ word = (fun _ x => x.sVal b.toNat ++ x.sVal a.toNat)) ∨
    (i = .tsetLo j a ∧ srcs = [a.toNat] ∧ word = (fun d x => d.extractLsb' 32 32 ++ x.sVal a.toNat)) ∨
    (i = .tsetHi j a ∧ srcs = [a.toNat] ∧ word = (fun d x => x.sVal a.toNat ++ d.extractLsb' 0 32)) →
    OnceReady s srcs →
    let x := s.sl (leadOf s)
    j.toNat < (s.tm x.team).tiles.length → (afind s.teams x.team).isSome →
    ∃ t, exec i s = .next t ∧ wentOn s t ∧ t.mem = s.mem ∧
      (t.tm x.team).desc j.toNat = tileDesc (word ((s.tm x.team).desc j.toNat) x) ∧
      ∀ q, q ≠ j.toNat → (t.tm x.team).desc q = (s.tm x.team).desc q) ∧
  (∀ (hi : Bool) (d j : BitVec 6) (s : State), OnceReady s [] →
    let x := s.sl (leadOf s)
    j.toNat < (s.tm x.team).tiles.length → ∃ t, exec (if hi then .tgetHi d j else .tget d j) s = .next t ∧ t.mem = s.mem ∧
      answered s t d.toNat (((s.tm x.team).desc j.toNat).extractLsb' (if hi then 32 else 0) 32)) ∧
  (∀ (i : Instr) (f : Long) (kind : MoveKind), moveForm i = some (f, kind) → ∀ (s u : State) (cs : Assoc Word), LongOnce s u i cs →
    actingIn s i ≠ [] → (∀ k ∈ actingIn s i, (s.sl k).tl < 63) →
    let k := leadOf s
    let tm := (s.sl k).team
    let j := (f.ext8.extractLsb' 0 4).toNat
    let d := (s.tm tm).desc j
    let base := operandAt i s cs 0
    let stride := operandAt i s cs 1
    j < (s.tm tm).tiles.length → d.getLsbD 31 = true → base.toNat % 4 = 0 → stride.toNat % 4 = 0 →
    (∀ r, r < (rowsMoved kind d).1 → inScratch s k (rowAt base stride r) (rowsMoved kind d).2 1) →
    ∃ t m, exec i s = .next t ∧ wentLong s t ∧ t.mem = u.mem ∧ t.moves = s.moves ++ [m] ∧ m.team = tm ∧ m.kind = kind ∧
      m.base = base ∧ m.stride = stride ∧ m.desc = d ∧ m.tile = (s.tm tm).tiles.getD j 0 ∧ m.members = actingIn s i ∧
      ∀ q ∈ s.members s.cur, (t.sl q).tl = (s.sl q).tl + if q ∈ actingIn s i then 1 else 0)

/-- R186, R193 to R201, R265 to R270: a product, fill or ganged operation that passes its checks posts one entry with what it
captures, and nothing with no lane active; MBATCH closes the open set on a token, done at once when the set is empty; MMAGOK opens,
replaces or closes the core's window and says which. -/
def Obligations.MatrixPosting : Prop :=
  (∀ (i : Instr) (s u : State) (cs : Assoc Word), (moveForm i).isSome ∨ (productForm i).isSome ∨ (∃ f, i = .afill f) ∨
      (∃ f, i = .mmag f) ∨ (∃ f, i = .mmagNolocal f) → LongOnce s u i cs → actingIn s i = [] →
    ∃ t, exec i s = .next t ∧ wentLong s t ∧ t.mem = s.mem ∧ t.moves = s.moves ∧ t.entries = s.entries ∧ t.gangOps = s.gangOps ∧
      t.teams = s.teams) ∧
  (∀ (i : Instr) (f : Long) (scaled : Bool), productForm i = some (f, scaled) → ∀ (s u : State) (cs : Assoc Word), LongOnce s u i cs →
    actingIn s i ≠ [] → s.fifoFull (coreOfSlice s.cur) = false →
    let tm := s.tm (s.sl (leadOf s)).team
    let a := (f.ext8.extractLsb' 0 4).toNat
    let b := (f.ext8.extractLsb' 4 4).toNat
    let rows := (numbersOf s (fun x => x.lanesOn f.pk f.pn)).filter (fun r => decide (r < ((tm.desc a).extractLsb' 4 6).toNat))
    tm.pairCheck (some a) b scaled = none → rows ≠ [] →
    tm.accCheck (operandAt i s cs 0) rows ((tm.desc b).extractLsb' 4 6).toNat = none →
    ∃ t e, exec i s = .next t ∧ wentLong s t ∧ t.mem = u.mem ∧ t.entries = s.entries ++ [e] ∧ e.team = (s.sl (leadOf s)).team ∧
      e.op = .mma scaled (tm.desc a) (tm.desc b) (tm.tiles.getD a 0) (tm.tiles.getD b 0)
        (if scaled then (unitsOf (tm.desc a)).map (physUnit tm) else []) (if scaled then (unitsOf (tm.desc b)).map (physUnit tm) else []) ∧
      e.acc = operandAt i s cs 0 ∧ e.rows = rows ∧ e.started = false ∧
      ((afind s.teams e.team).isSome → (t.tm e.team).openSet = tm.openSet ++ [e.id])) ∧
  (∀ (f : Long) (s u : State) (cs : Assoc Word), LongOnce s u (.afill f) cs → actingIn s (.afill f) ≠ [] →
    s.fifoFull (coreOfSlice s.cur) = false →
    let tm := s.tm (s.sl (leadOf s)).team
    let rows := numbersOf s (fun x => x.lanesOn f.pk f.pn)
    let n := (f.ext8.extractLsb' 0 5).toNat + 1
    tm.accCheck (operandAt (.afill f) s cs 0) rows n = none →
    ∃ t e, exec (.afill f) s = .next t ∧ wentLong s t ∧ t.mem = u.mem ∧ t.entries = s.entries ++ [e] ∧
      e.team = (s.sl (leadOf s)).team ∧ e.op = .fill (operandAt (.afill f) s cs 1) n ∧ e.acc = operandAt (.afill f) s cs 0 ∧
      e.rows = rows ∧ ((afind s.teams e.team).isSome → (t.tm e.team).openSet = tm.openSet ++ [e.id])) ∧
  (∀ (nolocal : Bool) (f : Long) (s u : State) (cs : Assoc Word), let i := if nolocal then Instr.mmagNolocal f else .mmag f
    LongOnce s u i cs → actingIn s i ≠ [] → s.fifoFull (coreOfSlice s.cur) = false →
    let tm := s.tm (s.sl (leadOf s)).team
    let a := (f.ext8.extractLsb' 0 4).toNat
    let b := (f.ext8.extractLsb' 4 4).toNat
    let j := (f.ext8b.extractLsb' 0 3).toNat
    let sc := f.ext8b.getLsbD 3
    let bar := operandAt i s cs 2
    let ps := partnersIn (clusterOfCore (coreOfSlice s.cur)) (operandAt i s cs 1)
    let rows := if nolocal then []
      else (numbersOf s (fun x => x.lanesOn f.pk f.pn)).filter (fun r => decide (r < ((tm.desc a).extractLsb' 4 6).toNat))
    s.tokenFull j = false → tm.pairCheck (if nolocal then none else some a) b sc = none →
    (rows ≠ [] → tm.accCheck (operandAt i s cs 0) rows ((tm.desc b).extractLsb' 4 6).toNat = none) →
    (∀ p ∈ ps, p.2 ≠ coreOfSlice s.cur) → ps.Pairwise (fun p q => p.2 ≠ q.2) → inScratch s (leadOf s) bar 16 16 →
    ∃ t e g, exec i s = .next t ∧ wentLong s t ∧ t.mem = u.mem ∧ t.entries = s.entries ++ [e] ∧ t.gangOps = s.gangOps ++ [g] ∧
      tokenIs s t (s.sl (leadOf s)).team j bound ∧ e.rows = rows ∧ g.team = (s.sl (leadOf s)).team ∧ g.token = j ∧ g.bar = bar ∧
      g.scaled = sc ∧ g.partners = ps ∧ g.descB = tm.desc b ∧ g.nolocal = nolocal ∧ g.entry = e.id ∧ g.sent = false ∧
      g.status = []) ∧
  (∀ (arr : Bool) (j : BitVec 3) (a b : BitVec 6) (s : State), let i := if arr then Instr.mbatchArr j a b else .mbatch j
    OnceReady s (if arr then [a.toNat, b.toNat] else []) → s.tokenFull j.toNat = false →
    let x := s.sl (leadOf s)
    (arr = true → inScratch s (leadOf s) (x.sVal a.toNat) 16 16) →
    ((s.tm x.team).openSet ≠ [] → ∃ t b', exec i s = .next t ∧ wentOn s t ∧ t.mem = s.mem ∧ t.batches = s.batches ++ [b'] ∧
      b'.team = x.team ∧ b'.token = j.toNat ∧ b'.members = (s.tm x.team).openSet ∧
      b'.arr = (if arr then some (x.sVal a.toNat, x.sVal b.toNat) else none) ∧ (t.tm x.team).openSet = [] ∧
      tokenIs s t x.team j.toNat bound) ∧
    ((s.tm x.team).openSet = [] → ∃ t, exec i s = .next t ∧ wentOn s t ∧ (t.tm x.team).openSet = [] ∧
      tokenIs s t x.team j.toNat (fun c => ended (bound c) 0) ∧ (arr = false → t.mem = s.mem) ∧
      (arr = true → let key := coreKey (coreOfTeam x.team) (x.sVal a.toNat).toNat
        clean s key 16 → storesOnly s t key 16 ∧ barrierAt t key = (barrierAt s key).update (x.sVal b.toNat).toNat 0 false))) ∧
  (∀ (d a b : BitVec 6) (s : State), OnceReady s [a.toNat, b.toNat] →
    let x := s.sl (leadOf s)
    let core := coreOfSlice (leadOf s)
    let w : MmagWindow := ⟨x.team, (s.tm x.team).job, x.sVal a.toNat, ((x.sVal b.toNat).extractLsb' 0 4).toNat,
      numbersOf s (fun x => x.active)⟩
    ((s.co core).win = none → ∃ t, exec (.mmagokOpen d a b) s = .next t ∧ answered s t d.toNat 1 ∧ t.mem = s.mem ∧
      (t.co core).win = some w) ∧
    (∀ old, (s.co core).win = some old → ∃ t, exec (.mmagokOpen d a b) s = .next t ∧ t.mem = s.mem ∧
      answered s t d.toNat (if old.team = x.team then 3 else 0) ∧ (t.co core).win = some (if old.team = x.team then w else old))) ∧
  (∀ (d : BitVec 6) (s : State), OnceReady s [] →
    let k := leadOf s
    let tm := (s.sl k).team
    (s.ownWindow (coreOfSlice k) tm = false → ∃ t, exec (.mmagokClose d) s = .next t ∧ answered s t d.toNat 0 ∧ t.mem = s.mem) ∧
    (s.ownWindow (coreOfSlice k) tm = true → s.partsOpen tm = true → ∃ t, exec (.mmagokClose d) s = .next t ∧ t.mem = s.mem ∧
      ∀ q ∈ s.members s.cur, (t.sl q).pc = (s.sl q).pc ∧ (t.sl q).wait = some (.mmagokClose d k)) ∧
    (coreOfSlice k = coreOfTeam tm → s.ownWindow (coreOfSlice k) tm = true → s.partsOpen tm = false →
      ∃ t, exec (.mmagokClose d) s = .next t ∧ answered s t d.toNat 1 ∧ t.mem = s.mem ∧ (t.co (coreOfTeam tm)).win = none))

/-- R188, R190, R197 to R201, R207, R267, R272 to R274: the bytes that a tile move moves; an entry's product sums or fill values when
it starts, and its accumulator words when it is written back; the batch that ends with it; the shadow unit's turn; a ganged part's
status by its checks; the completion of a ganged operation; the end of MMAGOK.close. -/
def Obligations.MatrixEvents : Prop :=
  (∀ (s : State) (m : TileMove), s.moves.find? (fun x => decide (x.id = m.id)) = some m → s.moveWaits m = false →
    tileValid m.desc = true →
    let core := coreOfTeam m.team
    let n := (rowsMoved m.kind m.desc).1
    let w := (rowsMoved m.kind m.desc).2
    let row (r : Nat) : Nat := coreKey core (rowAt m.base m.stride r).toNat
    let line (r : Nat) : Nat := tileKey core m.tile (128 * r)
    (∀ r, r < n → (rowAt m.base m.stride r).toNat + w ≤ 2 ^ 19 ∧ clean s (row r) w) → core < 4096 → m.tile < 16 →
    clean s (line 0) 4096 →
    ∃ t, exec (.tileMoveDone m.id) s = .next t ∧ (∀ x ∈ t.moves, x.id ≠ m.id) ∧
      (∀ k ∈ m.members, s.present k → (t.sl k).tl = (s.sl k).tl - 1) ∧
      (m.kind = .tld → storesOnly s t (line 0) 4096 ∧ ∀ r, r < n → ∀ c, c < w → t.byte (line r + c) = s.byte (row r + c)) ∧
      (m.kind = .tst → (∀ q, (∀ r, r < n → ¬ (row r ≤ q ∧ q < row r + w)) → t.byte q = s.byte q) ∧
        ∀ r, r < n → (∀ p, r < p → p < n → row r + w ≤ row p ∨ row p + w ≤ row r) → ∀ c, c < w →
          t.byte (row r + c) = s.byte (line r + c)) ∧
      (m.kind = .ttrans → storesOnly s t (line 0) 4096 ∧ ∀ c, c < n → ∀ r, r < (m.desc.extractLsb' 4 6).toNat →
        let e := (m.desc.extractLsb' 0 4).toNat
        rowElem e (t.bytes (line r) 128) c = rowElem e (s.bytes (row c) w) r)) ∧
  (∀ (s : State) (e : MatEntry), s.entries.find? (fun x => decide (x.id = e.id)) = some e →
    let core := coreOfTeam e.team
    (s.entryReady e = true → s.withheld (s.tm e.team).part = false → s.engineOn (s.tm e.team).part = true → e.rows.Nodup →
      (∀ v n, e.op = .fill v n → n ≤ 32 → ∃ t x, exec (.matrixEntryStart e.id) s = .next t ∧ t.slices = s.slices ∧ t.mem = s.mem ∧
        x ∈ t.entries ∧ x.id = e.id ∧ x.started = true ∧ ∀ i ∈ e.rows, ∀ c, c < n → afind x.result (32 * i + c) = some v) ∧
      (∀ scaled da db ta tb ua ub, e.op = .mma scaled da db ta tb ua ub → (db.extractLsb' 4 6).toNat ≤ 32 →
        ∃ t x, exec (.matrixEntryStart e.id) s = .next t ∧ t.slices = s.slices ∧ x ∈ t.entries ∧ x.id = e.id ∧ x.started = true ∧
          ∀ i ∈ e.rows, ∀ c, c < (db.extractLsb' 4 6).toNat → afind x.result (32 * i + c) = some (BitVec.ofNat 32
            (mxRows da db scaled (s.readTile core ta da ua) (s.readTile core tb db ub) i c).sum))) ∧
    (e.started = true → (∀ x ∈ s.entries, coreOfTeam x.team = core → e.seq ≤ x.seq) →
      (∀ b ∈ s.batches, e.id ∉ b.members ∧ b.members ≠ []) → (e.result.map Prod.fst).Nodup → e.dead = [] → e.acc.toNat % 4 = 0 →
      let place (c : Nat) : Nat := coreKey core (e.acc.toNat + 128 * (c / 32) + 4 * (c % 32))
      (∀ c ∈ e.result, clean s (place c.1) 4) →
      ∃ t, exec (.matrixWritebackEnd e.id) s = .next t ∧ (∀ x ∈ t.entries, x.id ≠ e.id) ∧ t.slices = s.slices ∧
        (∀ c ∈ e.result, t.word (place c.1) =
          match e.op with | .fill _ _ => c.2 | _ => mxAccumulate (s.word (place c.1)) c.2) ∧
        ∀ q, (∀ c ∈ e.result, ¬ (place c.1 ≤ q ∧ q < place c.1 + 4)) → t.byte q = s.byte q) ∧
    (e.started = true → (∀ x ∈ s.entries, coreOfTeam x.team = core → e.seq ≤ x.seq) → ∀ b, s.batches = [b] → b.members = [e.id] →
      ∃ t, exec (.matrixWritebackEnd e.id) s = .next t ∧ t.batches = [] ∧
        tokenIs s t b.team b.token (fun c => ended c 0))) ∧
  (∀ (s : State) (core : Nat) (j : ShadowJob), (s.co core).shadow = some j → ∃ t, exec (.shadowCheck core) s = .next t ∧
    (t.co core).shadow = none ∧ (t.co core).skip = 0 ∧ t.slices = s.slices ∧ t.entries = s.entries) ∧
  (∀ (s : State) (g : GangOp) (pos core : Nat), s.gangOps.find? (fun x => decide (x.id = g.id)) = some g →
    g.partners.find? (fun p => decide (p.1 = pos)) = some (pos, core) → g.sent = true → afind g.status pos = none →
    (∀ e ∈ s.entries, ∀ sc da db ta ua, e.op ≠ .gangPart g.id pos sc da db ta ua) →
    ((s.co core).win = none → ∃ t x, exec (.mmagDelivery g.id pos) s = .next t ∧ t.slices = s.slices ∧ x ∈ t.gangOps ∧ x.id = g.id ∧
      afind x.status pos = some 3 ∧ t.entries = s.entries) ∧
    (∀ w, (s.co core).win = some w → w.job ≠ (s.tm g.team).job → ∃ t x, exec (.mmagDelivery g.id pos) s = .next t ∧ x ∈ t.gangOps ∧
      x.id = g.id ∧ afind x.status pos = some 3 ∧ t.entries = s.entries) ∧
    (∀ w, (s.co core).win = some w → w.job = (s.tm g.team).job → (s.tm w.team).part = (s.tm g.team).part →
      (∀ c, (s.tm w.team).partCheck w g = .error c → ∃ t x, exec (.mmagDelivery g.id pos) s = .next t ∧ x ∈ t.gangOps ∧
        x.id = g.id ∧ afind x.status pos = some 2 ∧ t.entries = s.entries) ∧
      (∀ rows, (s.tm w.team).partCheck w g = .ok rows → s.fifoFull core = false →
        ∃ t e, exec (.mmagDelivery g.id pos) s = .next t ∧ t.entries = s.entries ++ [e] ∧ e.team = w.team ∧ e.acc = w.acc ∧
          e.rows = rows ∧ t.mem = s.mem ∧ t.slices = s.slices ∧
          (rows = [] → ∃ x ∈ t.gangOps, x.id = g.id ∧ afind x.status pos = some 1)))) ∧
  (∀ (s : State) (g : GangOp), s.gangOps.find? (fun x => decide (x.id = g.id)) = some g → (∀ e ∈ s.entries, e.id ≠ g.entry) →
    (∀ p ∈ g.partners, (afind g.status p.1).isSome) →
    let bad := g.status.any (fun e => decide (e.2 = 2 ∨ e.2 = 3))
    let key := coreKey (coreOfTeam g.team) g.bar.toNat
    ∃ t, exec (.mmagComplete g.id) s = .next t ∧ (∀ x ∈ t.gangOps, x.id ≠ g.id) ∧ t.slices = s.slices ∧
      tokenIs s t g.team g.token (fun c => ended c (if bad then 5 else 0)) ∧
      (g.partners = [] → g.status = [] → clean s key 16 → keptAt s key → storesOnly s t key 16 ∧
        barrierAt t key = { (barrierAt s key).update 1 0 false with pstat := if g.nolocal then 0 else 1 })) ∧
  (∀ (s : State) (k : Nat) (d : BitVec 6), (s.sl k).wait = some (.mmagokClose d k) → s.partsOpen (s.sl k).team = false →
    s.lives k = true → coreOfSlice k = coreOfTeam (s.sl k).team → s.ownWindow (coreOfSlice k) (s.sl k).team = true →
    ∃ t, exec (.mmagokCloseEnd k) s = .next t ∧ (t.co (coreOfSlice k)).win = none ∧ t.mem = s.mem ∧
      ∀ q ∈ (s.tm (s.sl k).team).slices, s.present q → (s.sl q).wait = some (.mmagokClose d k) →
        (t.sl q).wait = none ∧ (t.sl q).pc = (s.sl q).pc + 4 ∧ (t.sl q).sRd d.toNat = ⟨1, false, false⟩)

/-! ## Waits that end, and what happens between instructions -/

/-- R171, R175, R176, R178, R259, R260: a stall ends when its counters, tokens, fence, barrier or team is ready: the slice goes on after
its instruction, from YIELDT at the label, and its registers are as before. Memory is unchanged. -/
def Obligations.WaitEnds : Prop :=
  (∀ (s : State) (k : Nat), s.lives k = true →
    let x := s.sl k
    (∀ fl fs cp tl, x.wait = some (.waitc fl fs cp tl) → withinLimits x fl fs cp tl → ∃ t, exec (.waitcEnd k) s = .next t ∧
      goesOnAlone s t k ∧ t.mem = s.mem) ∧
    (∀ mask, x.wait = some (.waitt mask) → tokensDone s x.team mask → ∃ t, exec (.waittEnd k) s = .next t ∧
      goesOnAlone s t k ∧ t.mem = s.mem) ∧
    (∀ mask label, x.wait = some (.yieldt mask label) → tokensDone s x.team mask → ∃ t, exec (.yieldtResume k) s = .next t ∧
      t.mem = s.mem ∧ ∀ q ∈ s.members k, (s.sl q).wait = some (.yieldt mask label) →
        t.sl q = { s.sl q with wait := none, pc := label }) ∧
    (∀ kind, x.wait = some (.fence kind) → Released s k → ∃ t, exec (.fenceComplete k) s = .next t ∧ goesOnAlone s t k ∧
      t.mem = s.mem ∧ (t.sl k).acqHold = if kind.getLsbD 0 then false else x.acqHold) ∧
    (∀ a parity scope e n b, x.wait = some (.barwait a parity scope (some e) n b) → (barrierAt s (spKey k a)).phase ≠ parity →
      ∃ t, exec (.barwaitEnd k) s = .next t ∧ goesOnAlone s t k ∧ t.mem = s.mem ∧ (t.sl k).acqHold = decide (x.fl ≠ 0) ∧
        ∀ y ∈ t.wft, ¬ (y.kind = 0 ∧ y.slice = k ∧ y.team = x.team))) ∧
  (∀ (s : State) (tm : Nat), s.teamRuns tm = true → (s.tm tm).slices.Nodup → (∃ k ∈ (s.tm tm).slices, (s.sl k).done = false) →
    (∀ k ∈ (s.tm tm).slices, (s.sl k).done = false → k ∈ (s.tm tm).arrived) →
    ∃ t, exec (.tsyncComplete tm) s = .next t ∧ t.mem = s.mem ∧ (t.tm tm).arrived = [] ∧
      ∀ k ∈ (s.tm tm).slices, s.present k → ∀ sc id n b, (s.sl k).wait = some (.tsync sc (some id) n b) →
        (t.sl k).wait = none ∧ (t.sl k).pc = (s.sl k).pc + 4 ∧ (t.sl k).acqHold = decide ((s.sl k).fl ≠ 0))

/-- R33, R143, R146, R147, R219: compaction makes gangs of eight of parted candidates at one address; a regang timer that expires lets
the waiting slices go on; a due fairness switch goes to the switch target and restarts the count; a condition recorded for a slice is
taken as a trap at its boundary, with those of its gang's other slices while permits are left, and again after a back-off, which keeps the REGANG wait that the slice stood in. -/
def Obligations.BetweenInstructions : Prop :=
  (∀ (s : State) (tm : Nat) (pc : Word), let cs := s.candidates tm pc
    cs.Nodup → (∀ k ∈ cs, s.present k) → 2 ≤ ((cs.map (fun k => (s.sl k).gang)).dedup).length → s.teamRuns tm = true →
    ∃ t, exec (.gangCompaction tm pc) s = .next t ∧ t = { s with slices := t.slices } ∧
      (∀ k, t.sl k = { (s.sl k).ganged (t.sl k) with granule := if k ∈ cs then none else (s.sl k).granule }) ∧
      ∀ n k, cs[n]? = some k → some (t.sl k).gang = cs[n / 8 * 8]? ∧ (t.sl k).ahead = false) ∧
  (∀ (s : State) (tm g due : Nat), afind (s.tm tm).rgDue g = some due → due ≤ s.cycle → s.teamRuns tm = true →
    (∃ k ∈ s.launchGang tm g, (s.sl k).wait = some .regang) → ∃ t, exec (.regangTimerExpiry tm g) s = .next t ∧ t.mem = s.mem ∧
      afind (t.tm tm).rgDue g = none ∧ ∀ k ∈ s.launchGang tm g, s.present k →
        ((s.sl k).wait = some .regang → (t.sl k).wait = none ∧ (t.sl k).pc = (s.sl k).pc ∧
          ∀ j ∈ s.launchGang tm g, s.present j → (s.sl j).wait = some .regang → (s.sl j).pc = (s.sl k).pc →
            (t.sl j).gang = (t.sl k).gang) ∧
        ((s.sl k).wait ≠ some .regang → t.sl k = (s.sl k).ganged (t.sl k))) ∧
  (∀ (s : State) (k : Nat), s.present k → s.fairDue k = true → (s.sl k).done = false → (s.sl k).wait = none →
    s.teamRuns (s.sl k).team = true → (∀ j ∈ s.members k, (s.sl j).midway = false) →
    ∃ t, exec (.fairnessSwitch k) s = .next t ∧ s.changesOnly t (k :: s.members k) ∧ (t.sl k).fairCount = 0 ∧
      match switchAt (s.sl k).exited (s.sl k).stack.reverse with
      | none => (t.sl k).pc = (s.sl k).pc ∧ (t.sl k).stack = (s.sl k).stack ∧ (t.sl k).active = (s.sl k).active
      | some n => ∃ e, (s.sl k).stack.reverse[n]? = some e ∧ (t.sl k).pc = e.addr ++ 0#2 ∧
          (t.sl k).active = liveMask (s.sl k).exited e ∧
          (t.sl k).stack.reverse = (s.sl k).stack.reverse.set n (parked (s.sl k).pc (s.sl k).active)) ∧
  (∀ (s : State) (k : Nat) (i : TrapInfo) (r : List TrapInfo), CanTrap s k → (s.sl k).boundary = i :: r → (s.sl k).done = false →
    s.permitsUsed (coreOfSlice k) + ((s.members k).filter (fun j => (s.sl j).atBoundary)).length ≤ 8 →
    s.teamRuns (s.sl k).team = true → ∃ t, exec (.boundaryTrap k) s = .next t ∧ (t.sl k).boundary = r ∧
      trapTaken s t k i.cause i.detail i.lanes i.info0 i.info1 (s.sl k).pc) ∧
  (∀ (s : State) (k till : Nat) (held : Option TrapInfo) (rg : Option Nat), s.present k →
    (s.sl k).wait = some (.backoff till held rg) → till ≤ s.cycle →
    s.teamRuns (s.sl k).team = true → ∃ t, exec (.trapBackoffExpiry k) s = .next t ∧
      (held = none → t.mem = s.mem ∧ othersKept s t [k] ∧ t.sl k = { s.sl k with wait := if rg.isSome then some .regang else none }) ∧
      (∀ i, held = some i → (s.sl k).frame = none → 8 ≤ s.permitsUsed (coreOfSlice k) →
        (∃ left, (t.sl k).wait = some (.backoff (s.cycle + (s.sl k).backoffLen) (some { i with pc := (s.sl k).pc }) left) ∧
          left.isSome = rg.isSome) ∧ (t.sl k).pc = (s.sl k).pc) ∧
      (∀ i, held = some i → (s.sl k).frame = none → s.permitsUsed (coreOfSlice k) < 8 → (s.tm (s.sl k).team).trapvec ≠ 0 →
        trapTaken s t k i.cause i.detail i.lanes i.info0 i.info1 (s.sl k).pc))

/-- R308, R313, R314, R316, R317, R320, R322, R324, R388: a waiting gang whose value or lock is looked at again ends its wait with the
word, or with the lock taken, or stays; one whose time is over ends with TIMEOUT; a walk that was cut is counted, one that found
nothing is dropped, and a cycle traps DEADLOCK; the watchdog raises its condition and its count restarts; system software sets the
spill area and clears WFTSTAT. -/
def Obligations.KeyEvents : Prop :=
  (∀ (s u : State) (k : Nat) (w : KeyWait) (m : Nat), s.present k → s.lives k = true → (s.sl k).wait = some (.key w k) →
    (s.tm (s.sl k).team).slices.Nodup → waitPlace s k w = some (m, u) → clean u m (if w.lock then 8 else 4) →
    (w.lock = true → w.loc = true ∨ keptAt u m) →
    let i : Option Instr := if w.entry = none then (if w.next ≤ s.cycle then some (.unregisteredWaitRecheck k) else none)
      else some (if w.lock then .lockacqRetry k else .waitvReevaluate k)
    ∀ j, i = some j →
    (w.lock = false → let word : Word := u.byte (m + 3) ++ (u.byte (m + 2) ++ (u.byte (m + 1) ++ u.byte m))
      ∃ t, exec j s = .next t ∧ t.mem = u.mem ∧
        (valueMet w.cond word w.comparand = true → waitAnswered s t k w.sd.toNat word ∧
          ∀ q, inWait s k q → (t.sl q).acqHold = decide ((s.sl q).fl ≠ 0)) ∧
        (valueMet w.cond word w.comparand = false → ∀ q, inWait s k q → (t.sl q).pc = (s.sl q).pc ∧
          ∀ v, (s.sl q).wait = some (.key v k) → ∃ next back, (t.sl q).wait = some (.key
            { v with last := word, next := next, backoff := back } k))) ∧
    (w.lock = true → let old := leNat (u.bytes m 8)
      let tm := (s.sl k).team
      ∃ t, exec j s = .next t ∧
        (old ≠ 0 → t.mem = u.mem ∧ ∀ q, inWait s k q → (t.sl q).pc = (s.sl q).pc ∧ ∃ v, (t.sl q).wait = some (.key v k)) ∧
        (old = 0 → ∀ die obj, s.homeOf (s.tm tm).part w.key = .here die obj → homeHere obj = .here die obj →
          (Unspilled s (s.tm tm).part obj → storesOnly u t m 8 ∧
            t.dword m = 1#1 ++ (0#11 ++ (s.podcfg.extractLsb' 0 20 ++ s.holderWord tm))) ∧
          ((s.regOf tm obj 1).isSome ∨ (s.makeRoom die (s.tm tm).part).isSome → waitAnswered s t k w.sd.toNat 1)))) ∧
  (∀ (s : State) (k : Nat) (w : KeyWait), s.present k → s.lives k = true → (s.sl k).wait = some (.key w k) →
    (s.tm (s.sl k).team).slices.Nodup → w.till ≤ s.ns →
    (w.entry = none ∨ s.homeOf (s.tm (s.sl k).team).part w.key = .away ∨ ∃ die obj,
      s.homeOf (s.tm (s.sl k).team).part w.key = .here die obj ∧
        ∃ h ∈ s.holders (s.tm (s.sl k).team).part (s.tm (s.sl k).team).job obj, 2 ^ 52 ≤ h) →
    ∃ t, exec (.remoteWaitTimeout k) s = .next t ∧ t.mem = s.mem ∧ (t.sl k).farstat.getLsbD 0 = true ∧
      waitAnswered s t k w.sd.toNat (if w.lock then 4 else w.last)) ∧
  (∀ (s : State) (k : Nat) (w : Walk), s.walks.find? (fun x => decide (x.slice = k)) = some w → s.teamRuns (s.sl k).team = true → w.path = [] →
    (w.cut = true → ∃ t, exec (.wftWalk k) s = .next t ∧ t.slices = s.slices ∧ t.mem = s.mem ∧ (∀ x ∈ t.walks, x.slice ≠ k) ∧
      (t.di w.die).wftstat.extractLsb' 32 16 = (let c := (s.di w.die).wftstat.extractLsb' 32 16; if c = 0xFFFF then c else c + 1)) ∧
    (w.cut = false → w.cycle = [] → ∃ t, exec (.wftWalk k) s = .next t ∧ t = { s with walks := t.walks } ∧
      ∀ x ∈ t.walks, x.slice ≠ k) ∧
    (∀ mask, w.cut = false → w.cycle ≠ [] → (s.sl k).wait = some (.waitt mask) → s.sliceObjs (s.sl k).team (s.sl k) ≠ [] →
      s.present k → (s.sl k).frame = none → s.permitsUsed (coreOfSlice k) < 8 → (s.tm (s.sl k).team).trapvec ≠ 0 →
      ∃ t, exec (.wftWalk k) s = .next t ∧
        trapTaken s t k 0x0B 0 0xF (BitVec.ofNat 32 (min w.cycle.length 8)) (BitVec.ofNat 32 w.cycle.length) (s.sl k).pc)) ∧
  (∀ (s : State) (die tm : Nat), ∃ t, exec (.wftProbe die tm) s = .next t ∧ t.slices = s.slices ∧ (onDies s → t.mem = s.mem ∧
    t.wft.map (fun e => (e.id, e.team, e.obj, e.kind, e.count)) = s.wft.map (fun e => (e.id, e.team, e.obj, e.kind, e.count)))) ∧
  (∀ (s : State) (die part : Nat) (value : DWord), ∃ t, exec (.wftspillWrite die part value) s = .next t ∧
    ((s.pt part).job ≠ none → t = s) ∧ ((s.pt part).job = none → t = { s with dies := t.dies } ∧ (∀ d, d ≠ die → t.di d = s.di d) ∧
      aget 0 (t.di die).wftspill part = value &&& 0xFFFFF81FFFFFF000)) ∧
  (∀ (s : State) (die : Nat), ∃ t, exec (.wftstatWrite die) s = .next t ∧ t = { s with dies := t.dies } ∧
    ∀ d, t.di d = if d = die then { s.di d with wftstat := 0 } else s.di d) ∧
  (∀ (s : State) (tm n : Nat), (s.pt (s.tm tm).part).wdThreshold = some n → (afind s.teams tm).isSome → n ≤ (s.tm tm).wdCount →
    s.teamRuns tm = true → ∃ t, exec (.watchdog tm) s = .next t ∧ (t.tm tm).wdCount = 0 ∧
      ∀ k, ((s.tm tm).slices.filter (fun k => !(s.sl k).done)).find? (fun k => !(s.sl k).trapMode) = some k → s.present k →
        t.mem = s.mem ∧ othersKept s t [k] ∧ t.sl k = { s.sl k with boundary := (s.sl k).boundary ++
          [⟨0x0E, 0, 0xF, BitVec.ofNat 32 n, BitVec.ofNat 32 (n / 2 ^ 32), 0⟩] })

/-! ## The distributor -/

/-- R332, R333, R335, R338, R340 to R343, R387: a launch is rejected, refused as cyclic or accepted; GO of a launch slot hands its
header over; the first waiting team that fits goes to the core that the ring and the costs choose; a finished team leaves and may
complete its grid; a quantum boundary sets the next one and swaps victims out; a gated core wakes for a team; an idle core is gated
and keeps nothing. -/
def Obligations.DistributorEvents : Prop :=
  (∀ (s : State) (l : Launch), s.launches.find? (fun x => decide (x.id = l.id)) = some l →
    let rejected := match l.header with
      | none => true
      | some h => s.illFormed l.part h || (h.urgent && match l.owner with | .token _ _ => true | _ => false)
    let cyclic := match l.header with | none => false | some h => h.cyclic
    ∃ t, exec (.launchSettle l.id) s = .next t ∧ (∀ x, x ∈ t.launches ↔ x ∈ s.launches ∧ x.id ≠ l.id) ∧ t.mem = s.mem ∧
      t.slices = s.slices ∧
      (rejected = true → t.grids = s.grids ∧ launchEnded s t l 4) ∧
      (rejected = false → cyclic = true → t.grids = s.grids ∧ launchEnded s t l 3) ∧
      (rejected = false → cyclic = false → ∀ h, l.header = some h → t.teams = s.teams ∧
        t.grids = s.grids ++ [⟨l.id, l.part, l.number, l.owner, h, 0, [], [], none⟩] ∧
        (h.urgent = true → (t.pt l.part).swstat.getLsbD 2 = true))) ∧
  (∀ (s : State) (p : Nat), ∃ t, exec (.lsctlGo p) s = .next t ∧
    ((s.pt p).lsstat.getLsbD 0 = true → t = s) ∧
    ((s.pt p).lsstat.getLsbD 0 = false → (s.pt p).job = none → onlyPart s t p (fun x => { x with lsstat := slotStatus 4 true true false })) ∧
    ∀ j, (s.pt p).lsstat.getLsbD 0 = false → (s.pt p).job = some j →
      partIs s t p (fun x => { x with lsstat := slotStatus 0 false false true, job := some { j with gridCtr := (j.gridCtr + 1) % 2 ^ 32 } }) ∧
      t = { s with parts := t.parts, nextId := t.nextId, launches := t.launches } ∧
      ∃ l, t.launches = s.launches ++ [l] ∧ l.part = p ∧ l.number = j.gridCtr ∧ l.owner = .slot ∧
        l.header = some (Header.ofBytes ((List.range 128).map (fun i => aget 0 (s.pt p).slot i)))) ∧
  (∀ (s : State) (p : Nat) (g : Grid) (n : Nat) (before after : List Waiting) (i core : Nat), s.partRuns p = true →
    (s.pt p).job.isSome = true → s.waiting p = before ++ .fresh g n :: after →
    (∀ w ∈ before, s.chooseCore p w.header w.permits (s.clustersFor p w.header) = none) →
    chosen s (eligibleFrom s p g.header) i core → (s.cl (clusterOfCore core)).reconnect = none → ∃ t, exec (.teamPlace p) s = .next t ∧ teamStarted s t p g n core ∧
      (t.pt p).ptr = ((eligibleFrom s p g.header).headD 0 + 1) % 4096 ∧ ∃ x ∈ t.grids, x.id = g.id ∧ n ∈ x.started) ∧
  (∀ (s : State) (tm : Nat), Finished s tm → ∃ t, exec (.teamRetire tm) s = .next t ∧ afind t.teams tm = none ∧
    (∀ k ∈ (s.tm tm).slices, afind t.slices k = none) ∧ (∀ r ∈ t.recvs, r.team ≠ tm) ∧ (∀ e ∈ t.wft, e.team ≠ tm) ∧
    ∀ g, s.grids.find? (fun x => decide (x.part = (s.tm tm).part ∧ x.number = (s.tm tm).grid)) = some g →
      if ∀ n, n < g.header.count → n = (s.tm tm).index ∨ n < g.base ∨ n ∈ g.retired then
        (∀ x ∈ t.grids, x.id ≠ g.id) ∧ match g.owner with
          | .token u j => u < 2 ^ 24 → u ≠ tm → tokenIs s t u j (fun c => ended c 0)
          | _ => (t.pt g.part).lsstat = slotStatus 0 false true false
      else ∃ x ∈ t.grids, x.id = g.id ∧ ((s.tm tm).index < x.base ∨ (s.tm tm).index ∈ x.retired)) ∧
  (∀ (s : State) (p : Nat), s.partRuns p = true → (s.pt p).job.isSome = true → (s.pt p).nextQuantum.toNat ≤ s.ns →
    let q := max 100 (min 100000 ((s.pt p).progq.extractLsb' 0 24).toNat)
    let u := s.modPt p (fun x => { x with nextQuantum := BitVec.ofNat 64 (x.nextQuantum.toNat + 1000 * q) })
    (∀ e ∈ u.teams, (u.tm e.1).part = p → (u.tm e.1).halting = false ∧ u.canRetire e.1 = false) →
    (u.waiting p = [] → ∃ t, exec (.quantumBoundary p) s = .next t ∧
      onlyPart s t p (fun x => { x with nextQuantum := BitVec.ofNat 64 (x.nextQuantum.toNat + 1000 * q) })) ∧
    ∀ w core v t r, u.waiting p = [w] → u.chooseCore p w.header w.permits (u.clustersFor p w.header) = none → u.victimCore p w = some (core, [v]) →
      let x := u.swapOut v false
      (x.saved.filter (fun y => decide (u.nextId ≤ y.id))) = [r] → x.tryPlace p w (x.clustersFor p w.header) = some t →
      (∀ y ∈ t.waiting p, y = .back r) → exec (.quantumBoundary p) s = .next t) ∧
  (∀ (s : State) (core : Nat), s.teamsOn core ≠ [] → (s.cl (clusterOfCore core)).reconnect = none →
    ∃ t, exec (.coreWake core) s = .next t ∧ t = { s with cores := t.cores, clusters := t.clusters } ∧
      coreIs s t core (fun c => { c with gated := false }) ∧ clusterIs s t (clusterOfCore core) (fun c => { c with gated := false })) ∧
  (∀ (s : State) (core n : Nat), s.idleTimer (clusterOfCore core) = some n → (s.co core).gated = false → s.teamsOn core = [] →
    (s.co core).idleSince.toNat + n ≤ s.ns → ∃ t, exec (.idleGating false core) s = .next t ∧
      t = { s with cores := t.cores, mem := t.mem, poisoned := t.poisoned } ∧
      coreIs s t core (fun c => { Core.reset with gated := true, idleSince := c.idleSince, therm := c.therm, droop := c.droop }) ∧
      ∀ key, (ofCore core key → t.byte key = 0) ∧ (¬ ofCore core key → t.byte key = s.byte key)) ∧
  (∀ (s : State) (cluster n : Nat), s.idleTimer cluster = some n → (s.cl cluster).gated = false →
    (∀ i, i < 256 → (s.co (256 * cluster + i)).gated = true) → (∀ e ∈ s.teams, clusterOfCore (coreOfTeam e.1) ≠ cluster) →
    (∀ c ∈ s.copies, c.cluster ≠ cluster) →
    (∀ g ∈ s.gangOps, clusterOfCore (coreOfTeam g.team) ≠ cluster) → (∀ f ∈ s.fars, clusterOfCore (coreOfSlice f.slice) ≠ cluster) →
    ∃ t, exec (.idleGating true cluster) s = .next t ∧ t = { s with clusters := t.clusters } ∧
      clusterIs s t cluster (fun c => { c with gated := true }))

/-! ## Time, the lease and the timetable -/

/-- R350 to R352, R354, R355: a PTP exchange sets TIMESTAT and holds the increment within 200 ppm of nominal; the count is stepped
only without a job; the clock turn adds the increment to the count and, with what R343, R356, R358, R375, R380 and R386 tie to global time,
calls the refills and meter updates of a us, the requests and starts that are due, the ends of urgent windows and the quantum
boundaries, and advances each watchdog (R388); holdover; leases accepted, missed, decided and sent; timetable entries that arrive or are placed locally, with
the first code of the table that applies. The model's choice (log entry 16): the code goes to the sender through hostRead, the lower port is the parent's of two with
like data sets, lease messages have the layout of leaseSent, and one of epoch 0 announces. The model's reading (log entry 34): TTEPOCH rises also by
an entry that a later check rejects. -/
def Obligations.TimeEvents : Prop :=
  (∀ (s : State) (m : PtpMsg), ∃ t, exec (.ptpMessage m) s = .next t ∧ t.mem = s.mem ∧ t.slices = s.slices ∧
    (s.ptpPort m.port = false ∨ m.domain ≠ s.ptpDomain ∨ s.rot.freeRun = true → t = s) ∧
    (s.ptpPort m.port = true → m.domain = s.ptpDomain → s.rot.freeRun = false → let n := m.port.toNat
      let x := s.ptp n
      (∀ set, m.kind = .announce set → ptpIs s t n { x with heard := some (set, s.ns) }) ∧
      (∀ k o c, m.kind = .sync k true o c → ptpIs s t n { x with sync := some (k, s.ns, c) }) ∧
      (∀ k o c, m.kind = .sync k false o c → synced s t m.port (s.ns - o - c)) ∧
      (∀ k o c t2 c1, m.kind = .followUp k o c → x.sync = some (k, t2, c1) → synced s t m.port (t2 - o - (c1 + c))) ∧
      (∀ k two r c t1, m.kind = .pdelayResp k two r c → x.e2e = false → x.asked = some (k, t1) →
        ptpIs s t n (if two then { x with answer := some (k, s.ns, r, c) }
          else { x with delay := some ((s.ns - t1 - c) / 2), pending := false, asked := none, answer := none })) ∧
      (∀ k t3 c t1 t4 t2 c1, m.kind = .pdelayFollowUp k t3 c → x.asked = some (k, t1) → x.answer = some (k, t4, t2, c1) →
        ptpIs s t n { x with delay := some ((t4 - t1 - (t3 - t2) - c1 - c) / 2), pending := false, asked := none, answer := none }) ∧
      (∀ k r c t3, m.kind = .delayResp k r c → x.e2e = true → x.asked = some (k, t3) →
        ptpIs s t n { x with delay := some ((x.behind + (r - t3 - c)) / 2), pending := false, asked := none, answer := none }) ∧
      (∀ type, m.kind = .send type → t.timestat = s.timestat ∧ t.increment = s.increment ∧
        (type = 0 → ¬ parentAt s n → n < 16 → x.twoStep = false →
          let peer : BitVec 20 := s.selfPeer.extractLsb' 4 16 ++ BitVec.ofNat 4 n
          let i : StreamId := ⟨s.selfPeer, 0, peer, 0, 0⟩
          peer ≠ s.selfPeer → (t.ptp n).sequence = x.sequence + 1 ∧ (t.txOf i).nextSeq = (s.txOf i).nextSeq + 1 ∧
            ∃ q ∈ (t.txOf i).unacked, q.seq = (s.txOf i).nextSeq ∧ q.cls = 0 ∧ q.payload.drop 34 = ptpTime s.ns)))) ∧
  (∀ (s : State) (time : DWord), ∃ t, exec (.timeStep time) s = .next t ∧
    ((∃ p, p < 16 ∧ (s.pt p).job ≠ none) → t = s) ∧
    ((∀ p, p < 16 → (s.pt p).job = none) → t = { s with time := t.time, timestat := t.timestat, agenda := t.agenda } ∧
      t.ns = time.toNat ∧ withBit s.timestat t.timestat 2 true ∧
      ∃ es : List TtEntry, t.agenda = s.agenda ++ es.map (fun e => .start (e.genp.extractLsb' 12 4).toNat) ∧
        es.Perm (s.timetable.filter (fun e => decide (e.start.toNat ≤ time.toNat))) ∧
        es.Pairwise (fun a b => a.start.toNat ≤ b.start.toNat))) ∧
  (∀ s : State, ∃ t, exec .timestatWrite s = .next t ∧ t = { s with timestat := t.timestat } ∧ withBit s.timestat t.timestat 2 false) ∧
  (∀ (s : State) (drift : Int), drift.natAbs ≤ 50 → s.rot.freeRun = false → ∃ t, exec (.holdover drift) s = .next t ∧
    t = { s with timestat := t.timestat, increment := t.increment } ∧ t.timestat.extractLsb' 0 2 = 3 ∧
    t.timestat.extractLsb' 16 8 = 0xFF ∧ t.timestat.extractLsb' 2 14 = s.timestat.extractLsb' 2 14 ∧
    t.timestat.extractLsb' 24 40 = s.timestat.extractLsb' 24 40 ∧ t.increment = 81920) ∧
  (∀ (s : State) (id epoch : Word) (sent : DWord), s.rot.recovery = false → ∃ t, exec (.leaseMessage id ⟨epoch, sent⟩) s = .next t ∧
    t = { s with lease := t.lease } ∧
    (leaseAccepted s id epoch sent = true → t.lease.holder = some (id, epoch) ∧ t.lease.epoch = epoch ∧
      t.lease.last = min sent.toNat s.ns ∧ t.lease.announced = none) ∧
    (leaseAccepted s id epoch sent = false → t.lease = { s.lease with heard := t.lease.heard, epoch := t.lease.epoch } ∧
      t.lease.epoch.toNat = max s.lease.epoch.toNat epoch.toNat ∧
      (s.lease.announced.isSome = true → t.lease.heard = id :: s.lease.heard))) ∧
  (∀ s : State, s.rot.recovery = false → s.lease.announced = none → s.lease.last + 100000000 ≤ s.ns → ∃ t, exec .leaseTimeout s = .next t ∧
    t.lease = { s.lease with holder := none, announced := some s.ns, heard := [] } ∧ leaseSent s t 0 ∧ t.mem = s.mem ∧
    t.slices = s.slices) ∧
  (∀ (s : State) (at_ : Nat), s.rot.recovery = false → s.lease.announced = some at_ → at_ + 10000000 ≤ s.ns → ∃ t, exec .electionDecide s = .next t ∧
    t = { s with lease := t.lease } ∧ t.lease.announced = none ∧
    ((∀ h ∈ s.lease.heard, s.lease.ident.toNat ≤ h.toNat) → t.lease.holder = some (s.lease.ident, s.lease.epoch + 1) ∧
      t.lease.epoch = s.lease.epoch + 1 ∧ t.lease.last = s.ns) ∧
    ((∃ h ∈ s.lease.heard, h.toNat < s.lease.ident.toNat) → t.lease.holder = s.lease.holder ∧ t.lease.epoch = s.lease.epoch)) ∧
  (∀ (s : State) (e : Word), s.rot.recovery = false → s.lease.holder = some (s.lease.ident, e) → s.ns < s.lease.last + 100000000 →
    ∃ t, exec .leaseSend s = .next t ∧ t.lease = { s.lease with last := s.ns } ∧ leaseSent s t e ∧ t.mem = s.mem ∧
      t.slices = s.slices) ∧
  (∀ (s : State) (e : TtEntry), s.rot.recovery = false → ∃ t, exec (.timetableEntryArrival e) s = .next t ∧
    t = { s with timetable := t.timetable, ttepoch := t.ttepoch, hostRead := t.hostRead } ∧
    (t.hostRead.toNat, t.ttepoch, t.timetable) = arrival s e false) ∧
  (∀ (s : State) (p : Nat), let w := (List.range 32).map (fun i => aget 0 (s.pt p).window i)
    let e : TtEntry := ⟨fieldD w 0, (fieldW w 8).extractLsb' 0 16, (fieldW w 8).extractLsb' 16 16, (fieldW w 0xC).extractLsb' 0 16,
      (fieldW w 0xC).extractLsb' 16 16, fieldW w 0x10, fieldW w 0x14, fieldW w 0x18, fieldW w 0x1C⟩
    ∃ t, exec (.ltctlGo p) s = .next t ∧ t = { s with timetable := t.timetable, parts := t.parts, agenda := t.agenda } ∧
      t.timetable = (arrival s e true).2.2 ∧
      partIs s t p (fun x => { x with ltstat := BitVec.ofNat 32 (0x100 + (arrival s e true).1) })) ∧
  ∀ (s : State) (rest : List Turn), s.agenda = .tick :: rest → ∃ t new, step s = .next t ∧
    t = { s with
      agenda := rest ++ new, freeNo := s.freeNo + 1, cycle := s.cycle + 1, time := s.time + s.increment
      slices := t.slices, teams := t.teams, timestat := t.timestat } ∧
    (∀ k, (t.sl k).pc = (s.sl k).pc ∧ (t.sl k).s = (s.sl k).s ∧ (t.sl k).active = (s.sl k).active ∧ (t.sl k).done = (s.sl k).done) ∧
    ((s.teams.map Prod.fst).Pairwise (· < ·) → ∀ k ∈ s.teams.map Prod.fst,
      (t.tm k).wdCount = (s.tm k).wdCount + if s.wdCounts k then 1 else 0) ∧
    (∀ d, .refill d ∈ new ↔ d < 8 ∧ s.ns / 1000 ≠ t.ns / 1000) ∧
    (∀ p, .meter p ∈ new ↔ p < 16 ∧ (s.pt p).partcfg.getLsbD 63 = true ∧ s.ns / 1000 ≠ t.ns / 1000) ∧
    (∀ p, .start p ∈ new ↔ ∃ e ∈ s.timetable, (e.genp.extractLsb' 12 4).toNat = p ∧ e.start.toNat ≤ t.ns) ∧
    (∀ p j e, p < 16 → (s.pt p).preq = false → (s.pt p).switch = none → (s.pt p).job = some j →
      (s.ttSorted p).find? (fun x => x.mode.getLsbD 2 || x.job != j.job || x.genp.extractLsb' 0 12 != j.gen) = some e →
      (.preq p ∈ new ↔ e.start.toNat ≤ t.ns + e.lead.toNat)) ∧
    (∀ p h, p < 16 → s.partRuns p = true → (s.pt p).urgHalt = some h → h.toNat ≤ t.ns → .urgent p ∈ new) ∧
    ∀ p, .quantum p ∈ new ↔ p < 16 ∧ s.partRuns p = true ∧ (s.pt p).job ≠ none ∧ (s.pt p).nextQuantum.toNat ≤ t.ns

/-! ## Switches between jobs -/

/-- R356, R358, R361 to R364, R369, R373 to R375: PREQ rises at START less LEAD. An entry at its START leaves the store and becomes the
partition's current entry, whose CLUSTERS count from then on (read from R356's words "becomes the partition's current entry" and R353's CLUSTERS, log
entry 45); it halts the current job when it names another or none; to a current job of its own job and generation nothing happens, but that
a job for which PREQ has risen is halted even so, since once PREQ has risen the switch takes place (R358), unless the rise was for an urgent request or
for an entry that still stands. The drain window ends; a save ends with VALID set; the quiesced switch leaves the partition idle, starts the incoming
job or begins its restore; a restore ends with VALID cleared; SWSTAT; urgent requests are refused or accepted, halt the job and return to it. The
model's choice: LSSTAT reads 0 while no job is current (log entry 17), each cluster's save window opens by itself and a save ends by cluster (log entry
42), a second urgent request replaces the first (log entry 43). -/
def Obligations.SwitchEvents : Prop :=
  (∀ (s : State) (p : Nat) (j : Job) (e : TtEntry), (s.pt p).switch = none → (s.pt p).job = some j →
    (s.ttSorted p).find? (fun x => x.mode.getLsbD 2 || x.job != j.job || x.genp.extractLsb' 0 12 != j.gen) = some e →
    e.start.toNat ≤ s.ns + e.lead.toNat → ∃ t, exec (.preqRise p) s = .next t ∧ onlyPart s t p (fun x => { x with preq := true })) ∧
  (∀ (s : State) (p : Nat) (e : TtEntry) (rest : List TtEntry), s.partRuns p = true → s.ttSorted p = e :: rest → e.start.toNat ≤ s.ns →
    let idle := e.mode.getLsbD 2
    let target := if idle then none else some (e.job, e.genp.extractLsb' 0 12, e.mode.getLsbD 0)
    ∃ t, exec (.timetableStart p) s = .next t ∧ t.timetable = s.timetable.erase e ∧ (t.pt p).grant = e.clusters ∧
      (∀ j, (s.pt p).job = some j → idle = false → e.job = j.job → e.genp.extractLsb' 0 12 = j.gen → (s.pt p).preq = true →
        (s.pt p).urgHalt = none → (∀ x ∈ rest, x.mode.getLsbD 2 = false ∧ x.job = j.job ∧ x.genp.extractLsb' 0 12 = j.gen) →
        halted s t p target false false) ∧
      (∀ j, (s.pt p).job = some j → idle = false → e.job = j.job → e.genp.extractLsb' 0 12 = j.gen → (s.pt p).preq = false →
        onlyPart { s with timetable := t.timetable } t p (fun x => { x with preempted := none, grant := e.clusters })) ∧
      (∀ j, (s.pt p).job = some j → (idle = true ∨ e.job ≠ j.job ∨ e.genp.extractLsb' 0 12 ≠ j.gen) →
        halted s t p target false false) ∧
      ((s.pt p).job = none → idle = true → (t.pt p).job = none ∧ (t.pt p).switch = none ∧ (t.pt p).swstat.extractLsb' 8 8 = 1)) ∧
  (∀ (s : State) (p : Nat) (w : Switch), (s.pt p).switch = some w → w.phase = .draining →
    let top := w.haltTime.toNat + 1000 * min 10 (w.swctl.extractLsb' 8 8).toNat
    let ends (c : Nat) : Prop := c < 16 ∧ s.holdsCluster p c = true ∧
      (top ≤ s.ns ∨ ∀ tm ∈ w.drain, clusterOfCore (coreOfTeam tm) = c → s.drainOver tm = true)
    ∃ t o, exec (.drainWindowEnd p) s = .next t ∧ onlyPart s t p (fun x => { x with switch := some { w with
      phase := if (List.range 16).all (fun c => !s.holdsCluster p c || (afind o c).isSome) then .saving else .draining, opened := o } }) ∧
      ∀ c, (∀ n, afind w.opened c = some n → afind o c = some n) ∧
        (afind w.opened c = none → ends c → afind o c = some (min s.ns top)) ∧
        (afind w.opened c = none → ¬ ends c → afind o c = none)) ∧
  (∀ (s u : State) (p : Nat) (w : Switch) (j : Job), (s.pt p).switch = some w → w.phase = .saving → (s.pt p).job = some j →
    (∀ e ∈ s.teams, (s.tm e.1).part ≠ p) → (∀ l ∈ s.launches, l.part ≠ p) → (∀ x ∈ s.sends, x.part ≠ p) →
    (∀ r ∈ s.recvs, r.part ≠ p) → (∀ c ∈ s.copies, (s.tm c.team).part ≠ p) →
    w.heavy = false → (w.opened = [] ∨ ∃ e ∈ w.opened, s.ns ≤ e.2 + 1000 * max 10 (min 70 (w.swctl.extractLsb' 0 8).toNat)) →
    placeKey j.save % 4 = 0 →
    s.writeImage p (placeKey j.save) w.haltTime w.urgent false = some u →
    ∃ t, exec (.saveComplete p) s = .next t ∧ (t.pt p).job = none ∧ (t.pt p).swstat.getLsbD 2 = false ∧ (t.pt p).lsstat = 0 ∧
      (t.pt p).switch = some { w with phase := .quiesce, out := some j, failure := 0 } ∧
      t.word (placeKey j.save) = (if w.urgent then 5 else 1)) ∧
  (∀ (s : State) (p : Nat) (w : Switch) (o : Job), (s.pt p).switch = some w → w.phase = .quiesce → w.out = some o →
    (∀ x ∈ s.txStreams, ∀ q ∈ x.unacked, ¬ (q.job = o.job ∧ q.gen = o.gen)) →
    (w.target = none → ∃ t, exec (.generationQuiesce p) s = .next t ∧ switchOver t p w 1 ∧ t.mem = s.mem ∧ t.slices = s.slices ∧
      (t.pt p).job = (s.pt p).job) ∧
    ∀ job gen restore, w.target = some (job, gen, restore) →
      (s.jobEntry p job = none → ∃ t, exec (.generationQuiesce p) s = .next t ∧ switchOver t p w 2 ∧ t.mem = s.mem ∧
        t.slices = s.slices ∧
        (t.pt p).job = (s.pt p).job) ∧
      ∀ n h, s.jobEntry p job = some (n, h) →
        let image := placeKey (s.dword (placeKey h + 0x60))
        let saved : BitVec 12 := (s.word (image + 4)).extractLsb' 16 12
        let u := s.setJob p (s.jobFrom (placeKey h) job gen)
        (restore = false → u.poisoned = [] → u.word (image + 0x88) = 0 → ∀ bs, u.readVirt p (s.dword (placeKey h + 8)) 128 = some bs →
          ∃ t y l, exec (.generationQuiesce p) s = .next t ∧ switchOver t p w 1 ∧ (t.pt p).job = some y ∧
            describedAt s (placeKey h) job gen y ∧ y.gridCtr = 1 ∧ l ∈ t.launches ∧ l.part = p ∧ l.number = 0 ∧
            l.owner = .root ∧ l.header = some (Header.ofBytes bs) ∧ (w.urgent = true ∨ (Header.ofBytes bs).urgent = true → (t.pt p).swstat.getLsbD 2 = true)) ∧
        (restore = true → (s.word image).getLsbD 0 = false → ∃ t, exec (.generationQuiesce p) s = .next t ∧ switchOver t p w 4) ∧
        (restore = true → (s.word image).getLsbD 0 = true → gen ≠ (if w.returning then saved else saved + 1) →
          ∃ t, exec (.generationQuiesce p) s = .next t ∧ switchOver t p w 3) ∧
        (restore = true → (s.word image).getLsbD 0 = true → gen = (if w.returning then saved else saved + 1) →
          ∃ t y, exec (.generationQuiesce p) s = .next t ∧ (t.pt p).switch = some { w with phase := .restoring } ∧
            (t.pt p).job = some y ∧ describedAt s (placeKey h) job gen y ∧
            y.gridCtr = (s.word (image + 0x28)).toNat ∧ (t.pt p).lsstat = s.word (image + 0x2C) &&& 0xFF07)) ∧
  (∀ (s : State) (p : Nat) (w : Switch) (j : Job), (s.pt p).switch = some w → w.phase = .restoring → (s.pt p).job = some j →
    placeKey j.save % 4 = 0 → ∃ t, exec (.restore p) s = .next t ∧ (t.pt p).switch = none ∧ (t.pt p).swstat.getLsbD 0 = false ∧
      (t.word (placeKey j.save)).getLsbD 0 = false ∧
      ((∀ i, i < 7 → s.word (placeKey j.save + 0x70 + 4 * i) = 0) → s.poisoned = [] → (∀ r ∈ s.saved, r.part ≠ p) →
        (∀ r ∈ s.recvs, r.part ≠ p) → (t.pt p).lsstat = (s.pt p).lsstat ∧ switchOver t p w 1 ∧
        (t.pt p).job = some { j with urgent := (t.jobOf p).urgent } ∧
        (j.urgent = true → (t.jobOf p).urgent = true))) ∧
  (∀ (s : State) (p : Nat), ∃ t, exec (.swstatWrite p) s = .next t ∧ onlyPart s t p (fun x => { x with swstat := (t.pt p).swstat }) ∧
    withBit (s.pt p).swstat (t.pt p).swstat 1 false) ∧
  (∀ (s : State) (p : Nat) (job : BitVec 16) (gen : BitVec 12), ∃ t, exec (.urgcmdGo p job gen) s = .next t ∧
    t = { s with parts := t.parts } ∧ (t.pt p).urgcmd = 0#4 ++ gen ++ job ∧
    ((s.pt p).swstat.getLsbD 0 = true ∨ (s.pt p).swstat.getLsbD 2 = true ∨ s.urgentRoot p job = false →
      (t.pt p).swstat.extractLsb' 8 8 = 6 ∧ (t.pt p).urgJob = (s.pt p).urgJob ∧ (t.pt p).preq = (s.pt p).preq) ∧
    ((s.pt p).swstat.getLsbD 0 = false → (s.pt p).swstat.getLsbD 2 = false → s.urgentRoot p job = true →
      (t.pt p).swstat = (s.pt p).swstat ∧ (t.pt p).urgJob = some (job, gen) ∧ (t.pt p).preq = (s.pt p).job.isSome ∧
      (t.pt p).urgHalt = some (BitVec.ofNat 64 (s.ns + 1000 * min 20 ((s.pt p).swctl.extractLsb' 16 8).toNat)))) ∧
  (∀ (s : State) (p : Nat) (at_ : DWord) (job : BitVec 16) (gen : BitVec 12) (j : Job), (s.pt p).urgHalt = some at_ →
    (s.pt p).urgJob = some (job, gen) → (s.pt p).job = some j → s.partRuns p = true →
    (at_.toNat ≤ s.ns ∨ ∀ t ∈ s.teamsOf p, s.teamYielded t = true) → ∃ t, exec (.urgentHalt p) s = .next t ∧
      halted s t p (some (job, gen, false)) true false ∧ (t.pt p).grant = (s.pt p).grant ∧ (t.pt p).preempted = some (j.job, j.gen) ∧
      (t.pt p).urgHalt = none ∧ (t.pt p).urgJob = none) ∧
  (∀ (s : State) (p : Nat) (job : BitVec 16) (gen : BitVec 12) (j : Job), (s.pt p).job = some j → (s.pt p).preempted = some (job, gen) →
    s.partRuns p = true → j.urgent = true → (∀ g ∈ s.grids, ¬ (g.part = p ∧ g.owner = .root)) →
    (∀ l ∈ s.launches, ¬ (l.part = p ∧ l.owner = .root)) → ∃ t, exec (.urgentReturn p) s = .next t ∧
      halted s t p (some (job, gen, true)) false true ∧ (t.pt p).grant = (s.pt p).grant ∧ (t.pt p).preempted = none)

/-! ## The fabric -/

/-- R370, R371, R405 to R407, R410, R411: an arriving packet is put before its engine, held, acknowledged again, dropped, refused or
parked; NACKed and unacknowledged streams are sent again in order; a load or copy write of a peer is performed and answered, or
answered with STAT 2, 3 or 4; an answer reaches the request it is for; an Ethernet port goes up or down. The model's choice: an
acknowledgement has class 8 and OP 0xFF and names SEQ and class group in ADDR, as a NACK does (log entry 15), and a path change may send again at any
time (log entry 44). -/
def Obligations.PacketEvents : Prop :=
  (∀ (s : State) (pkt : Packet) (d : Datagram), ∃ t, exec (.packetArrival ⟨pkt, some d⟩) s = .next t ∧ (s.rot.recovery = true → t = s) ∧
    (s.rot.recovery = false → ¬ comesIn s pkt (some d) → t = { s with dropped := s.dropped + 1 })) ∧
  (∀ (s : State) (pkt : Packet) (dg : Option Datagram), comesIn s pkt dg → pkt.dstPeer = s.selfPeer →
    ∃ t, exec (.packetArrival ⟨pkt, dg⟩) s = .next t ∧
    (10 ≤ pkt.cls.toNat → t = { s with dropped := s.dropped + 1 }) ∧
    (pkt.cls.toNat < 8 → let i := pktStream pkt
      let x := s.rxOf i
      (seqLe pkt.seq x.expect = false → x.nackFrom = none → (∀ q ∈ x.held, q.seq ≠ pkt.seq) →
        t = { s with rxStreams := t.rxStreams } ∧ t.rxOf i = { x with held := x.held ++ [pkt] }) ∧
      (pkt.seq ≠ x.expect → seqLe pkt.seq x.expect = true → seqLe pkt.seq (s.lastSettled i) = true →
        t.inbox = s.inbox ∧ t.rxStreams = s.rxStreams ∧ t.mem = s.mem ∧ t.slices = s.slices))) ∧
  (∀ (s : State) (pkt : Packet) (dg : Option Datagram) (p : Nat), comesIn s pkt dg → InOrder s pkt → 1 ≤ pkt.cls.toNat → pkt.cls.toNat ≤ 8 → ¬ (pkt.cls = 8 ∧ pkt.op = 0xFF) →
    let i := pktStream pkt
    (ForJob s pkt p → ∃ t, exec (.packetArrival ⟨pkt, dg⟩) s = .next t ∧
      t = { s with inbox := s.inbox ++ [pkt], rxStreams := t.rxStreams } ∧ (t.rxOf i).expect = pkt.seq + 1) ∧
    (s.currentPart pkt.job = some p → s.engineOn p = true → pkt.gen ≠ (s.jobOf p).gen → pkt.gen ≠ (s.jobOf p).gen - 1 →
      ∃ t, exec (.packetArrival ⟨pkt, dg⟩) s = .next t ∧ t.inbox = s.inbox ∧ t.dropped = s.dropped + 1 ∧ t.slices = s.slices ∧
        (t.rxOf i).expect = pkt.seq + 1) ∧
    (s.currentPart pkt.job = none → s.directoryPart pkt.job = none → 3 ≤ pkt.cls.toNat → pkt.cls.toNat ≤ 6 → pkt.srcPeer ≠ s.selfPeer →
      ∃ t n, exec (.packetArrival ⟨pkt, dg⟩) s = .next t ∧ t.inbox = s.inbox ∧ (t.rxOf i).expect = pkt.seq ∧ (t.rxOf i).nackFrom = some pkt.seq ∧
        n ∈ (t.txOf ⟨pkt.dstPeer, pkt.dstDie, pkt.srcPeer, pkt.srcDie, 3⟩).unacked ∧ n.cls = 9 ∧ n.stat = 1) ∧
    ∀ q e h, s.currentPart pkt.job = none → s.directoryPart pkt.job = some (q, e, h) → pkt.cls = 3 ∨ pkt.cls = 4 →
      pkt.srcPeer ≠ s.selfPeer → let image := s.imageKey h
      let off := (s.dword (image + 0x18)).toNat
      let used := (s.dword (image + 0x20)).toNat
      let r := parkRecord pkt
      image % 4096 = 0 → off % 4096 = 0 → 4096 ≤ off → used % 16 = 0 → off + used + r.length ≤ (s.dword (image + 0x10)).toNat →
      clean s (image + 0x88) 4 → ∃ t, exec (.packetArrival ⟨pkt, dg⟩) s = .next t ∧ t.inbox = s.inbox ∧ (t.rxOf i).expect = pkt.seq + 1 ∧
        t.bytes (image + off + used) r.length = r ∧ (t.dword (image + 0x20)).toNat = used + r.length ∧
        t.word (image + 0x88) = s.word (image + 0x88) + 1 ∧ answeredPeer t pkt 0 0 []) ∧
  (∀ (s : State) (nack : Packet) (due : Nat), let i : StreamId := ⟨nack.dstPeer, nack.dstDie, nack.srcPeer, nack.srcDie, (nack.addr.extractLsb' 32 2).toNat⟩
    let n := nack.addr.extractLsb' 0 32
    (s.txOf i).nacked = some (n, due) → due ≤ s.ns → hasPath s i →
    ∃ t, exec (.nackRetry nack) s = .next t ∧ streamResent s t i (fun q => seqLe n q.seq = true)) ∧
  (∀ (s : State) (i : StreamId) (n : Word) (due : Nat), (s.txOf i).nacked = some (n, due) → due ≤ s.ns → hasPath s i →
    ∃ t, exec (.parkRetry i) s = .next t ∧ streamResent s t i (fun q => seqLe n q.seq = true)) ∧
  (∀ (s : State) (i : StreamId), (s.txOf i).nacked = none → (s.txOf i).unacked ≠ [] → hasPath s i →
    (∃ t, exec (.pathChangeResend i) s = .next t ∧ streamResent s t i (fun _ => True)) ∧
    (s.route i.dstPeer = .scaleOut → ∃ t, exec (.scaleoutResend i) s = .next t ∧
      streamResent s t i (fun q => aget 0 (s.txOf i).sent q.seq.toNat + 20000 ≤ s.ns))) ∧
  (∀ (s : State) (pkt : Packet) (p m : Nat), PeerTurn s pkt p → let j := s.jobOf p
    let late := linePassed s.ns pkt.dline
    let tag := s.peerTag p j pkt.addr
    (pkt.cls = 4 → late = false → (∀ n, n < pkt.payload.length →
        s.resolveAsPeer p j pkt.job (pkt.addr + BitVec.ofNat 42 n) false true false = .key (m + n)) → pkt.payload ≠ [] →
        clean s m pkt.payload.length → linesRead s p pkt →
      ∃ t, exec (.peerRequest pkt) s = .next t ∧ t.inbox = s.inbox.erase pkt ∧ storesOnly s t m pkt.payload.length ∧
        t.bytes m pkt.payload.length = pkt.payload ∧ answeredPeer t pkt 0 tag []) ∧
    (pkt.cls = 5 → let at_ (n : Nat) := s.resolveAsPeer p j pkt.job (pkt.addr + BitVec.ofNat 42 n) true false false
      (late = false → (∀ n, n < 64 → at_ n = .key (m + n)) → clean s m 64 → linesRead s p pkt →
        ∃ t, exec (.peerRequest pkt) s = .next t ∧
        t.inbox = s.inbox.erase pkt ∧ t.mem = s.mem ∧ answeredPeer t pkt 0 tag (s.bytes m 64)) ∧
      (late = true → (∀ n, n < 64 → at_ n = .key (m + n)) → ∃ t, exec (.peerRequest pkt) s = .next t ∧
        t.inbox = s.inbox.erase pkt ∧ t.mem = s.mem ∧ answeredPeer t pkt 3 tag []) ∧
      ((∃ n e g, n < 64 ∧ at_ n = .fail e g ∧ e ≠ .denied) → ∃ t, exec (.peerRequest pkt) s = .next t ∧
        t.inbox = s.inbox.erase pkt ∧ answeredPeer t pkt 2 tag []) ∧
      ∀ tag, late = false → (∀ n, n < 64 → at_ n = .fail .denied tag) → ∃ t, exec (.peerRequest pkt) s = .next t ∧
        t.inbox = s.inbox.erase pkt ∧ answeredPeer t pkt 4 tag [])) ∧
  (∀ (s : State) (pkt : Packet), (s.inboxOf (pktStream pkt)).head? = some pkt → pkt.cls = 8 →
    (s.requestFor pkt = none → ∃ t, exec (.answerArrival pkt) s = .next t ∧ t.inbox = s.inbox.erase pkt ∧ t.fars = s.fars ∧
      t.copies = s.copies ∧ t.mem = s.mem) ∧
    ∀ r, s.requestFor pkt = some r →
      (∀ f, r.kind = 0 → s.farOf r.src = some f → ∃ t, exec (.answerArrival pkt) s = .next t ∧ t.inbox = s.inbox.erase pkt ∧
        t.peerReqs = s.peerReqs.erase r ∧ t.farOf r.src = some { f with answer := some pkt } ∧ t.mem = s.mem) ∧
      (∀ c, r.kind = 1 → s.copyOf r.src = some c → c.asked.map CopyAsk.txid = some r.txid → ∃ t, exec (.answerArrival pkt) s = .next t ∧
        t.inbox = s.inbox.erase pkt ∧ t.peerReqs = s.peerReqs.erase r ∧ t.copyOf r.src = some { c with ans := some pkt } ∧ t.mem = s.mem)) ∧
  (∀ (s : State) (n : Nat) (up : Bool), n < 8 → ∃ t, exec (.ethernetPortLinkChange n up) s = .next t ∧
    t = { s with ethUp := t.ethUp, peerReqs := t.peerReqs } ∧ withBit s.ethUp t.ethUp n up)

/-- R401 to R403, R412, R413: a flit is discarded for its CRC or its order with a retry asked for, or taken in order; a retry request
sends the kept flits again and is counted, and too many retrain the link; a link retrains narrower, widens, goes down and trains again,
and sends its kept flits again when it is up; a change of width has the peer delay measured again; link reports; LINKST. What control
flits hold (first byte 1 or 2, the lanes or links) is the model's choice (log entry 15). -/
def Obligations.LinkEvents : Prop :=
  (∀ (s : State) (n : Nat) (f : Flit), n < 16 → (s.po n).state = 2 → s.rot.recovery = false → let x := s.po n
    (flitCrc f ≠ f.crc → ∃ t, exec (.flitReceive n f) s = .next t ∧ t = { s with ports := t.ports } ∧ otherPorts s t n ∧
      asksRetry { x with crcerr := satInc x.crcerr } (t.po n) x.buffer) ∧
    (flitCrc f = f.crc → let kind := (f.ftype.extractLsb' 0 4).toNat
      let keep := uncovered f.fack x.buffer
      (f.fseq.setWidth 12 ≠ x.recvSeq + 1 → ∃ t, exec (.flitReceive n f) s = .next t ∧ t = { s with ports := t.ports } ∧
        otherPorts s t n ∧ asksRetry x (t.po n) keep) ∧
      (f.fseq.setWidth 12 = x.recvSeq + 1 → ∃ y, flitsLeave x y keep [] ∧
        (3 ≤ kind → ∃ t, exec (.flitReceive n f) s = .next t ∧ t = { s with ports := t.ports } ∧ otherPorts s t n ∧
          t.po n = { y with recvSeq := x.recvSeq + 1 }) ∧
        (kind = 2 → ∃ t u, exec (.flitReceive n f) s = .next t ∧ u = { s with ports := u.ports } ∧ otherPorts s u n ∧
          u.po n = { y with recvSeq := x.recvSeq + 1 } ∧ t = (splitPackets 4 f.payload).1.foldl State.arrive u) ∧
        (kind = 1 → let got := x.rxBytes ++ f.payload
          let r := splitPackets (got.length / 32 + 1) got
          ∃ t u, exec (.flitReceive n f) s = .next t ∧ u = { s with ports := u.ports } ∧ otherPorts s u n ∧
            u.po n = { y with recvSeq := x.recvSeq + 1, rxBytes := r.2 } ∧ t = r.1.foldl State.arrive u) ∧
        (kind = 0 → f.payload.headD 0 = 1 → let recent := x.recent.filter (fun a => decide (s.ns < a + 100000))
          let z := { y with
            recvSeq := x.recvSeq + 1, retry := satInc x.retry, lastRetry := s.ns, recent := recent ++ [s.ns]
            wire := y.buffer.reverse ++ y.wire }
          ∃ t, exec (.flitReceive n f) s = .next t ∧ otherPorts s t n ∧
            (recent.length < 32 → t = { s with ports := t.ports } ∧ t.po n = z) ∧
            (32 ≤ recent.length → t = { s with ports := t.ports, peerReqs := t.peerReqs } ∧ lostMarked s t ∧
              t.po n = { z with state := 3, full := false, recent := [] })) ∧
        (kind = 0 → f.payload.headD 0 = 2 → ∃ t, exec (.flitReceive n f) s = .next t ∧
          t = { s with ports := t.ports, peerReqs := t.peerReqs } ∧ lostMarked s t ∧ otherPorts s t n ∧
          t.po n = { y with recvSeq := x.recvSeq + 1, report := f.payload.getD 2 0 ++ f.payload.getD 1 0 })))) ∧
  (∀ (s : State) (n : Nat), (s.po n).state = 2 → ∃ t, exec (.laneLockLoss n) s = .next t ∧
    t = { s with ports := t.ports, peerReqs := t.peerReqs } ∧ lostMarked s t ∧
    portIs s t n (fun x => { x with state := 3, full := false, recent := [] })) ∧
  (∀ (s : State) (n : Nat), (s.po n).state = 1 ∨ (s.po n).state = 3 →
    (∃ t, exec (.linkRetrainDone n none) s = .next t ∧ t = { s with ports := t.ports, peerReqs := t.peerReqs } ∧ lostMarked s t ∧
      portIs s t n (fun x => { x with state := 4, full := false, downSince := s.ns })) ∧
    ∀ w : BitVec 2, ∃ t, exec (.linkRetrainDone n (some w)) s = .next t ∧
      ((s.po n).state = 1 ∨ (s.po n).full = true ∨ (s.po n).width.toNat < w.toNat →
        t = { s with ports := t.ports, ptpPorts := t.ptpPorts } ∧ delayPends s t n w ∧
        portIs s t n (fun x => { x with
          state := 2, width := w, full := false, recent := [], lastRetry := s.ns, wire := x.buffer.reverse ++ x.wire })) ∧
      ((s.po n).state = 3 → (s.po n).full = false → w.toNat ≤ (s.po n).width.toNat → t = s)) ∧
  (∀ (s : State) (n : Nat) (ok : Bool), (s.po n).state = 2 → (s.po n).width ≠ 0 → (s.po n).lastRetry + (s.po n).widenWait ≤ s.ns →
    ∃ t, exec (.linkWidenAttempt n ok) s = .next t ∧ t = { s with ports := t.ports, ptpPorts := t.ptpPorts } ∧
      delayPends s t n (if ok then (s.po n).width - 1 else (s.po n).width) ∧
      portIs s t n (fun x => { x with
        lastRetry := s.ns, width := if ok then x.width - 1 else x.width
        widenWait := if ok then 1000000000 else min (2 * x.widenWait) 64000000000 })) ∧
  (∀ (s : State) (n : Nat), (s.po n).state = 4 → (s.po n).downSince + 1000000000 ≤ s.ns → ∃ t, exec (.linkDownRetry n) s = .next t ∧
    t = { s with ports := t.ports, ptpPorts := t.ptpPorts } ∧ delayPends s t n 0 ∧
    portIs s t n (fun x => { x with state := 3, full := true, width := 0 })) ∧
  (∀ (s : State) (n : Nat) (usable : BitVec 16), (s.po n).state = 2 → ∃ t, exec (.linkReport n usable) s = .next t ∧
    t = { s with ports := t.ports, peerReqs := t.peerReqs } ∧ lostMarked s t ∧ otherPorts s t n ∧
    ∃ pl : List Byte, pl.length = 120 ∧ pl.headD 0 = 2 ∧ (∀ k, k < 16 → (pl.getD 2 0 ++ pl.getD 1 0).getLsbD k = s.linkUp k) ∧
      flitsLeave { s.po n with report := usable } (t.po n) (s.po n).buffer [⟨false, false, 0, pl⟩]) ∧
  (∀ (s : State) (n : Nat), ∃ t, exec (.linkstWrite n) s = .next t ∧ t = { s with ports := t.ports } ∧
    portIs s t n (fun x => { x with retry := 0, crcerr := 0 }))

/-! ## Partitions, power and management -/

/-- R285, R377, R381 to R384, R386: translation commands are taken and applied; PARTCFG, with overlaps and locked fields ignored;
clusters are lent, reclaimed and returned; PWRCFG, reconnection and regulator groups; the meter's credit and throttle level, exactly, in
pJ / 256 (log entry 46). That a partition enabled with a GROUP that is another's holds none is the model's reading (log entry 60). -/
def Obligations.PartitionEvents : Prop :=
  (∀ (s : State) (die : Nat) (job : BitVec 16) (vpn : BitVec 33) (clr : Bool) (e : Instr × DWord),
    e ∈ [(Instr.xlcmdPage die job vpn, 1#2 ++ 1#1 ++ 0#1 ++ 0#11 ++ job ++ vpn),
      (.xlcmdJob die job clr, 2#2 ++ 1#1 ++ BitVec.ofBool clr ++ 0#11 ++ job ++ 0#33),
      (.xlcmdAll die clr, 3#2 ++ 1#1 ++ BitVec.ofBool clr ++ 0#11 ++ 0#16 ++ 0#33)] →
    ∃ t, exec e.1 s = .next t ∧ ((s.di die).xlcmd.getLsbD 61 = true → t = s) ∧
      ((s.di die).xlcmd.getLsbD 61 = false → t = { s with dies := t.dies } ∧ dieIs s t die (fun d => { d with xlcmd := e.2 }))) ∧
  (∀ (s : State) (die : Nat), (s.di die).xlcmd.getLsbD 61 = true → ∃ t, exec (.xlcmdDone die) s = .next t ∧
    t = { s with dies := t.dies } ∧
    dieIs s t die (fun d => { d with
      xlcmd := (t.di die).xlcmd, xlats := (t.di die).xlats, tags := (t.di die).tags, clears := (t.di die).clears }) ∧
    withBit (s.di die).xlcmd (t.di die).xlcmd 61 false ∧
    (∀ l, l ∈ (t.di die).xlats ↔ l ∈ (s.di die).xlats ∧ ¬ xlCovers (s.di die).xlcmd l.job l.vpn l.size) ∧
    (∀ l, l ∈ (t.di die).tags ↔ l ∈ (s.di die).tags ∧ ¬ xlCovers (s.di die).xlcmd l.job l.vpn l.size) ∧
    ∀ l, l ∈ (t.di die).clears ↔ l ∈ (s.di die).clears ∧ ¬ xlClears (s.di die).xlcmd l) ∧
  (∀ (s : State) (p : Nat) (value : DWord), ∃ t v, exec (.partcfgWrite p value) s = .next t ∧
    (∀ n, n < 64 → BitVec.getLsbD (w := 64) v n = configBit s p value n) ∧
    (configClash s p { s.pt p with partcfg := v } → t = s) ∧
    (¬ configClash s p { s.pt p with partcfg := v } → partIs s t p (fun x =>
      if v.getLsbD 63 = true ∧ x.partcfg.getLsbD 63 = false then
        { x with
          partcfg := v, group := groupHeld s p { x with partcfg := v }, credit := 8 * allotment x, throttle := 0, meterUs := s.ns / 1000 }
      else { x with partcfg := v, group := groupHeld s p { x with partcfg := v } }))) ∧
  (∀ (s : State) (c : Nat) (b : BitVec 4), let owner := (List.range 16).find? (fun p => (s.pt p).inRange c)
    ∃ t, exec (.clendLend c b) s = .next t ∧ t = { s with clusters := t.clusters } ∧ (∀ q, q ≠ c → t.cl q = s.cl q) ∧
      (¬ writtenNow s (s.cl c).reclaimAt →
        ((s.clusterTeams c ≠ [] ∨ (s.cl c).lent ≠ 0 ∨ (s.pt b.toNat).partcfg.getLsbD 63 = false ∨ owner = none ∨
          owner = some b.toNat) → t.cl c = { s.cl c with lendAt := (t.cl c).lendAt }) ∧
        (s.clusterTeams c = [] → (s.cl c).lent = 0 → (s.pt b.toNat).partcfg.getLsbD 63 = true →
          (∃ p, owner = some p ∧ p ≠ b.toNat) → (t.cl c).lent = 1 ∧ (t.cl c).borrower = b ∧
          (t.cl c).lendAt = some ⟨s.cycle, true, (s.cl c).reconnect⟩)) ∧
      (∀ x, (s.cl c).reclaimAt = some x → x.cycle = s.cycle →
        t.cl c = { s.cl c with lendAt := (t.cl c).lendAt, lent := if x.took then 1 else (s.cl c).lent })) ∧
  (∀ (s : State) (c : Nat), ∃ t, exec (.clendReclaim c) s = .next t ∧ t = { s with clusters := t.clusters } ∧
    (¬ writtenNow s (s.cl c).lendAt → clusterIs s t c (fun x => { x with
      reclaimAt := some ⟨s.cycle, decide (x.lent = 1), none⟩, lent := if x.lent = 1 then 2 else x.lent })) ∧
    ∀ r, (s.cl c).lendAt = some ⟨s.cycle, true, r⟩ → clusterIs s t c (fun x => { x with
      reclaimAt := (t.cl c).reclaimAt, lent := 0, borrower := 0, reconnect := r })) ∧
  (∀ (s : State) (c : Nat), (s.cl c).lent = 2 → ¬ writtenNow s (s.cl c).reclaimAt →
    (s.clusterTeams c = [] → ∃ t, exec (.reclaimComplete c) s = .next t ∧ t = { s with clusters := t.clusters } ∧
      (t.cl c).lent = 0 ∧ (t.cl c).borrower = 0 ∧ ∀ q, q ≠ c → t.cl q = s.cl q) ∧
    ∀ v, s.clusterTeams c = [v] → s.partRuns (s.cl c).borrower.toNat = true → (s.swapOut v true).clusterTeams c ≠ [] →
      exec (.reclaimComplete c) s = .next (s.swapOut v true)) ∧
  (∀ (s : State) (p : Nat) (value : DWord), let taken := (List.range 16).any (fun q => q != p &&
      (s.pt q).group == some (value.extractLsb' 45 3).toNat)
    let new (x : Part) : DWord :=
      value.extractLsb' 48 16 ++ (if taken then x.pwrcfg else value).extractLsb' 45 3 ++ value.extractLsb' 32 13 ++ 0#32
    ∃ t, exec (.pwrcfgWrite p value) s = .next t ∧ t = { s with parts := t.parts, clusters := t.clusters } ∧
      partIs s t p (fun x => { x with pwrcfg := new x, group := groupHeld s p { x with pwrcfg := new x } })) ∧
  (∀ (s : State) (c g : Nat), (s.cl c).reconnect = some g → s.clusterTeams c = [] → ∃ t, exec (.regulatorReconnect c) s = .next t ∧
    t = { s with clusters := t.clusters, cores := t.cores, mem := t.mem, poisoned := t.poisoned } ∧
    clusterIs s t c (fun x => { x with group := g, reconnect := none, gated := false, idleSince := s.nsWord }) ∧
    (∀ i, i < 256 → (t.co (256 * c + i)).gated = false ∧ ∀ key, ofCore (256 * c + i) key → t.byte key = 0) ∧
    ∀ key, (∀ i, i < 256 → ¬ ofCore (256 * c + i) key) → t.byte key = s.byte key) ∧
  (∀ (s : State) (c p g : Nat), (s.cl c).reconnect = none → s.partOfCluster c = some p → (s.pt p).group = some g →
    s.clusterTeams c = [] → (s.cl c).group ≠ g → ∃ t, exec (.regulatorReconnect c) s = .next t ∧
      t = { s with clusters := t.clusters } ∧ clusterIs s t c (fun x => { x with reconnect := some g })) ∧
  (∀ (s : State) (g : Nat) (value : Word), ∃ t, exec (.rggroupWrite g value) s = .next t ∧ t = { s with rgGroups := t.rgGroups } ∧
    groupIs s t g (fun x => { x with
      reg := value &&& 0xFF1F, ramping := x.ramping || (value &&& 0xFF1F) != x.applied })) ∧
  (∀ (s : State) (g : Nat), (s.rg g).ramping = true → ∃ t v, exec (.rggroupRampDone g) s = .next t ∧ t = { s with rgGroups := t.rgGroups } ∧
    rampTo (s.rg g).applied (s.rg g).reg v ∧ groupIs s t g (fun x => { x with applied := v, ramping := v != x.reg })) ∧
  (∀ (s : State) (p : Nat), (s.pt p).partcfg.getLsbD 63 = true → (s.pt p).meterUs ≠ s.ns / 1000 →
    ∃ t, exec (.powerMeterUpdate p) s = .next t ∧ t = { s with parts := t.parts, clusters := t.clusters } ∧
      (∀ c, t.cl c = if c < 16 ∧ s.holdsCluster p c = true then { s.cl c with enaccSeen := (s.cl c).enacc } else s.cl c) ∧
      partIs s t p (fun x => let a := allotment x
        let credit := max (min (x.credit + a - energyOf s p) (8 * a)) (-(8 * a))
        { x with
          meterUs := s.ns / 1000, credit := credit
          throttle := if credit < 0 then min (x.throttle + 1) 15 else if 4 * a ≤ credit then x.throttle - 1 else x.throttle }))

/-- R291, R305, R389, R392 to R396: a stopped team is resumed or ended; MLOGST; a tenant reset isolates, clears and is acknowledged; the
boot steps and their record; attestation; register writes with reserved bits ignored; corrections are counted and units retire;
host accesses to HBM. R29, R290, R292: an uncorrectable error poisons the words of one granule of memory, or makes the two registers of one granule of a
register file read as POISON_WORD. The model's choice: the layout of a boot's outcomes and reports (log entry 19), the registers that share a granule, and
no report when no secret number serves (log entry 18), host loads that append no event (log entry 26), errors that arise in turns of their own (log
entry 21), and the steps at which PRESET STATE changes (log entries 34 and 47). -/
def Obligations.ManagementEvents : Prop :=
  (∀ (s : State) (p tm : Nat) (value : Word), commanded s p value 1 tm → ∃ t, exec (.teamcmdResume p value) s = .next t ∧ t.mem = s.mem ∧
    (t.pt p).teamcmd = value &&& 0xC000FFFF ∧ ∀ k ∈ (s.tm tm).slices, ∀ f, (s.sl k).wait = some .stopped → (s.sl k).frame = some f → (t.sl k).frame = none ∧
      (t.sl k).pc = (f.word 1).extractLsb' 2 30 ++ 0#2 ∧ ((f.word 7).getLsbD 8 = false → (t.sl k).wait = none) ∧
      ((f.word 7).getLsbD 8 = true → (∀ j ∈ t.launchGang tm ((s.sl k).idx / 8), (t.sl j).wait = none) ∨
        (t.sl k).wait = some .regang ∧ ∃ j ∈ t.launchGang tm ((s.sl k).idx / 8), (t.sl j).wait ≠ some .regang) ∧
      (t.sl k).active = (f.word 4).extractLsb' 0 4 &&& ~~~((f.word 7).extractLsb' 0 4)) ∧
  (∀ (s : State) (p tm : Nat) (value : Word), commanded s p value 2 tm → ∃ t, exec (.teamcmdEnd p value) s = .next t ∧
    (∀ k ∈ (s.tm tm).slices, (t.sl k).done = true) ∧ (∀ c ∈ t.copies, c.team ≠ tm) ∧ (t.pt p).teamcmd = value &&& 0xC000FFFF ∧
    ((∀ c ∈ s.copies, c.team ≠ tm) → t.mem = s.mem)) ∧
  (∀ s : State, exec .mlogstWrite s = .next { s with mlogst := 0 }) ∧
  (∀ (s : State) (p : Nat), (s.pt p).preset ≠ 1 → (s.pt p).preset ≠ 2 → ∃ t, exec (.presetGo p) s = .next t ∧
    t = { s with parts := t.parts, clusters := t.clusters } ∧ (t.pt p).preset = 1 ∧ (t.pt p).switch = none ∧
    (t.pt p).swstat.getLsbD 0 = false ∧ t.partRuns p = false ∧ t.engineOn p = false ∧ (∀ q, q ≠ p → t.pt q = s.pt q) ∧
    ∀ c, c < 16 → (s.cl c).lent ≠ 0 → (s.cl c).borrower.toNat = p → (t.cl c).lent = 2) ∧
  (∀ (s : State) (p : Nat),
    ((s.pt p).preset = 1 → ∃ t, exec (.presetClearDone p) s = .next t ∧ (t.pt p).preset = 2 ∧ (t.pt p).job = none ∧
      (t.pt p).lsstat = 0 ∧ (t.pt p).swstat = 0 ∧ (t.pt p).slot = [] ∧
      (∀ k, (afind t.teams k).isSome → (s.tm k).part ≠ p) ∧ (∀ g ∈ t.grids, g.part ≠ p) ∧ (∀ l ∈ t.launches, l.part ≠ p) ∧
      (∀ r ∈ t.recvs, r.part ≠ p) ∧ (∀ e ∈ t.wft, e.part ≠ p) ∧ (∀ u ∈ t.unexpected, u.part ≠ p) ∧
      (∀ e ∈ t.timetable, (e.genp.extractLsb' 12 4).toNat ≠ p) ∧
      (∀ key, 2 ^ 41 ≤ key → key < 2 ^ 41 + 2 ^ 31 → (s.pt p).colours.getLsbD ((key - 2 ^ 41) % 2 ^ 25 / 64 % 16) = true → t.byte key = 0) ∧
      ∀ core key, core < 4096 → s.holdsCluster p (clusterOfCore core) = true → ofCore core key → t.byte key = 0) ∧
    ((s.pt p).preset = 2 → ∃ t, exec (.presetClearDone p) s = .next t ∧ onlyPart s t p (fun x => { x with preset := 3 })) ∧
    ((s.pt p).preset = 3 → ∃ t, exec (.presetAcknowledge p) s = .next t ∧ onlyPart s t p (fun x => { x with preset := 0 }))) ∧
  (∀ (s : State) (w : BootWork), s.rot.record = [] → (∀ n, n < 9 → ∃ o, w.primary[n]? = some o ∧ o.passed = true) →
    let count := s.rot.bootCount + 1
    ((imageOk s.fuses w.firmware = true ∧ imageOk s.fuses w.osImage = true) → ∃ t, exec (.boot w) s = .next t ∧
      t = { State.reset with agenda := s.agenda, turnNo := s.turnNo, freeNo := s.freeNo, fuses := s.fuses, rot := t.rot
                             podcfg := s.fuses.peer.setWidth 64, clusters := t.clusters } ∧
      t.rot.recovery = false ∧ t.rot.bootCount = count ∧
      t.rot.measured = [BitVec.ofNat 384 (sha384 w.firmware.image), BitVec.ofNat 384 (sha384 w.osImage.image)] ∧
      (∀ c, c < 16 → (t.cl c).clcal = w.clcal.getD c 0 &&& 0xFFFFFFFF00000000) ∧
      ∀ n, 1 ≤ n → n ≤ 9 → ∃ o, w.primary[n - 1]? = some o ∧
        aget 0 t.rot.record n = count ++ o.detail ++ 0#5 ++ 0#1 ++ 1#2 ++ BitVec.ofNat 8 n) ∧
    (imageOk s.fuses w.firmware = false → ∃ t, exec (.boot w) s = .next t ∧ t.rot.measured = [] ∧
      (aget 0 t.rot.record 2).extractLsb' 8 2 = 2 ∧ ∀ n, 2 < n → n ≤ 9 → (aget 0 t.rot.record n).extractLsb' 8 2 = 0)) ∧
  (∀ (s : State) (w : BootWork) (o : StepOutcome), w.primary[0]? = some o → o.passed = true →
    (aget 0 s.rot.record 1).extractLsb' 8 2 ≠ 2 → (aget 0 s.rot.record 2).extractLsb' 8 2 = 2 → imageOk s.fuses w.firmware2 = false →
    ∃ t, exec (.boot w) s = .next t ∧ t.rot.recovery = true ∧ (aget 0 t.rot.record 2).getLsbD 10 = true ∧ ∀ p, t.partRuns p = false) ∧
  (∀ (s : State) (p q : Nat) (nonce : List Byte) (ks : List (BitVec 384)), q ≠ p + 1 ∨ s.rot.recovery = true →
    exec (.attestationRequest p nonce (some q) ks) s = .next s) ∧
  (∀ (s : State) (p : Nat) (nonce : List Byte) (vf : Option Nat) (ks : List (BitVec 384)), nonce.length = 48 →
    vf = none ∨ vf = some (p + 1) ∧ s.rot.recovery = false →
    ∃ t, exec (.attestationRequest p nonce vf ks) s = .next t ∧ t = { s with rot := { s.rot with report := t.rot.report } } ∧
    let body := nonce ++ s.rot.measured.flatMap (fun m => natBe 48 m.toNat) ++ natLe 4 (s.podcfg.extractLsb' 0 20).toNat ++
      natLe 8 (s.pt p).partcfg.toNat ++ natLe 8 (s.pt p).pwrcfg.toNat
    let sign (k : BitVec 384) := ecdsaSign s.fuses.secret.toNat (sha384 body) k.toNat
    match ks.find? (fun k => decide ((sign k).r ≠ 0 ∧ (sign k).s ≠ 0)) with
    | none => t = s
    | some k => t.rot.report = body ++ natBe 48 (sign k).r.toNat ++ natBe 48 (sign k).s.toNat) ∧
  (∀ (s : State) (v : DWord) (p d c : Nat),
    exec (.registerWrite .foehn v) s = .next { s with foehn := kept v 0x0000FF3F#32 } ∧
    exec (.registerWrite .mlog v) s = .next { s with mlog := v &&& 0x000000FFFFFFF001 } ∧
    exec (.registerWrite .ptpDomain v) s = .next { s with ptpDomain := v.setWidth 7 } ∧
    exec (.registerWrite .schedulerId v) s = .next { s with lease := { s.lease with ident := v.setWidth 32 } } ∧
    (∃ t, exec (.registerWrite (.progq p) v) s = .next t ∧ onlyPart s t p (fun x => { x with progq := kept v 0x00FFFFFF#32 })) ∧
    (∃ t, exec (.registerWrite (.swctl p) v) s = .next t ∧ onlyPart s t p (fun x => { x with swctl := kept v 0x00FFFFFF#32 })) ∧
    (∃ t, exec (.registerWrite (.jobdir p) v) s = .next t ∧ onlyPart s t p (fun x => { x with jobdir := v &&& 0x000000FFFFFFF001 })) ∧
    (∃ t, exec (.registerWrite (.telem p) v) s = .next t ∧ onlyPart s t p (fun x => { x with telem := v &&& 0x000000FFFFFFF001 })) ∧
    (∃ t, exec (.registerWrite (.xlcmd d) v) s = .next t ∧ ((s.di d).xlcmd.getLsbD 61 = true → t = s) ∧
      ((s.di d).xlcmd.getLsbD 61 = false → t = { s with dies := t.dies } ∧ dieIs s t d (fun x => { x with
        xlcmd := v.extractLsb' 62 2 ++ BitVec.ofBool (v.extractLsb' 62 2 != 0) ++ v.extractLsb' 60 1 ++ 0#11 ++ v.extractLsb' 0 49 }))) ∧
    (∃ t, exec (.registerWrite (.poolcfg d) v) s = .next t ∧ t = { s with dies := t.dies } ∧
      dieIs s t d (fun x => { x with poolcfg := v &&& 0x00000FFFFF00FFFF })) ∧
    (∃ t, exec (.registerWrite (.clpwr c) v) s = .next t ∧ t = { s with clusters := t.clusters } ∧
      clusterIs s t c (fun x => { x with clpwr := v &&& 0xFFFFFFFFFFFFC000 })) ∧
    (∃ t, exec (.registerWrite (.clcal c) v) s = .next t ∧ t = { s with clusters := t.clusters } ∧
      clusterIs s t c (fun x => { x with clcal := v &&& 0xFFFFFFFF00000000 })) ∧
    (∃ t, exec (.registerWrite .podcfg v) s = .next t ∧ t = { s with podcfg := t.podcfg, ports := t.ports, peerReqs := t.peerReqs } ∧
      t.podcfg = (v.extractLsb' 32 32) ++ 0#12 ++ s.podcfg.extractLsb' 0 20 ∧ ∀ n, n < 16 →
        (t.po n).state = (if n = (s.podcfg.extractLsb' 0 4).toNat ∨ v.getLsbD (32 + n) = false then 0
          else if v.getLsbD (48 + n) = false then 5
          else if (s.po n).state = 0 ∨ (s.po n).state = 5 then 1 else (s.po n).state))) ∧
  (∀ (s : State) (u : EccUnit), let n := (corrections s u).length
    let h := s.eccOf u
    ∃ t, exec (.eccCorrection u) s = .next t ∧ (t.eccOf u).times = corrections s u ∧ t.slices = s.slices ∧
      (n < 16 → t.mem = s.mem) ∧
      ((16 ≤ n ∧ h.copying = false ∧ s.spareFree u = true ∧ ∀ d f, u ≠ .hbmFrame d f) →
        (t.eccOf u).spares = h.spares + 1 ∧ (t.eccOf u).copying = true) ∧
      (¬ (16 ≤ n ∧ h.copying = false ∧ s.spareFree u = true ∧ ∀ d f, u ≠ .hbmFrame d f) →
        (t.eccOf u).spares = h.spares ∧ (t.eccOf u).copying = h.copying)) ∧
  (∀ (s : State) (u : EccUnit), (s.eccOf u).copying = true → ∃ t, exec (.spareCopyDone u) s = .next t ∧ t = { s with ecc := t.ecc } ∧
    (t.eccOf u).copying = false ∧ (t.eccOf u).times = [] ∧ (t.eccOf u).spares = (s.eccOf u).spares) ∧
  (∀ (s : State) (a : HostAccess) (i : Instr), i ∈ [Instr.hostDieCoreAccess a, .externalHostAccess a] →
    s.rot.recovery = false ∨ i = .externalHostAccess a →
    (∀ d pa n, a = .load d pa n → d < 8 → pa + n ≤ 2 ^ 37 → n ≤ 8 → exec i s = .next { s with hostRead := BitVec.ofNat 64 (s.num (hbmKey d pa) n) }) ∧
    (∀ d pa bs, a = .store d pa bs → d < 8 → pa + bs.length ≤ 2 ^ 37 → clean s (hbmKey d pa) bs.length →
      ∃ t, exec i s = .next t ∧ storesOnly s t (hbmKey d pa) bs.length ∧ t.bytes (hbmKey d pa) bs.length = bs ∧ t.slices = s.slices) ∧
    (∀ op d pa v, d < 8 →
      (a = .amo op false d pa v → pa + 4 ≤ 2 ^ 37 → clean s (hbmKey d pa) 4 → ∃ t, exec i s = .next t ∧
        storesOnly s t (hbmKey d pa) 4 ∧ t.hostRead = (s.word (hbmKey d pa)).setWidth 64 ∧
        t.word (hbmKey d pa) = amoResult op (s.word (hbmKey d pa)) (v.extractLsb' 0 32)) ∧
      (a = .amo op true d pa v → pa + 8 ≤ 2 ^ 37 → clean s (hbmKey d pa) 8 → ∃ t, exec i s = .next t ∧
        storesOnly s t (hbmKey d pa) 8 ∧ t.hostRead = s.dword (hbmKey d pa) ∧
        t.dword (hbmKey d pa) = amoResult op (s.dword (hbmKey d pa)) v)) ∧
    (∀ hart wide d pa v, d < 8 → let n := if wide then 8 else 4
      pa + n ≤ 2 ^ 37 →
      (a = .loadReserved hart wide d pa → ∃ t, exec i s = .next t ∧ t = { s with hostRead := t.hostRead, hostRes := t.hostRes } ∧
        t.hostRead = BitVec.ofNat 64 (leNat (s.bytes (hbmKey d pa) n)) ∧ afind t.hostRes hart = some (hbmKey d pa, n, s.writeNo)) ∧
      (a = .storeConditional hart wide d pa v → ∃ t, exec i s = .next t ∧ afind t.hostRes hart = none ∧
        (∀ no, afind s.hostRes hart = some (hbmKey d pa, n, no) → s.writtenSince (hbmKey d pa) n no = false →
          clean s (hbmKey d pa) n → t.hostRead = 0 ∧ storesOnly s t (hbmKey d pa) n ∧
          leNat (t.bytes (hbmKey d pa) n) = v.toNat % 256 ^ n) ∧
        ((afind s.hostRes hart = none ∨ ∃ no, afind s.hostRes hart = some (hbmKey d pa, n, no) ∧
          s.writtenSince (hbmKey d pa) n no = true) → t.hostRead = 1 ∧ t.mem = s.mem))) ∧
    (a = .fenceAcq ∨ a = .fenceRel ∨ a = .fenceAr → exec i s = .next s)) ∧
  (∀ (s : State) (key : Nat) (rest : List Turn), s.agenda = .upsetMem key :: rest → let g := if key < 2 ^ 40 then 32 else 8
    ∃ t, step s = .next t ∧ t = { s with agenda := rest, freeNo := s.freeNo + 1, poisoned := t.poisoned } ∧
      ∀ j, t.byte j = if j / g = key / g then (0x7FC00001 : Word).extractLsb' (8 * (j % 4)) 8 else s.byte j) ∧
  ∀ (s : State) (k : Nat) (scalar : Bool) (reg lane : Nat) (rest : List Turn), s.agenda = .upsetReg k scalar reg lane :: rest →
    (afind s.slices k).isSome = true → ∃ t, step s = .next t ∧
      t = { s with agenda := rest, freeNo := s.freeNo + 1, slices := t.slices } ∧ (∀ j, j ≠ k → t.sl j = s.sl j) ∧
      t.sl k = { s.sl k with bad := (t.sl k).bad } ∧
      (∀ r, (t.sl k).sRd r = if scalar = true ∧ r / 2 = reg / 2 then ⟨0x7FC00001, true, true⟩ else (s.sl k).sRd r) ∧
      ∀ r l, (t.sl k).vRd r l = if scalar = false ∧ r = reg ∧ l / 2 = lane / 2 then ⟨0x7FC00001, true, true⟩ else (s.sl k).vRd r l

/-! ## The whole machine -/

/-- Every step keeps the canonical form of memory (log entry 3): addresses rising, no byte listed that reads as an unlisted one. -/
def Obligations.MemoryInvariant : Prop := ∀ s t : State, s.memOk → step s = .next t → t.memOk

/-- R207, R285, R308, R324, R334, R340, R343, R351, R354, R355, R363, R374, R377, R379, R383 to R386, R392, R393, R398, R403, R411, R427:
right after reset no team stands, no copy, matrix work or message is under way, the registers of the management window hold the reset
values of their maps, and the memory is in canonical form. TTEPOCH and PRESET STATE have no reset value in their maps: their 0 is the model's choice (log
entry 4), and so is the canonical form (log entry 3). -/
def Obligations.ResetValues : Prop :=
  let s := State.reset
  (∀ k, (s.sl k).done = true ∧ afind s.slices k = none ∧ afind s.teams k = none) ∧
  s.fars = [] ∧ s.copies = [] ∧ s.moves = [] ∧ s.entries = [] ∧ s.gangOps = [] ∧ s.wft = [] ∧ s.grids = [] ∧ s.launches = [] ∧
  s.recvs = [] ∧ s.sends = [] ∧ s.timetable = [] ∧ s.txStreams = [] ∧ s.rxStreams = [] ∧ s.memOk ∧ s.poisoned = [] ∧
  s.foehn = 0#16 ++ 1#4 ++ 1#4 ++ 0#2 ++ 8#6 ∧ s.timestat = 0#32 ++ 0#8 ++ 0xFF#8 ++ 0#13 ++ 0#3 ∧ s.ttepoch = 0 ∧ s.mlog = 0 ∧ s.mlogst = 0 ∧
  s.podcfg.extractLsb' 32 32 = 0 ∧ aget 0 s.socfg 0x10 = 0 ∧ aget 0 s.socfg 0x0D ++ aget 0 s.socfg 0x0C = 19542#16 ∧
  aget 0 s.socfg 0x0F ++ aget 0 s.socfg 0x0E = 1500#16 ∧
  (∀ p, (s.pt p).partcfg = 0#12 ++ 50#14 ++ 32#6 ++ 0#32 ∧ (s.pt p).pwrcfg = 100#16 ++ 0#3 ++ 4500#13 ++ 0#32 ∧
    (s.pt p).swctl = 0#8 ++ 20#8 ++ 10#8 ++ 70#8 ∧ (s.pt p).swstat = 0 ∧ (s.pt p).progq = 2000 ∧ (s.pt p).lsstat = 0 ∧
    (s.pt p).ltstat = 0 ∧ (s.pt p).urgcmd = 0 ∧ (s.pt p).jobdir = 0 ∧ (s.pt p).telem = 0 ∧ (s.pt p).preset = 0 ∧ (s.pt p).teamcmd = 0 ∧ (s.pt p).job = none ∧
    (s.pt p).switch = none ∧ (s.pt p).preq = false) ∧
  (∀ d, (s.di d).xlcmd = 0 ∧ (s.di d).wftstat = 0 ∧ (s.di d).poolcfg = 0 ∧ ∀ p, aget 0 (s.di d).wftspill p = 0 ∧
    aget 0 (s.di d).copyqos p = 0 ∧ aget 0 (s.di d).copyqst p = 0 ∧ aget 0 (s.di d).rxcfg p = 0) ∧
  (∀ c, (s.cl c).lent = 0 ∧ (s.cl c).borrower = 0 ∧ (s.cl c).clcal = 0 ∧ (s.cl c).copycmd = 0 ∧
    (s.cl c).clpwr = 64#8 ++ 16#8 ++ 160#8 ++ 2048#13 ++ 768#13 ++ 0#14 ∧
    ∀ k, k < 15 → (s.cl c).clwt.extractLsb' (8 * k) 8 =
      ([8, 20, 24, 32, 96, 16, 64, 80, 48, 72, 28, 40, 36, 44, 12] : List (BitVec 8)).getD k 0) ∧
  (∀ n, (s.po n).state = 0 ∧ (s.po n).width = 0 ∧ (s.po n).retry = 0 ∧ (s.po n).crcerr = 0) ∧
  (∀ g, (s.rg g).reg = 0#16 ++ 30#8 ++ 0#3 ++ 16#5) ∧ ∀ c, (s.co c).matSeq = 0 ∧ (s.co c).win = none
end

