-- ==== Sys2Proof/Laws/Store.lean ====
section
/-! SUPPORT. The laws of sparse maps, and of the memory: what a map or a byte reads as after each update, and that the
updates keep the canonical form. -/

namespace Sys2Proof.Machine

open Sys2Proof

variable {α : Type}

/-! ## Reading after an update -/

theorem afind_cons (j : Nat) (x : α) (r : Assoc α) (k : Nat) :
    afind ((j, x) :: r) k = if j = k then some x else afind r k := rfl

theorem afind_append (m r : Assoc α) (k : Nat) : afind (m ++ r) k = (afind m k).or (afind r k) := by
  induction m with
  | nil => rfl
  | cons e m ih =>
    rw [List.cons_append, afind_cons, ih, afind_cons]
    split <;> simp

theorem afind_aput_same (m : Assoc α) (k : Nat) (x : α) : afind (aput m k x) k = some x := by
  induction m with
  | nil => simp [aput, afind]
  | cons e m ih =>
    unfold aput
    split
    · next h => rw [afind_cons, if_neg (by omega), ih]
    · simp [afind]

theorem afind_aput_ne (m : Assoc α) {k j : Nat} (x : α) (h : j ≠ k) : afind (aput m k x) j = afind m j := by
  induction m with
  | nil => simp [aput, afind, Ne.symm h]
  | cons e m ih =>
    unfold aput
    split
    · rw [afind_cons, afind_cons, ih]
    · rw [afind_cons, if_neg (Ne.symm h)]
      split
      · next hk => rw [afind_cons, if_neg (hk ▸ Ne.symm h)]
      · rfl

/-- Reading a map after one entry is set. -/
theorem afind_aput (m : Assoc α) (k j : Nat) (x : α) : afind (aput m k x) j = if j = k then some x else afind m j := by
  split
  · next h => rw [h, afind_aput_same]
  · next h => exact afind_aput_ne m x h

/-- Reading a map after one entry is removed. -/
theorem afind_adel (m : Assoc α) (k j : Nat) : afind (adel m k) j = if j = k then none else afind m j := by
  induction m with
  | nil => simp [adel, afind]
  | cons e m ih =>
    unfold adel at ih ⊢
    obtain ⟨i, x⟩ := e
    by_cases h : i = k
    · rw [List.filter_cons_of_neg (by simp [h]), ih, afind_cons]
      split
      · rfl
      · next hj => rw [if_neg (fun hij => hj (hij.symm.trans h))]
    · rw [List.filter_cons_of_pos (by simp [h]), afind_cons, afind_cons, ih]
      by_cases hij : i = j
      · rw [if_pos hij, if_neg (fun hj => h (hij.trans hj)), if_pos hij]
      · rw [if_neg hij, if_neg hij]

theorem afind_amod (m : Assoc α) (k j : Nat) (f : α → α) :
    afind (amod m k f) j = if j = k then (afind m j).map f else afind m j := by
  induction m with
  | nil => simp [amod, afind]
  | cons e m ih =>
    unfold amod at ih ⊢
    rw [List.map_cons]
    by_cases h : e.1 = k <;> by_cases hj : e.1 = j <;> simp_all [afind]

theorem afind_amods (m : Assoc α) (ks : List Nat) (j : Nat) (f : α → α) :
    afind (amods m ks f) j = if j ∈ ks then (afind m j).map f else afind m j := by
  induction m with
  | nil => simp [amods, afind]
  | cons e m ih =>
    unfold amods at ih ⊢
    rw [List.map_cons]
    by_cases h : e.1 ∈ ks <;> by_cases hj : e.1 = j <;> simp_all [afind]

theorem aget_aput (d : α) (m : Assoc α) (k j : Nat) (x : α) : aget d (aput m k x) j = if j = k then x else aget d m j := by
  unfold aget
  rw [afind_aput]
  split <;> rfl

/-- Reading with a default after one entry is set: the value just set, the other entries as before. -/
theorem aget_aset [DecidableEq α] (d : α) (m : Assoc α) (k j : Nat) (x : α) :
    aget d (aset d m k x) j = if j = k then x else aget d m j := by
  unfold aset
  split
  · next h =>
    unfold aget
    rw [afind_adel]
    split
    · simp [h]
    · rfl
  · exact aget_aput d m k j x

theorem aget_aset_same [DecidableEq α] (d : α) (m : Assoc α) (k : Nat) (x : α) : aget d (aset d m k x) k = x := by
  rw [aget_aset, if_pos rfl]

theorem aget_aset_ne [DecidableEq α] (d : α) (m : Assoc α) {k j : Nat} (x : α) (h : j ≠ k) :
    aget d (aset d m k x) j = aget d m j := by
  rw [aget_aset, if_neg h]

theorem aget_nil (d : α) (k : Nat) : aget d ([] : Assoc α) k = d := rfl

/-! ## The canonical form -/

theorem aabove_iff (k : Nat) (m : Assoc α) : aabove k m = true ↔ ∀ e ∈ m, k < e.1 := by
  induction m with
  | nil => simp [aabove]
  | cons e m ih => simp [aabove, ih]

/-- The canonical form in words: keys strictly rising, no entry equal to the default. -/
theorem acanon_iff [DecidableEq α] (d : α) (m : Assoc α) :
    acanon d m = true ↔ m.Pairwise (fun a b => a.1 < b.1) ∧ ∀ e ∈ m, e.2 ≠ d := by
  induction m with
  | nil => simp [acanon]
  | cons e m ih =>
    simp only [acanon, Bool.and_eq_true, decide_eq_true_eq, aabove_iff, ih, List.pairwise_cons, List.mem_cons, forall_eq_or_imp]
    tauto

theorem acanon_filter [DecidableEq α] (d : α) (m : Assoc α) (p : Nat × α → Bool) (h : acanon d m = true) :
    acanon d (m.filter p) = true := by
  rw [acanon_iff] at h ⊢
  exact ⟨h.1.filter p, fun e he => h.2 e (List.mem_of_mem_filter he)⟩

theorem acanon_adel [DecidableEq α] (d : α) (m : Assoc α) (k : Nat) (h : acanon d m = true) : acanon d (adel m k) = true :=
  acanon_filter d m _ h

theorem aabove_aput (m : Assoc α) {b k : Nat} (x : α) (h : aabove b m = true) (hk : b < k) : aabove b (aput m k x) = true := by
  induction m with
  | nil => simp [aput, aabove, hk]
  | cons e m ih =>
    have h1 : b < e.1 ∧ aabove b m = true := by simpa [aabove] using h
    unfold aput
    split
    · simp [aabove, h1.1, ih h1.2]
    · split <;> simp [aabove, hk, h1]

theorem aabove_mono {b c : Nat} (m : Assoc α) (h : aabove c m = true) (hb : b < c) : aabove b m = true := by
  rw [aabove_iff] at h ⊢
  exact fun e he => lt_trans hb (h e he)

theorem acanon_aput [DecidableEq α] (d : α) (m : Assoc α) (k : Nat) (x : α) (hx : x ≠ d) (h : acanon d m = true) :
    acanon d (aput m k x) = true := by
  induction m with
  | nil => simp [aput, acanon, aabove, hx]
  | cons e m ih =>
    obtain ⟨⟨h1, h2⟩, h3⟩ : (e.2 ≠ d ∧ aabove e.1 m = true) ∧ acanon d m = true := by simpa [acanon] using h
    unfold aput
    split
    · next hk => simp [acanon, h1, ih h3, aabove_aput m x h2 hk]
    · split
      · next hk => simp [acanon, hx, hk ▸ h2, h3]
      · next hk hk' =>
        have hlt : k < e.1 := by omega
        simp [acanon, aabove, hx, h1, h2, h3, hlt, aabove_mono m h2 hlt]

theorem acanon_aset [DecidableEq α] (d : α) (m : Assoc α) (k : Nat) (x : α) (h : acanon d m = true) :
    acanon d (aset d m k x) = true := by
  unfold aset
  split
  · exact acanon_adel d m k h
  · next hx => exact acanon_aput d m k x hx h

/-- Two canonical maps that read alike everywhere are equal: the form is canonical. -/
theorem acanon_ext [DecidableEq α] (d : α) (m r : Assoc α) (hm : acanon d m = true) (hr : acanon d r = true)
    (h : ∀ k, aget d m k = aget d r k) : m = r := by
  have low : ∀ (q : Assoc α) (k : Nat), aabove k q = true → afind q k = none := by
    intro q
    induction q with
    | nil => intros; rfl
    | cons e q ih =>
      intro k hk
      have h1 : k < e.1 ∧ aabove k q = true := by simpa [aabove] using hk
      rw [afind_cons, if_neg (by omega), ih k h1.2]
  induction m generalizing r with
  | nil =>
    cases r with
    | nil => rfl
    | cons e r =>
      have h1 : (e.2 ≠ d ∧ aabove e.1 r = true) ∧ acanon d r = true := by simpa [acanon] using hr
      have h2 := h e.1
      simp only [aget, afind, if_true, Option.getD] at h2
      exact absurd h2.symm h1.1.1
  | cons a m ih =>
    obtain ⟨⟨a1, a2⟩, a3⟩ : (a.2 ≠ d ∧ aabove a.1 m = true) ∧ acanon d m = true := by simpa [acanon] using hm
    cases r with
    | nil =>
      have h2 := h a.1
      simp only [aget, afind, if_true, Option.getD] at h2
      exact absurd h2 a1
    | cons b r =>
      obtain ⟨⟨b1, b2⟩, b3⟩ : (b.2 ≠ d ∧ aabove b.1 r = true) ∧ acanon d r = true := by simpa [acanon] using hr
      have key : a.1 = b.1 := by
        rcases lt_trichotomy a.1 b.1 with hlt | heq | hlt
        · have h2 := h a.1
          rw [aget, aget, afind_cons, if_pos rfl, afind_cons, if_neg (by omega),
            low r a.1 (aabove_mono r b2 hlt)] at h2
          exact absurd h2 a1
        · exact heq
        · have h2 := h b.1
          rw [aget, aget, afind_cons, if_neg (by omega), low m b.1 (aabove_mono m a2 hlt), afind_cons, if_pos rfl] at h2
          exact absurd h2.symm b1
      have val : a.2 = b.2 := by
        have h2 := h a.1
        rw [aget, aget, afind_cons, if_pos rfl, afind_cons, if_pos key.symm] at h2
        exact h2
      have rest : m = r := ih r a3 b3 (fun k => by
        by_cases hk : a.1 = k
        · rw [aget, aget, low m k (hk ▸ a2), low r k (hk ▸ key ▸ b2)]
        · have h2 := h k
          rw [aget, aget, afind_cons, if_neg hk, afind_cons, if_neg (key ▸ hk)] at h2
          exact h2)
      rw [rest, Prod.ext key val]

/-! ## Memory -/

theorem putBytes_wf (m : List Host.Cell) (key : Nat) (bs : List Byte) (h : Memory.wf m = true) :
    Memory.wf (putBytes m key bs) = true := by
  induction bs generalizing m key with
  | nil => exact h
  | cons b bs ih => exact ih _ _ (acanon_aset unlisted m key b h)

/-- One byte after bytes were written from a key on: the byte written, or what it was. -/
theorem aget_putBytes (m : List Host.Cell) (key j : Nat) (bs : List Byte) :
    aget unlisted (putBytes m key bs) j = if key ≤ j ∧ j < key + bs.length then bs.getD (j - key) 0 else aget unlisted m j := by
  induction bs generalizing m key with
  | nil => simp [putBytes]
  | cons b bs ih =>
    rw [putBytes, ih, aget_aset]
    by_cases h : key + 1 ≤ j ∧ j < key + 1 + bs.length
    · rw [if_pos h, if_pos (by simp; omega), show j - key = j - (key + 1) + 1 by omega, List.getD_cons_succ]
    · rw [if_neg h]
      by_cases hj : j = key
      · subst hj; simp
      · rw [if_neg hj, if_neg (by simp; omega)]

theorem putMem_memOk (s : State) (key : Nat) (bs : List Byte) (h : Memory.wf s.mem = true) :
    Memory.wf (s.putMem key bs).mem = true := putBytes_wf s.mem key bs h

theorem putMem_rawByte (s : State) (key j : Nat) (bs : List Byte) :
    (s.putMem key bs).rawByte j = if key ≤ j ∧ j < key + bs.length then bs.getD (j - key) 0 else s.rawByte j :=
  aget_putBytes s.mem key j bs

theorem afind_adels (m : Assoc α) (ws : List Nat) (j : Nat) :
    afind (ws.foldl adel m) j = if j ∈ ws then none else afind m j := by
  induction ws generalizing m with
  | nil => simp
  | cons w ws ih =>
    rw [List.foldl_cons, ih, afind_adel]
    by_cases h : j = w <;> by_cases h' : j ∈ ws <;> simp [h, h']

theorem mem_wholeWords (key n w : Nat) : w ∈ wholeWords key n ↔ key ≤ 4 * w ∧ 4 * w + 4 ≤ key + n := by
  unfold wholeWords
  simp only [List.mem_filter, List.mem_map, List.mem_range, decide_eq_true_eq]
  constructor
  · rintro ⟨⟨i, -, rfl⟩, h⟩
    exact ⟨by omega, h⟩
  · rintro ⟨h1, h2⟩
    exact ⟨⟨w - (key + 3) / 4, by omega, by omega⟩, h2⟩

/-- Poison after a write: a word written whole is no longer poisoned, the others stay as they were (R292). -/
theorem putMem_isPoisoned (s : State) (key j : Nat) (bs : List Byte) :
    (s.putMem key bs).isPoisoned j =
      (s.isPoisoned j && !(decide (key ≤ 4 * (j / 4)) && decide (4 * (j / 4) + 4 ≤ key + bs.length))) := by
  simp only [State.isPoisoned, State.putMem]
  split
  · next h => simp [h, afind]
  · rw [afind_adels]
    by_cases hw : j / 4 ∈ wholeWords key bs.length
    · rw [if_pos hw]
      rw [mem_wholeWords] at hw
      simp [hw]
    · rw [if_neg hw]
      rw [mem_wholeWords] at hw
      have : (decide (key ≤ 4 * (j / 4)) && decide (4 * (j / 4) + 4 ≤ key + bs.length)) = false := by
        rw [Bool.and_eq_false_iff]
        simp only [decide_eq_false_iff_not]
        omega
      rw [this]; simp

/-- A byte outside the bytes written reads as before. -/
theorem putMem_byte_outside (s : State) (key j : Nat) (bs : List Byte) (h : ¬ (key ≤ j ∧ j < key + bs.length)) :
    (s.putMem key bs).byte j = s.byte j := by
  have hp : (s.putMem key bs).isPoisoned j = s.isPoisoned j := by
    rw [putMem_isPoisoned]
    have : (decide (key ≤ 4 * (j / 4)) && decide (4 * (j / 4) + 4 ≤ key + bs.length)) = false := by
      rw [Bool.and_eq_false_iff]
      simp only [decide_eq_false_iff_not]
      omega
    rw [this]; simp
  unfold State.byte
  rw [hp, putMem_rawByte, if_neg h]

/-- A byte that was written reads as written, unless it lies in a poisoned word that was written only in part. -/
theorem putMem_byte_inside (s : State) (key j : Nat) (bs : List Byte) (h : key ≤ j ∧ j < key + bs.length)
    (hp : s.isPoisoned j = false ∨ key ≤ 4 * (j / 4) ∧ 4 * (j / 4) + 4 ≤ key + bs.length) :
    (s.putMem key bs).byte j = bs.getD (j - key) 0 := by
  have : (s.putMem key bs).isPoisoned j = false := by
    rw [putMem_isPoisoned]
    rcases hp with hp | hp <;> simp [hp]
  unfold State.byte
  rw [this, putMem_rawByte, if_pos h]
  rfl

theorem natLe_length (n x : Nat) : (natLe n x).length = n := by simp [natLe]

theorem natLe_getD (n x i : Nat) (h : i < n) : (natLe n x).getD i 0 = BitVec.ofNat 8 (x / 256 ^ i) := by
  simp [natLe, List.getD, h]

theorem reset_memOk : Memory.wf State.reset.mem = true := rfl

end Sys2Proof.Machine
end

