-- ==== Sys2Proof/Laws/State.lean ====
section
/-! SUPPORT. What each field of the state is after each of the updates of Machine/Store.lean, one lemma for each field and
update, and what the records by key are. -/

namespace Sys2Proof.Machine

open Sys2Proof

variable (s : State)

/-! ## modSl -/

@[simp] theorem modSl_agenda (k : Nat) (f : Slice → Slice) : (s.modSl k f).agenda = s.agenda := rfl
@[simp] theorem modSl_turnNo (k : Nat) (f : Slice → Slice) : (s.modSl k f).turnNo = s.turnNo := rfl
@[simp] theorem modSl_freeNo (k : Nat) (f : Slice → Slice) : (s.modSl k f).freeNo = s.freeNo := rfl
@[simp] theorem modSl_cur (k : Nat) (f : Slice → Slice) : (s.modSl k f).cur = s.cur := rfl
@[simp] theorem modSl_nextId (k : Nat) (f : Slice → Slice) : (s.modSl k f).nextId = s.nextId := rfl
@[simp] theorem modSl_nextSeq (k : Nat) (f : Slice → Slice) : (s.modSl k f).nextSeq = s.nextSeq := rfl
@[simp] theorem modSl_mem (k : Nat) (f : Slice → Slice) : (s.modSl k f).mem = s.mem := rfl
@[simp] theorem modSl_poisoned (k : Nat) (f : Slice → Slice) : (s.modSl k f).poisoned = s.poisoned := rfl
@[simp] theorem modSl_overwritten (k : Nat) (f : Slice → Slice) : (s.modSl k f).overwritten = s.overwritten := rfl
@[simp] theorem modSl_writeNo (k : Nat) (f : Slice → Slice) : (s.modSl k f).writeNo = s.writeNo := rfl
@[simp] theorem modSl_cycle (k : Nat) (f : Slice → Slice) : (s.modSl k f).cycle = s.cycle := rfl
@[simp] theorem modSl_time (k : Nat) (f : Slice → Slice) : (s.modSl k f).time = s.time := rfl
@[simp] theorem modSl_increment (k : Nat) (f : Slice → Slice) : (s.modSl k f).increment = s.increment := rfl
@[simp] theorem modSl_timestat (k : Nat) (f : Slice → Slice) : (s.modSl k f).timestat = s.timestat := rfl
@[simp] theorem modSl_ptpDomain (k : Nat) (f : Slice → Slice) : (s.modSl k f).ptpDomain = s.ptpDomain := rfl
@[simp] theorem modSl_ptpPorts (k : Nat) (f : Slice → Slice) : (s.modSl k f).ptpPorts = s.ptpPorts := rfl
@[simp] theorem modSl_ptpFrames (k : Nat) (f : Slice → Slice) : (s.modSl k f).ptpFrames = s.ptpFrames := rfl
@[simp] theorem modSl_teams (k : Nat) (f : Slice → Slice) : (s.modSl k f).teams = s.teams := rfl
@[simp] theorem modSl_cores (k : Nat) (f : Slice → Slice) : (s.modSl k f).cores = s.cores := rfl
@[simp] theorem modSl_clusters (k : Nat) (f : Slice → Slice) : (s.modSl k f).clusters = s.clusters := rfl
@[simp] theorem modSl_dies (k : Nat) (f : Slice → Slice) : (s.modSl k f).dies = s.dies := rfl
@[simp] theorem modSl_parts (k : Nat) (f : Slice → Slice) : (s.modSl k f).parts = s.parts := rfl
@[simp] theorem modSl_fars (k : Nat) (f : Slice → Slice) : (s.modSl k f).fars = s.fars := rfl
@[simp] theorem modSl_copies (k : Nat) (f : Slice → Slice) : (s.modSl k f).copies = s.copies := rfl
@[simp] theorem modSl_moves (k : Nat) (f : Slice → Slice) : (s.modSl k f).moves = s.moves := rfl
@[simp] theorem modSl_entries (k : Nat) (f : Slice → Slice) : (s.modSl k f).entries = s.entries := rfl
@[simp] theorem modSl_gangOps (k : Nat) (f : Slice → Slice) : (s.modSl k f).gangOps = s.gangOps := rfl
@[simp] theorem modSl_batches (k : Nat) (f : Slice → Slice) : (s.modSl k f).batches = s.batches := rfl
@[simp] theorem modSl_denials (k : Nat) (f : Slice → Slice) : (s.modSl k f).denials = s.denials := rfl
@[simp] theorem modSl_wft (k : Nat) (f : Slice → Slice) : (s.modSl k f).wft = s.wft := rfl
@[simp] theorem modSl_walks (k : Nat) (f : Slice → Slice) : (s.modSl k f).walks = s.walks := rfl
@[simp] theorem modSl_grids (k : Nat) (f : Slice → Slice) : (s.modSl k f).grids = s.grids := rfl
@[simp] theorem modSl_launches (k : Nat) (f : Slice → Slice) : (s.modSl k f).launches = s.launches := rfl
@[simp] theorem modSl_saved (k : Nat) (f : Slice → Slice) : (s.modSl k f).saved = s.saved := rfl
@[simp] theorem modSl_kept (k : Nat) (f : Slice → Slice) : (s.modSl k f).kept = s.kept := rfl
@[simp] theorem modSl_recvs (k : Nat) (f : Slice → Slice) : (s.modSl k f).recvs = s.recvs := rfl
@[simp] theorem modSl_unexpected (k : Nat) (f : Slice → Slice) : (s.modSl k f).unexpected = s.unexpected := rfl
@[simp] theorem modSl_sends (k : Nat) (f : Slice → Slice) : (s.modSl k f).sends = s.sends := rfl
@[simp] theorem modSl_acked (k : Nat) (f : Slice → Slice) : (s.modSl k f).acked = s.acked := rfl
@[simp] theorem modSl_ecc (k : Nat) (f : Slice → Slice) : (s.modSl k f).ecc = s.ecc := rfl
@[simp] theorem modSl_timetable (k : Nat) (f : Slice → Slice) : (s.modSl k f).timetable = s.timetable := rfl
@[simp] theorem modSl_ttepoch (k : Nat) (f : Slice → Slice) : (s.modSl k f).ttepoch = s.ttepoch := rfl
@[simp] theorem modSl_lease (k : Nat) (f : Slice → Slice) : (s.modSl k f).lease = s.lease := rfl
@[simp] theorem modSl_foehn (k : Nat) (f : Slice → Slice) : (s.modSl k f).foehn = s.foehn := rfl
@[simp] theorem modSl_mlog (k : Nat) (f : Slice → Slice) : (s.modSl k f).mlog = s.mlog := rfl
@[simp] theorem modSl_mlogst (k : Nat) (f : Slice → Slice) : (s.modSl k f).mlogst = s.mlogst := rfl
@[simp] theorem modSl_podcfg (k : Nat) (f : Slice → Slice) : (s.modSl k f).podcfg = s.podcfg := rfl
@[simp] theorem modSl_socfg (k : Nat) (f : Slice → Slice) : (s.modSl k f).socfg = s.socfg := rfl
@[simp] theorem modSl_ethUp (k : Nat) (f : Slice → Slice) : (s.modSl k f).ethUp = s.ethUp := rfl
@[simp] theorem modSl_ports (k : Nat) (f : Slice → Slice) : (s.modSl k f).ports = s.ports := rfl
@[simp] theorem modSl_txStreams (k : Nat) (f : Slice → Slice) : (s.modSl k f).txStreams = s.txStreams := rfl
@[simp] theorem modSl_rxStreams (k : Nat) (f : Slice → Slice) : (s.modSl k f).rxStreams = s.rxStreams := rfl
@[simp] theorem modSl_peerReqs (k : Nat) (f : Slice → Slice) : (s.modSl k f).peerReqs = s.peerReqs := rfl
@[simp] theorem modSl_nextTxid (k : Nat) (f : Slice → Slice) : (s.modSl k f).nextTxid = s.nextTxid := rfl
@[simp] theorem modSl_outbox (k : Nat) (f : Slice → Slice) : (s.modSl k f).outbox = s.outbox := rfl
@[simp] theorem modSl_inbox (k : Nat) (f : Slice → Slice) : (s.modSl k f).inbox = s.inbox := rfl
@[simp] theorem modSl_dropped (k : Nat) (f : Slice → Slice) : (s.modSl k f).dropped = s.dropped := rfl
@[simp] theorem modSl_rgGroups (k : Nat) (f : Slice → Slice) : (s.modSl k f).rgGroups = s.rgGroups := rfl
@[simp] theorem modSl_rot (k : Nat) (f : Slice → Slice) : (s.modSl k f).rot = s.rot := rfl
@[simp] theorem modSl_fuses (k : Nat) (f : Slice → Slice) : (s.modSl k f).fuses = s.fuses := rfl
@[simp] theorem modSl_hostRead (k : Nat) (f : Slice → Slice) : (s.modSl k f).hostRead = s.hostRead := rfl
@[simp] theorem modSl_hostRes (k : Nat) (f : Slice → Slice) : (s.modSl k f).hostRes = s.hostRes := rfl
@[simp] theorem modSl_datagrams (k : Nat) (f : Slice → Slice) : (s.modSl k f).datagrams = s.datagrams := rfl

/-! ## modSls -/

@[simp] theorem modSls_agenda (ks : List Nat) (f : Slice → Slice) : (s.modSls ks f).agenda = s.agenda := rfl
@[simp] theorem modSls_turnNo (ks : List Nat) (f : Slice → Slice) : (s.modSls ks f).turnNo = s.turnNo := rfl
@[simp] theorem modSls_freeNo (ks : List Nat) (f : Slice → Slice) : (s.modSls ks f).freeNo = s.freeNo := rfl
@[simp] theorem modSls_cur (ks : List Nat) (f : Slice → Slice) : (s.modSls ks f).cur = s.cur := rfl
@[simp] theorem modSls_nextId (ks : List Nat) (f : Slice → Slice) : (s.modSls ks f).nextId = s.nextId := rfl
@[simp] theorem modSls_nextSeq (ks : List Nat) (f : Slice → Slice) : (s.modSls ks f).nextSeq = s.nextSeq := rfl
@[simp] theorem modSls_mem (ks : List Nat) (f : Slice → Slice) : (s.modSls ks f).mem = s.mem := rfl
@[simp] theorem modSls_poisoned (ks : List Nat) (f : Slice → Slice) : (s.modSls ks f).poisoned = s.poisoned := rfl
@[simp] theorem modSls_overwritten (ks : List Nat) (f : Slice → Slice) : (s.modSls ks f).overwritten = s.overwritten := rfl
@[simp] theorem modSls_writeNo (ks : List Nat) (f : Slice → Slice) : (s.modSls ks f).writeNo = s.writeNo := rfl
@[simp] theorem modSls_cycle (ks : List Nat) (f : Slice → Slice) : (s.modSls ks f).cycle = s.cycle := rfl
@[simp] theorem modSls_time (ks : List Nat) (f : Slice → Slice) : (s.modSls ks f).time = s.time := rfl
@[simp] theorem modSls_increment (ks : List Nat) (f : Slice → Slice) : (s.modSls ks f).increment = s.increment := rfl
@[simp] theorem modSls_timestat (ks : List Nat) (f : Slice → Slice) : (s.modSls ks f).timestat = s.timestat := rfl
@[simp] theorem modSls_ptpDomain (ks : List Nat) (f : Slice → Slice) : (s.modSls ks f).ptpDomain = s.ptpDomain := rfl
@[simp] theorem modSls_ptpPorts (ks : List Nat) (f : Slice → Slice) : (s.modSls ks f).ptpPorts = s.ptpPorts := rfl
@[simp] theorem modSls_ptpFrames (ks : List Nat) (f : Slice → Slice) : (s.modSls ks f).ptpFrames = s.ptpFrames := rfl
@[simp] theorem modSls_teams (ks : List Nat) (f : Slice → Slice) : (s.modSls ks f).teams = s.teams := rfl
@[simp] theorem modSls_cores (ks : List Nat) (f : Slice → Slice) : (s.modSls ks f).cores = s.cores := rfl
@[simp] theorem modSls_clusters (ks : List Nat) (f : Slice → Slice) : (s.modSls ks f).clusters = s.clusters := rfl
@[simp] theorem modSls_dies (ks : List Nat) (f : Slice → Slice) : (s.modSls ks f).dies = s.dies := rfl
@[simp] theorem modSls_parts (ks : List Nat) (f : Slice → Slice) : (s.modSls ks f).parts = s.parts := rfl
@[simp] theorem modSls_fars (ks : List Nat) (f : Slice → Slice) : (s.modSls ks f).fars = s.fars := rfl
@[simp] theorem modSls_copies (ks : List Nat) (f : Slice → Slice) : (s.modSls ks f).copies = s.copies := rfl
@[simp] theorem modSls_moves (ks : List Nat) (f : Slice → Slice) : (s.modSls ks f).moves = s.moves := rfl
@[simp] theorem modSls_entries (ks : List Nat) (f : Slice → Slice) : (s.modSls ks f).entries = s.entries := rfl
@[simp] theorem modSls_gangOps (ks : List Nat) (f : Slice → Slice) : (s.modSls ks f).gangOps = s.gangOps := rfl
@[simp] theorem modSls_batches (ks : List Nat) (f : Slice → Slice) : (s.modSls ks f).batches = s.batches := rfl
@[simp] theorem modSls_denials (ks : List Nat) (f : Slice → Slice) : (s.modSls ks f).denials = s.denials := rfl
@[simp] theorem modSls_wft (ks : List Nat) (f : Slice → Slice) : (s.modSls ks f).wft = s.wft := rfl
@[simp] theorem modSls_walks (ks : List Nat) (f : Slice → Slice) : (s.modSls ks f).walks = s.walks := rfl
@[simp] theorem modSls_grids (ks : List Nat) (f : Slice → Slice) : (s.modSls ks f).grids = s.grids := rfl
@[simp] theorem modSls_launches (ks : List Nat) (f : Slice → Slice) : (s.modSls ks f).launches = s.launches := rfl
@[simp] theorem modSls_saved (ks : List Nat) (f : Slice → Slice) : (s.modSls ks f).saved = s.saved := rfl
@[simp] theorem modSls_kept (ks : List Nat) (f : Slice → Slice) : (s.modSls ks f).kept = s.kept := rfl
@[simp] theorem modSls_recvs (ks : List Nat) (f : Slice → Slice) : (s.modSls ks f).recvs = s.recvs := rfl
@[simp] theorem modSls_unexpected (ks : List Nat) (f : Slice → Slice) : (s.modSls ks f).unexpected = s.unexpected := rfl
@[simp] theorem modSls_sends (ks : List Nat) (f : Slice → Slice) : (s.modSls ks f).sends = s.sends := rfl
@[simp] theorem modSls_acked (ks : List Nat) (f : Slice → Slice) : (s.modSls ks f).acked = s.acked := rfl
@[simp] theorem modSls_ecc (ks : List Nat) (f : Slice → Slice) : (s.modSls ks f).ecc = s.ecc := rfl
@[simp] theorem modSls_timetable (ks : List Nat) (f : Slice → Slice) : (s.modSls ks f).timetable = s.timetable := rfl
@[simp] theorem modSls_ttepoch (ks : List Nat) (f : Slice → Slice) : (s.modSls ks f).ttepoch = s.ttepoch := rfl
@[simp] theorem modSls_lease (ks : List Nat) (f : Slice → Slice) : (s.modSls ks f).lease = s.lease := rfl
@[simp] theorem modSls_foehn (ks : List Nat) (f : Slice → Slice) : (s.modSls ks f).foehn = s.foehn := rfl
@[simp] theorem modSls_mlog (ks : List Nat) (f : Slice → Slice) : (s.modSls ks f).mlog = s.mlog := rfl
@[simp] theorem modSls_mlogst (ks : List Nat) (f : Slice → Slice) : (s.modSls ks f).mlogst = s.mlogst := rfl
@[simp] theorem modSls_podcfg (ks : List Nat) (f : Slice → Slice) : (s.modSls ks f).podcfg = s.podcfg := rfl
@[simp] theorem modSls_socfg (ks : List Nat) (f : Slice → Slice) : (s.modSls ks f).socfg = s.socfg := rfl
@[simp] theorem modSls_ethUp (ks : List Nat) (f : Slice → Slice) : (s.modSls ks f).ethUp = s.ethUp := rfl
@[simp] theorem modSls_ports (ks : List Nat) (f : Slice → Slice) : (s.modSls ks f).ports = s.ports := rfl
@[simp] theorem modSls_txStreams (ks : List Nat) (f : Slice → Slice) : (s.modSls ks f).txStreams = s.txStreams := rfl
@[simp] theorem modSls_rxStreams (ks : List Nat) (f : Slice → Slice) : (s.modSls ks f).rxStreams = s.rxStreams := rfl
@[simp] theorem modSls_peerReqs (ks : List Nat) (f : Slice → Slice) : (s.modSls ks f).peerReqs = s.peerReqs := rfl
@[simp] theorem modSls_nextTxid (ks : List Nat) (f : Slice → Slice) : (s.modSls ks f).nextTxid = s.nextTxid := rfl
@[simp] theorem modSls_outbox (ks : List Nat) (f : Slice → Slice) : (s.modSls ks f).outbox = s.outbox := rfl
@[simp] theorem modSls_inbox (ks : List Nat) (f : Slice → Slice) : (s.modSls ks f).inbox = s.inbox := rfl
@[simp] theorem modSls_dropped (ks : List Nat) (f : Slice → Slice) : (s.modSls ks f).dropped = s.dropped := rfl
@[simp] theorem modSls_rgGroups (ks : List Nat) (f : Slice → Slice) : (s.modSls ks f).rgGroups = s.rgGroups := rfl
@[simp] theorem modSls_rot (ks : List Nat) (f : Slice → Slice) : (s.modSls ks f).rot = s.rot := rfl
@[simp] theorem modSls_fuses (ks : List Nat) (f : Slice → Slice) : (s.modSls ks f).fuses = s.fuses := rfl
@[simp] theorem modSls_hostRead (ks : List Nat) (f : Slice → Slice) : (s.modSls ks f).hostRead = s.hostRead := rfl
@[simp] theorem modSls_hostRes (ks : List Nat) (f : Slice → Slice) : (s.modSls ks f).hostRes = s.hostRes := rfl
@[simp] theorem modSls_datagrams (ks : List Nat) (f : Slice → Slice) : (s.modSls ks f).datagrams = s.datagrams := rfl

/-! ## modTm -/

@[simp] theorem modTm_agenda (k : Nat) (f : Team → Team) : (s.modTm k f).agenda = s.agenda := rfl
@[simp] theorem modTm_turnNo (k : Nat) (f : Team → Team) : (s.modTm k f).turnNo = s.turnNo := rfl
@[simp] theorem modTm_freeNo (k : Nat) (f : Team → Team) : (s.modTm k f).freeNo = s.freeNo := rfl
@[simp] theorem modTm_cur (k : Nat) (f : Team → Team) : (s.modTm k f).cur = s.cur := rfl
@[simp] theorem modTm_nextId (k : Nat) (f : Team → Team) : (s.modTm k f).nextId = s.nextId := rfl
@[simp] theorem modTm_nextSeq (k : Nat) (f : Team → Team) : (s.modTm k f).nextSeq = s.nextSeq := rfl
@[simp] theorem modTm_mem (k : Nat) (f : Team → Team) : (s.modTm k f).mem = s.mem := rfl
@[simp] theorem modTm_poisoned (k : Nat) (f : Team → Team) : (s.modTm k f).poisoned = s.poisoned := rfl
@[simp] theorem modTm_overwritten (k : Nat) (f : Team → Team) : (s.modTm k f).overwritten = s.overwritten := rfl
@[simp] theorem modTm_writeNo (k : Nat) (f : Team → Team) : (s.modTm k f).writeNo = s.writeNo := rfl
@[simp] theorem modTm_cycle (k : Nat) (f : Team → Team) : (s.modTm k f).cycle = s.cycle := rfl
@[simp] theorem modTm_time (k : Nat) (f : Team → Team) : (s.modTm k f).time = s.time := rfl
@[simp] theorem modTm_increment (k : Nat) (f : Team → Team) : (s.modTm k f).increment = s.increment := rfl
@[simp] theorem modTm_timestat (k : Nat) (f : Team → Team) : (s.modTm k f).timestat = s.timestat := rfl
@[simp] theorem modTm_ptpDomain (k : Nat) (f : Team → Team) : (s.modTm k f).ptpDomain = s.ptpDomain := rfl
@[simp] theorem modTm_ptpPorts (k : Nat) (f : Team → Team) : (s.modTm k f).ptpPorts = s.ptpPorts := rfl
@[simp] theorem modTm_ptpFrames (k : Nat) (f : Team → Team) : (s.modTm k f).ptpFrames = s.ptpFrames := rfl
@[simp] theorem modTm_slices (k : Nat) (f : Team → Team) : (s.modTm k f).slices = s.slices := rfl
@[simp] theorem modTm_cores (k : Nat) (f : Team → Team) : (s.modTm k f).cores = s.cores := rfl
@[simp] theorem modTm_clusters (k : Nat) (f : Team → Team) : (s.modTm k f).clusters = s.clusters := rfl
@[simp] theorem modTm_dies (k : Nat) (f : Team → Team) : (s.modTm k f).dies = s.dies := rfl
@[simp] theorem modTm_parts (k : Nat) (f : Team → Team) : (s.modTm k f).parts = s.parts := rfl
@[simp] theorem modTm_fars (k : Nat) (f : Team → Team) : (s.modTm k f).fars = s.fars := rfl
@[simp] theorem modTm_copies (k : Nat) (f : Team → Team) : (s.modTm k f).copies = s.copies := rfl
@[simp] theorem modTm_moves (k : Nat) (f : Team → Team) : (s.modTm k f).moves = s.moves := rfl
@[simp] theorem modTm_entries (k : Nat) (f : Team → Team) : (s.modTm k f).entries = s.entries := rfl
@[simp] theorem modTm_gangOps (k : Nat) (f : Team → Team) : (s.modTm k f).gangOps = s.gangOps := rfl
@[simp] theorem modTm_batches (k : Nat) (f : Team → Team) : (s.modTm k f).batches = s.batches := rfl
@[simp] theorem modTm_denials (k : Nat) (f : Team → Team) : (s.modTm k f).denials = s.denials := rfl
@[simp] theorem modTm_wft (k : Nat) (f : Team → Team) : (s.modTm k f).wft = s.wft := rfl
@[simp] theorem modTm_walks (k : Nat) (f : Team → Team) : (s.modTm k f).walks = s.walks := rfl
@[simp] theorem modTm_grids (k : Nat) (f : Team → Team) : (s.modTm k f).grids = s.grids := rfl
@[simp] theorem modTm_launches (k : Nat) (f : Team → Team) : (s.modTm k f).launches = s.launches := rfl
@[simp] theorem modTm_saved (k : Nat) (f : Team → Team) : (s.modTm k f).saved = s.saved := rfl
@[simp] theorem modTm_kept (k : Nat) (f : Team → Team) : (s.modTm k f).kept = s.kept := rfl
@[simp] theorem modTm_recvs (k : Nat) (f : Team → Team) : (s.modTm k f).recvs = s.recvs := rfl
@[simp] theorem modTm_unexpected (k : Nat) (f : Team → Team) : (s.modTm k f).unexpected = s.unexpected := rfl
@[simp] theorem modTm_sends (k : Nat) (f : Team → Team) : (s.modTm k f).sends = s.sends := rfl
@[simp] theorem modTm_acked (k : Nat) (f : Team → Team) : (s.modTm k f).acked = s.acked := rfl
@[simp] theorem modTm_ecc (k : Nat) (f : Team → Team) : (s.modTm k f).ecc = s.ecc := rfl
@[simp] theorem modTm_timetable (k : Nat) (f : Team → Team) : (s.modTm k f).timetable = s.timetable := rfl
@[simp] theorem modTm_ttepoch (k : Nat) (f : Team → Team) : (s.modTm k f).ttepoch = s.ttepoch := rfl
@[simp] theorem modTm_lease (k : Nat) (f : Team → Team) : (s.modTm k f).lease = s.lease := rfl
@[simp] theorem modTm_foehn (k : Nat) (f : Team → Team) : (s.modTm k f).foehn = s.foehn := rfl
@[simp] theorem modTm_mlog (k : Nat) (f : Team → Team) : (s.modTm k f).mlog = s.mlog := rfl
@[simp] theorem modTm_mlogst (k : Nat) (f : Team → Team) : (s.modTm k f).mlogst = s.mlogst := rfl
@[simp] theorem modTm_podcfg (k : Nat) (f : Team → Team) : (s.modTm k f).podcfg = s.podcfg := rfl
@[simp] theorem modTm_socfg (k : Nat) (f : Team → Team) : (s.modTm k f).socfg = s.socfg := rfl
@[simp] theorem modTm_ethUp (k : Nat) (f : Team → Team) : (s.modTm k f).ethUp = s.ethUp := rfl
@[simp] theorem modTm_ports (k : Nat) (f : Team → Team) : (s.modTm k f).ports = s.ports := rfl
@[simp] theorem modTm_txStreams (k : Nat) (f : Team → Team) : (s.modTm k f).txStreams = s.txStreams := rfl
@[simp] theorem modTm_rxStreams (k : Nat) (f : Team → Team) : (s.modTm k f).rxStreams = s.rxStreams := rfl
@[simp] theorem modTm_peerReqs (k : Nat) (f : Team → Team) : (s.modTm k f).peerReqs = s.peerReqs := rfl
@[simp] theorem modTm_nextTxid (k : Nat) (f : Team → Team) : (s.modTm k f).nextTxid = s.nextTxid := rfl
@[simp] theorem modTm_outbox (k : Nat) (f : Team → Team) : (s.modTm k f).outbox = s.outbox := rfl
@[simp] theorem modTm_inbox (k : Nat) (f : Team → Team) : (s.modTm k f).inbox = s.inbox := rfl
@[simp] theorem modTm_dropped (k : Nat) (f : Team → Team) : (s.modTm k f).dropped = s.dropped := rfl
@[simp] theorem modTm_rgGroups (k : Nat) (f : Team → Team) : (s.modTm k f).rgGroups = s.rgGroups := rfl
@[simp] theorem modTm_rot (k : Nat) (f : Team → Team) : (s.modTm k f).rot = s.rot := rfl
@[simp] theorem modTm_fuses (k : Nat) (f : Team → Team) : (s.modTm k f).fuses = s.fuses := rfl
@[simp] theorem modTm_hostRead (k : Nat) (f : Team → Team) : (s.modTm k f).hostRead = s.hostRead := rfl
@[simp] theorem modTm_hostRes (k : Nat) (f : Team → Team) : (s.modTm k f).hostRes = s.hostRes := rfl
@[simp] theorem modTm_datagrams (k : Nat) (f : Team → Team) : (s.modTm k f).datagrams = s.datagrams := rfl

/-! ## modCo -/

@[simp] theorem modCo_agenda (k : Nat) (f : Core → Core) : (s.modCo k f).agenda = s.agenda := rfl
@[simp] theorem modCo_turnNo (k : Nat) (f : Core → Core) : (s.modCo k f).turnNo = s.turnNo := rfl
@[simp] theorem modCo_freeNo (k : Nat) (f : Core → Core) : (s.modCo k f).freeNo = s.freeNo := rfl
@[simp] theorem modCo_cur (k : Nat) (f : Core → Core) : (s.modCo k f).cur = s.cur := rfl
@[simp] theorem modCo_nextId (k : Nat) (f : Core → Core) : (s.modCo k f).nextId = s.nextId := rfl
@[simp] theorem modCo_nextSeq (k : Nat) (f : Core → Core) : (s.modCo k f).nextSeq = s.nextSeq := rfl
@[simp] theorem modCo_mem (k : Nat) (f : Core → Core) : (s.modCo k f).mem = s.mem := rfl
@[simp] theorem modCo_poisoned (k : Nat) (f : Core → Core) : (s.modCo k f).poisoned = s.poisoned := rfl
@[simp] theorem modCo_overwritten (k : Nat) (f : Core → Core) : (s.modCo k f).overwritten = s.overwritten := rfl
@[simp] theorem modCo_writeNo (k : Nat) (f : Core → Core) : (s.modCo k f).writeNo = s.writeNo := rfl
@[simp] theorem modCo_cycle (k : Nat) (f : Core → Core) : (s.modCo k f).cycle = s.cycle := rfl
@[simp] theorem modCo_time (k : Nat) (f : Core → Core) : (s.modCo k f).time = s.time := rfl
@[simp] theorem modCo_increment (k : Nat) (f : Core → Core) : (s.modCo k f).increment = s.increment := rfl
@[simp] theorem modCo_timestat (k : Nat) (f : Core → Core) : (s.modCo k f).timestat = s.timestat := rfl
@[simp] theorem modCo_ptpDomain (k : Nat) (f : Core → Core) : (s.modCo k f).ptpDomain = s.ptpDomain := rfl
@[simp] theorem modCo_ptpPorts (k : Nat) (f : Core → Core) : (s.modCo k f).ptpPorts = s.ptpPorts := rfl
@[simp] theorem modCo_ptpFrames (k : Nat) (f : Core → Core) : (s.modCo k f).ptpFrames = s.ptpFrames := rfl
@[simp] theorem modCo_slices (k : Nat) (f : Core → Core) : (s.modCo k f).slices = s.slices := rfl
@[simp] theorem modCo_teams (k : Nat) (f : Core → Core) : (s.modCo k f).teams = s.teams := rfl
@[simp] theorem modCo_clusters (k : Nat) (f : Core → Core) : (s.modCo k f).clusters = s.clusters := rfl
@[simp] theorem modCo_dies (k : Nat) (f : Core → Core) : (s.modCo k f).dies = s.dies := rfl
@[simp] theorem modCo_parts (k : Nat) (f : Core → Core) : (s.modCo k f).parts = s.parts := rfl
@[simp] theorem modCo_fars (k : Nat) (f : Core → Core) : (s.modCo k f).fars = s.fars := rfl
@[simp] theorem modCo_copies (k : Nat) (f : Core → Core) : (s.modCo k f).copies = s.copies := rfl
@[simp] theorem modCo_moves (k : Nat) (f : Core → Core) : (s.modCo k f).moves = s.moves := rfl
@[simp] theorem modCo_entries (k : Nat) (f : Core → Core) : (s.modCo k f).entries = s.entries := rfl
@[simp] theorem modCo_gangOps (k : Nat) (f : Core → Core) : (s.modCo k f).gangOps = s.gangOps := rfl
@[simp] theorem modCo_batches (k : Nat) (f : Core → Core) : (s.modCo k f).batches = s.batches := rfl
@[simp] theorem modCo_denials (k : Nat) (f : Core → Core) : (s.modCo k f).denials = s.denials := rfl
@[simp] theorem modCo_wft (k : Nat) (f : Core → Core) : (s.modCo k f).wft = s.wft := rfl
@[simp] theorem modCo_walks (k : Nat) (f : Core → Core) : (s.modCo k f).walks = s.walks := rfl
@[simp] theorem modCo_grids (k : Nat) (f : Core → Core) : (s.modCo k f).grids = s.grids := rfl
@[simp] theorem modCo_launches (k : Nat) (f : Core → Core) : (s.modCo k f).launches = s.launches := rfl
@[simp] theorem modCo_saved (k : Nat) (f : Core → Core) : (s.modCo k f).saved = s.saved := rfl
@[simp] theorem modCo_kept (k : Nat) (f : Core → Core) : (s.modCo k f).kept = s.kept := rfl
@[simp] theorem modCo_recvs (k : Nat) (f : Core → Core) : (s.modCo k f).recvs = s.recvs := rfl
@[simp] theorem modCo_unexpected (k : Nat) (f : Core → Core) : (s.modCo k f).unexpected = s.unexpected := rfl
@[simp] theorem modCo_sends (k : Nat) (f : Core → Core) : (s.modCo k f).sends = s.sends := rfl
@[simp] theorem modCo_acked (k : Nat) (f : Core → Core) : (s.modCo k f).acked = s.acked := rfl
@[simp] theorem modCo_ecc (k : Nat) (f : Core → Core) : (s.modCo k f).ecc = s.ecc := rfl
@[simp] theorem modCo_timetable (k : Nat) (f : Core → Core) : (s.modCo k f).timetable = s.timetable := rfl
@[simp] theorem modCo_ttepoch (k : Nat) (f : Core → Core) : (s.modCo k f).ttepoch = s.ttepoch := rfl
@[simp] theorem modCo_lease (k : Nat) (f : Core → Core) : (s.modCo k f).lease = s.lease := rfl
@[simp] theorem modCo_foehn (k : Nat) (f : Core → Core) : (s.modCo k f).foehn = s.foehn := rfl
@[simp] theorem modCo_mlog (k : Nat) (f : Core → Core) : (s.modCo k f).mlog = s.mlog := rfl
@[simp] theorem modCo_mlogst (k : Nat) (f : Core → Core) : (s.modCo k f).mlogst = s.mlogst := rfl
@[simp] theorem modCo_podcfg (k : Nat) (f : Core → Core) : (s.modCo k f).podcfg = s.podcfg := rfl
@[simp] theorem modCo_socfg (k : Nat) (f : Core → Core) : (s.modCo k f).socfg = s.socfg := rfl
@[simp] theorem modCo_ethUp (k : Nat) (f : Core → Core) : (s.modCo k f).ethUp = s.ethUp := rfl
@[simp] theorem modCo_ports (k : Nat) (f : Core → Core) : (s.modCo k f).ports = s.ports := rfl
@[simp] theorem modCo_txStreams (k : Nat) (f : Core → Core) : (s.modCo k f).txStreams = s.txStreams := rfl
@[simp] theorem modCo_rxStreams (k : Nat) (f : Core → Core) : (s.modCo k f).rxStreams = s.rxStreams := rfl
@[simp] theorem modCo_peerReqs (k : Nat) (f : Core → Core) : (s.modCo k f).peerReqs = s.peerReqs := rfl
@[simp] theorem modCo_nextTxid (k : Nat) (f : Core → Core) : (s.modCo k f).nextTxid = s.nextTxid := rfl
@[simp] theorem modCo_outbox (k : Nat) (f : Core → Core) : (s.modCo k f).outbox = s.outbox := rfl
@[simp] theorem modCo_inbox (k : Nat) (f : Core → Core) : (s.modCo k f).inbox = s.inbox := rfl
@[simp] theorem modCo_dropped (k : Nat) (f : Core → Core) : (s.modCo k f).dropped = s.dropped := rfl
@[simp] theorem modCo_rgGroups (k : Nat) (f : Core → Core) : (s.modCo k f).rgGroups = s.rgGroups := rfl
@[simp] theorem modCo_rot (k : Nat) (f : Core → Core) : (s.modCo k f).rot = s.rot := rfl
@[simp] theorem modCo_fuses (k : Nat) (f : Core → Core) : (s.modCo k f).fuses = s.fuses := rfl
@[simp] theorem modCo_hostRead (k : Nat) (f : Core → Core) : (s.modCo k f).hostRead = s.hostRead := rfl
@[simp] theorem modCo_hostRes (k : Nat) (f : Core → Core) : (s.modCo k f).hostRes = s.hostRes := rfl
@[simp] theorem modCo_datagrams (k : Nat) (f : Core → Core) : (s.modCo k f).datagrams = s.datagrams := rfl

/-! ## modCl -/

@[simp] theorem modCl_agenda (k : Nat) (f : Cluster → Cluster) : (s.modCl k f).agenda = s.agenda := rfl
@[simp] theorem modCl_turnNo (k : Nat) (f : Cluster → Cluster) : (s.modCl k f).turnNo = s.turnNo := rfl
@[simp] theorem modCl_freeNo (k : Nat) (f : Cluster → Cluster) : (s.modCl k f).freeNo = s.freeNo := rfl
@[simp] theorem modCl_cur (k : Nat) (f : Cluster → Cluster) : (s.modCl k f).cur = s.cur := rfl
@[simp] theorem modCl_nextId (k : Nat) (f : Cluster → Cluster) : (s.modCl k f).nextId = s.nextId := rfl
@[simp] theorem modCl_nextSeq (k : Nat) (f : Cluster → Cluster) : (s.modCl k f).nextSeq = s.nextSeq := rfl
@[simp] theorem modCl_mem (k : Nat) (f : Cluster → Cluster) : (s.modCl k f).mem = s.mem := rfl
@[simp] theorem modCl_poisoned (k : Nat) (f : Cluster → Cluster) : (s.modCl k f).poisoned = s.poisoned := rfl
@[simp] theorem modCl_overwritten (k : Nat) (f : Cluster → Cluster) : (s.modCl k f).overwritten = s.overwritten := rfl
@[simp] theorem modCl_writeNo (k : Nat) (f : Cluster → Cluster) : (s.modCl k f).writeNo = s.writeNo := rfl
@[simp] theorem modCl_cycle (k : Nat) (f : Cluster → Cluster) : (s.modCl k f).cycle = s.cycle := rfl
@[simp] theorem modCl_time (k : Nat) (f : Cluster → Cluster) : (s.modCl k f).time = s.time := rfl
@[simp] theorem modCl_increment (k : Nat) (f : Cluster → Cluster) : (s.modCl k f).increment = s.increment := rfl
@[simp] theorem modCl_timestat (k : Nat) (f : Cluster → Cluster) : (s.modCl k f).timestat = s.timestat := rfl
@[simp] theorem modCl_ptpDomain (k : Nat) (f : Cluster → Cluster) : (s.modCl k f).ptpDomain = s.ptpDomain := rfl
@[simp] theorem modCl_ptpPorts (k : Nat) (f : Cluster → Cluster) : (s.modCl k f).ptpPorts = s.ptpPorts := rfl
@[simp] theorem modCl_ptpFrames (k : Nat) (f : Cluster → Cluster) : (s.modCl k f).ptpFrames = s.ptpFrames := rfl
@[simp] theorem modCl_slices (k : Nat) (f : Cluster → Cluster) : (s.modCl k f).slices = s.slices := rfl
@[simp] theorem modCl_teams (k : Nat) (f : Cluster → Cluster) : (s.modCl k f).teams = s.teams := rfl
@[simp] theorem modCl_cores (k : Nat) (f : Cluster → Cluster) : (s.modCl k f).cores = s.cores := rfl
@[simp] theorem modCl_dies (k : Nat) (f : Cluster → Cluster) : (s.modCl k f).dies = s.dies := rfl
@[simp] theorem modCl_parts (k : Nat) (f : Cluster → Cluster) : (s.modCl k f).parts = s.parts := rfl
@[simp] theorem modCl_fars (k : Nat) (f : Cluster → Cluster) : (s.modCl k f).fars = s.fars := rfl
@[simp] theorem modCl_copies (k : Nat) (f : Cluster → Cluster) : (s.modCl k f).copies = s.copies := rfl
@[simp] theorem modCl_moves (k : Nat) (f : Cluster → Cluster) : (s.modCl k f).moves = s.moves := rfl
@[simp] theorem modCl_entries (k : Nat) (f : Cluster → Cluster) : (s.modCl k f).entries = s.entries := rfl
@[simp] theorem modCl_gangOps (k : Nat) (f : Cluster → Cluster) : (s.modCl k f).gangOps = s.gangOps := rfl
@[simp] theorem modCl_batches (k : Nat) (f : Cluster → Cluster) : (s.modCl k f).batches = s.batches := rfl
@[simp] theorem modCl_denials (k : Nat) (f : Cluster → Cluster) : (s.modCl k f).denials = s.denials := rfl
@[simp] theorem modCl_wft (k : Nat) (f : Cluster → Cluster) : (s.modCl k f).wft = s.wft := rfl
@[simp] theorem modCl_walks (k : Nat) (f : Cluster → Cluster) : (s.modCl k f).walks = s.walks := rfl
@[simp] theorem modCl_grids (k : Nat) (f : Cluster → Cluster) : (s.modCl k f).grids = s.grids := rfl
@[simp] theorem modCl_launches (k : Nat) (f : Cluster → Cluster) : (s.modCl k f).launches = s.launches := rfl
@[simp] theorem modCl_saved (k : Nat) (f : Cluster → Cluster) : (s.modCl k f).saved = s.saved := rfl
@[simp] theorem modCl_kept (k : Nat) (f : Cluster → Cluster) : (s.modCl k f).kept = s.kept := rfl
@[simp] theorem modCl_recvs (k : Nat) (f : Cluster → Cluster) : (s.modCl k f).recvs = s.recvs := rfl
@[simp] theorem modCl_unexpected (k : Nat) (f : Cluster → Cluster) : (s.modCl k f).unexpected = s.unexpected := rfl
@[simp] theorem modCl_sends (k : Nat) (f : Cluster → Cluster) : (s.modCl k f).sends = s.sends := rfl
@[simp] theorem modCl_acked (k : Nat) (f : Cluster → Cluster) : (s.modCl k f).acked = s.acked := rfl
@[simp] theorem modCl_ecc (k : Nat) (f : Cluster → Cluster) : (s.modCl k f).ecc = s.ecc := rfl
@[simp] theorem modCl_timetable (k : Nat) (f : Cluster → Cluster) : (s.modCl k f).timetable = s.timetable := rfl
@[simp] theorem modCl_ttepoch (k : Nat) (f : Cluster → Cluster) : (s.modCl k f).ttepoch = s.ttepoch := rfl
@[simp] theorem modCl_lease (k : Nat) (f : Cluster → Cluster) : (s.modCl k f).lease = s.lease := rfl
@[simp] theorem modCl_foehn (k : Nat) (f : Cluster → Cluster) : (s.modCl k f).foehn = s.foehn := rfl
@[simp] theorem modCl_mlog (k : Nat) (f : Cluster → Cluster) : (s.modCl k f).mlog = s.mlog := rfl
@[simp] theorem modCl_mlogst (k : Nat) (f : Cluster → Cluster) : (s.modCl k f).mlogst = s.mlogst := rfl
@[simp] theorem modCl_podcfg (k : Nat) (f : Cluster → Cluster) : (s.modCl k f).podcfg = s.podcfg := rfl
@[simp] theorem modCl_socfg (k : Nat) (f : Cluster → Cluster) : (s.modCl k f).socfg = s.socfg := rfl
@[simp] theorem modCl_ethUp (k : Nat) (f : Cluster → Cluster) : (s.modCl k f).ethUp = s.ethUp := rfl
@[simp] theorem modCl_ports (k : Nat) (f : Cluster → Cluster) : (s.modCl k f).ports = s.ports := rfl
@[simp] theorem modCl_txStreams (k : Nat) (f : Cluster → Cluster) : (s.modCl k f).txStreams = s.txStreams := rfl
@[simp] theorem modCl_rxStreams (k : Nat) (f : Cluster → Cluster) : (s.modCl k f).rxStreams = s.rxStreams := rfl
@[simp] theorem modCl_peerReqs (k : Nat) (f : Cluster → Cluster) : (s.modCl k f).peerReqs = s.peerReqs := rfl
@[simp] theorem modCl_nextTxid (k : Nat) (f : Cluster → Cluster) : (s.modCl k f).nextTxid = s.nextTxid := rfl
@[simp] theorem modCl_outbox (k : Nat) (f : Cluster → Cluster) : (s.modCl k f).outbox = s.outbox := rfl
@[simp] theorem modCl_inbox (k : Nat) (f : Cluster → Cluster) : (s.modCl k f).inbox = s.inbox := rfl
@[simp] theorem modCl_dropped (k : Nat) (f : Cluster → Cluster) : (s.modCl k f).dropped = s.dropped := rfl
@[simp] theorem modCl_rgGroups (k : Nat) (f : Cluster → Cluster) : (s.modCl k f).rgGroups = s.rgGroups := rfl
@[simp] theorem modCl_rot (k : Nat) (f : Cluster → Cluster) : (s.modCl k f).rot = s.rot := rfl
@[simp] theorem modCl_fuses (k : Nat) (f : Cluster → Cluster) : (s.modCl k f).fuses = s.fuses := rfl
@[simp] theorem modCl_hostRead (k : Nat) (f : Cluster → Cluster) : (s.modCl k f).hostRead = s.hostRead := rfl
@[simp] theorem modCl_hostRes (k : Nat) (f : Cluster → Cluster) : (s.modCl k f).hostRes = s.hostRes := rfl
@[simp] theorem modCl_datagrams (k : Nat) (f : Cluster → Cluster) : (s.modCl k f).datagrams = s.datagrams := rfl

/-! ## modDi -/

@[simp] theorem modDi_agenda (k : Nat) (f : Die → Die) : (s.modDi k f).agenda = s.agenda := rfl
@[simp] theorem modDi_turnNo (k : Nat) (f : Die → Die) : (s.modDi k f).turnNo = s.turnNo := rfl
@[simp] theorem modDi_freeNo (k : Nat) (f : Die → Die) : (s.modDi k f).freeNo = s.freeNo := rfl
@[simp] theorem modDi_cur (k : Nat) (f : Die → Die) : (s.modDi k f).cur = s.cur := rfl
@[simp] theorem modDi_nextId (k : Nat) (f : Die → Die) : (s.modDi k f).nextId = s.nextId := rfl
@[simp] theorem modDi_nextSeq (k : Nat) (f : Die → Die) : (s.modDi k f).nextSeq = s.nextSeq := rfl
@[simp] theorem modDi_mem (k : Nat) (f : Die → Die) : (s.modDi k f).mem = s.mem := rfl
@[simp] theorem modDi_poisoned (k : Nat) (f : Die → Die) : (s.modDi k f).poisoned = s.poisoned := rfl
@[simp] theorem modDi_overwritten (k : Nat) (f : Die → Die) : (s.modDi k f).overwritten = s.overwritten := rfl
@[simp] theorem modDi_writeNo (k : Nat) (f : Die → Die) : (s.modDi k f).writeNo = s.writeNo := rfl
@[simp] theorem modDi_cycle (k : Nat) (f : Die → Die) : (s.modDi k f).cycle = s.cycle := rfl
@[simp] theorem modDi_time (k : Nat) (f : Die → Die) : (s.modDi k f).time = s.time := rfl
@[simp] theorem modDi_increment (k : Nat) (f : Die → Die) : (s.modDi k f).increment = s.increment := rfl
@[simp] theorem modDi_timestat (k : Nat) (f : Die → Die) : (s.modDi k f).timestat = s.timestat := rfl
@[simp] theorem modDi_ptpDomain (k : Nat) (f : Die → Die) : (s.modDi k f).ptpDomain = s.ptpDomain := rfl
@[simp] theorem modDi_ptpPorts (k : Nat) (f : Die → Die) : (s.modDi k f).ptpPorts = s.ptpPorts := rfl
@[simp] theorem modDi_ptpFrames (k : Nat) (f : Die → Die) : (s.modDi k f).ptpFrames = s.ptpFrames := rfl
@[simp] theorem modDi_slices (k : Nat) (f : Die → Die) : (s.modDi k f).slices = s.slices := rfl
@[simp] theorem modDi_teams (k : Nat) (f : Die → Die) : (s.modDi k f).teams = s.teams := rfl
@[simp] theorem modDi_cores (k : Nat) (f : Die → Die) : (s.modDi k f).cores = s.cores := rfl
@[simp] theorem modDi_clusters (k : Nat) (f : Die → Die) : (s.modDi k f).clusters = s.clusters := rfl
@[simp] theorem modDi_parts (k : Nat) (f : Die → Die) : (s.modDi k f).parts = s.parts := rfl
@[simp] theorem modDi_fars (k : Nat) (f : Die → Die) : (s.modDi k f).fars = s.fars := rfl
@[simp] theorem modDi_copies (k : Nat) (f : Die → Die) : (s.modDi k f).copies = s.copies := rfl
@[simp] theorem modDi_moves (k : Nat) (f : Die → Die) : (s.modDi k f).moves = s.moves := rfl
@[simp] theorem modDi_entries (k : Nat) (f : Die → Die) : (s.modDi k f).entries = s.entries := rfl
@[simp] theorem modDi_gangOps (k : Nat) (f : Die → Die) : (s.modDi k f).gangOps = s.gangOps := rfl
@[simp] theorem modDi_batches (k : Nat) (f : Die → Die) : (s.modDi k f).batches = s.batches := rfl
@[simp] theorem modDi_denials (k : Nat) (f : Die → Die) : (s.modDi k f).denials = s.denials := rfl
@[simp] theorem modDi_wft (k : Nat) (f : Die → Die) : (s.modDi k f).wft = s.wft := rfl
@[simp] theorem modDi_walks (k : Nat) (f : Die → Die) : (s.modDi k f).walks = s.walks := rfl
@[simp] theorem modDi_grids (k : Nat) (f : Die → Die) : (s.modDi k f).grids = s.grids := rfl
@[simp] theorem modDi_launches (k : Nat) (f : Die → Die) : (s.modDi k f).launches = s.launches := rfl
@[simp] theorem modDi_saved (k : Nat) (f : Die → Die) : (s.modDi k f).saved = s.saved := rfl
@[simp] theorem modDi_kept (k : Nat) (f : Die → Die) : (s.modDi k f).kept = s.kept := rfl
@[simp] theorem modDi_recvs (k : Nat) (f : Die → Die) : (s.modDi k f).recvs = s.recvs := rfl
@[simp] theorem modDi_unexpected (k : Nat) (f : Die → Die) : (s.modDi k f).unexpected = s.unexpected := rfl
@[simp] theorem modDi_sends (k : Nat) (f : Die → Die) : (s.modDi k f).sends = s.sends := rfl
@[simp] theorem modDi_acked (k : Nat) (f : Die → Die) : (s.modDi k f).acked = s.acked := rfl
@[simp] theorem modDi_ecc (k : Nat) (f : Die → Die) : (s.modDi k f).ecc = s.ecc := rfl
@[simp] theorem modDi_timetable (k : Nat) (f : Die → Die) : (s.modDi k f).timetable = s.timetable := rfl
@[simp] theorem modDi_ttepoch (k : Nat) (f : Die → Die) : (s.modDi k f).ttepoch = s.ttepoch := rfl
@[simp] theorem modDi_lease (k : Nat) (f : Die → Die) : (s.modDi k f).lease = s.lease := rfl
@[simp] theorem modDi_foehn (k : Nat) (f : Die → Die) : (s.modDi k f).foehn = s.foehn := rfl
@[simp] theorem modDi_mlog (k : Nat) (f : Die → Die) : (s.modDi k f).mlog = s.mlog := rfl
@[simp] theorem modDi_mlogst (k : Nat) (f : Die → Die) : (s.modDi k f).mlogst = s.mlogst := rfl
@[simp] theorem modDi_podcfg (k : Nat) (f : Die → Die) : (s.modDi k f).podcfg = s.podcfg := rfl
@[simp] theorem modDi_socfg (k : Nat) (f : Die → Die) : (s.modDi k f).socfg = s.socfg := rfl
@[simp] theorem modDi_ethUp (k : Nat) (f : Die → Die) : (s.modDi k f).ethUp = s.ethUp := rfl
@[simp] theorem modDi_ports (k : Nat) (f : Die → Die) : (s.modDi k f).ports = s.ports := rfl
@[simp] theorem modDi_txStreams (k : Nat) (f : Die → Die) : (s.modDi k f).txStreams = s.txStreams := rfl
@[simp] theorem modDi_rxStreams (k : Nat) (f : Die → Die) : (s.modDi k f).rxStreams = s.rxStreams := rfl
@[simp] theorem modDi_peerReqs (k : Nat) (f : Die → Die) : (s.modDi k f).peerReqs = s.peerReqs := rfl
@[simp] theorem modDi_nextTxid (k : Nat) (f : Die → Die) : (s.modDi k f).nextTxid = s.nextTxid := rfl
@[simp] theorem modDi_outbox (k : Nat) (f : Die → Die) : (s.modDi k f).outbox = s.outbox := rfl
@[simp] theorem modDi_inbox (k : Nat) (f : Die → Die) : (s.modDi k f).inbox = s.inbox := rfl
@[simp] theorem modDi_dropped (k : Nat) (f : Die → Die) : (s.modDi k f).dropped = s.dropped := rfl
@[simp] theorem modDi_rgGroups (k : Nat) (f : Die → Die) : (s.modDi k f).rgGroups = s.rgGroups := rfl
@[simp] theorem modDi_rot (k : Nat) (f : Die → Die) : (s.modDi k f).rot = s.rot := rfl
@[simp] theorem modDi_fuses (k : Nat) (f : Die → Die) : (s.modDi k f).fuses = s.fuses := rfl
@[simp] theorem modDi_hostRead (k : Nat) (f : Die → Die) : (s.modDi k f).hostRead = s.hostRead := rfl
@[simp] theorem modDi_hostRes (k : Nat) (f : Die → Die) : (s.modDi k f).hostRes = s.hostRes := rfl
@[simp] theorem modDi_datagrams (k : Nat) (f : Die → Die) : (s.modDi k f).datagrams = s.datagrams := rfl

/-! ## modPt -/

@[simp] theorem modPt_agenda (k : Nat) (f : Part → Part) : (s.modPt k f).agenda = s.agenda := rfl
@[simp] theorem modPt_turnNo (k : Nat) (f : Part → Part) : (s.modPt k f).turnNo = s.turnNo := rfl
@[simp] theorem modPt_freeNo (k : Nat) (f : Part → Part) : (s.modPt k f).freeNo = s.freeNo := rfl
@[simp] theorem modPt_cur (k : Nat) (f : Part → Part) : (s.modPt k f).cur = s.cur := rfl
@[simp] theorem modPt_nextId (k : Nat) (f : Part → Part) : (s.modPt k f).nextId = s.nextId := rfl
@[simp] theorem modPt_nextSeq (k : Nat) (f : Part → Part) : (s.modPt k f).nextSeq = s.nextSeq := rfl
@[simp] theorem modPt_mem (k : Nat) (f : Part → Part) : (s.modPt k f).mem = s.mem := rfl
@[simp] theorem modPt_poisoned (k : Nat) (f : Part → Part) : (s.modPt k f).poisoned = s.poisoned := rfl
@[simp] theorem modPt_overwritten (k : Nat) (f : Part → Part) : (s.modPt k f).overwritten = s.overwritten := rfl
@[simp] theorem modPt_writeNo (k : Nat) (f : Part → Part) : (s.modPt k f).writeNo = s.writeNo := rfl
@[simp] theorem modPt_cycle (k : Nat) (f : Part → Part) : (s.modPt k f).cycle = s.cycle := rfl
@[simp] theorem modPt_time (k : Nat) (f : Part → Part) : (s.modPt k f).time = s.time := rfl
@[simp] theorem modPt_increment (k : Nat) (f : Part → Part) : (s.modPt k f).increment = s.increment := rfl
@[simp] theorem modPt_timestat (k : Nat) (f : Part → Part) : (s.modPt k f).timestat = s.timestat := rfl
@[simp] theorem modPt_ptpDomain (k : Nat) (f : Part → Part) : (s.modPt k f).ptpDomain = s.ptpDomain := rfl
@[simp] theorem modPt_ptpPorts (k : Nat) (f : Part → Part) : (s.modPt k f).ptpPorts = s.ptpPorts := rfl
@[simp] theorem modPt_ptpFrames (k : Nat) (f : Part → Part) : (s.modPt k f).ptpFrames = s.ptpFrames := rfl
@[simp] theorem modPt_slices (k : Nat) (f : Part → Part) : (s.modPt k f).slices = s.slices := rfl
@[simp] theorem modPt_teams (k : Nat) (f : Part → Part) : (s.modPt k f).teams = s.teams := rfl
@[simp] theorem modPt_cores (k : Nat) (f : Part → Part) : (s.modPt k f).cores = s.cores := rfl
@[simp] theorem modPt_clusters (k : Nat) (f : Part → Part) : (s.modPt k f).clusters = s.clusters := rfl
@[simp] theorem modPt_dies (k : Nat) (f : Part → Part) : (s.modPt k f).dies = s.dies := rfl
@[simp] theorem modPt_fars (k : Nat) (f : Part → Part) : (s.modPt k f).fars = s.fars := rfl
@[simp] theorem modPt_copies (k : Nat) (f : Part → Part) : (s.modPt k f).copies = s.copies := rfl
@[simp] theorem modPt_moves (k : Nat) (f : Part → Part) : (s.modPt k f).moves = s.moves := rfl
@[simp] theorem modPt_entries (k : Nat) (f : Part → Part) : (s.modPt k f).entries = s.entries := rfl
@[simp] theorem modPt_gangOps (k : Nat) (f : Part → Part) : (s.modPt k f).gangOps = s.gangOps := rfl
@[simp] theorem modPt_batches (k : Nat) (f : Part → Part) : (s.modPt k f).batches = s.batches := rfl
@[simp] theorem modPt_denials (k : Nat) (f : Part → Part) : (s.modPt k f).denials = s.denials := rfl
@[simp] theorem modPt_wft (k : Nat) (f : Part → Part) : (s.modPt k f).wft = s.wft := rfl
@[simp] theorem modPt_walks (k : Nat) (f : Part → Part) : (s.modPt k f).walks = s.walks := rfl
@[simp] theorem modPt_grids (k : Nat) (f : Part → Part) : (s.modPt k f).grids = s.grids := rfl
@[simp] theorem modPt_launches (k : Nat) (f : Part → Part) : (s.modPt k f).launches = s.launches := rfl
@[simp] theorem modPt_saved (k : Nat) (f : Part → Part) : (s.modPt k f).saved = s.saved := rfl
@[simp] theorem modPt_kept (k : Nat) (f : Part → Part) : (s.modPt k f).kept = s.kept := rfl
@[simp] theorem modPt_recvs (k : Nat) (f : Part → Part) : (s.modPt k f).recvs = s.recvs := rfl
@[simp] theorem modPt_unexpected (k : Nat) (f : Part → Part) : (s.modPt k f).unexpected = s.unexpected := rfl
@[simp] theorem modPt_sends (k : Nat) (f : Part → Part) : (s.modPt k f).sends = s.sends := rfl
@[simp] theorem modPt_acked (k : Nat) (f : Part → Part) : (s.modPt k f).acked = s.acked := rfl
@[simp] theorem modPt_ecc (k : Nat) (f : Part → Part) : (s.modPt k f).ecc = s.ecc := rfl
@[simp] theorem modPt_timetable (k : Nat) (f : Part → Part) : (s.modPt k f).timetable = s.timetable := rfl
@[simp] theorem modPt_ttepoch (k : Nat) (f : Part → Part) : (s.modPt k f).ttepoch = s.ttepoch := rfl
@[simp] theorem modPt_lease (k : Nat) (f : Part → Part) : (s.modPt k f).lease = s.lease := rfl
@[simp] theorem modPt_foehn (k : Nat) (f : Part → Part) : (s.modPt k f).foehn = s.foehn := rfl
@[simp] theorem modPt_mlog (k : Nat) (f : Part → Part) : (s.modPt k f).mlog = s.mlog := rfl
@[simp] theorem modPt_mlogst (k : Nat) (f : Part → Part) : (s.modPt k f).mlogst = s.mlogst := rfl
@[simp] theorem modPt_podcfg (k : Nat) (f : Part → Part) : (s.modPt k f).podcfg = s.podcfg := rfl
@[simp] theorem modPt_socfg (k : Nat) (f : Part → Part) : (s.modPt k f).socfg = s.socfg := rfl
@[simp] theorem modPt_ethUp (k : Nat) (f : Part → Part) : (s.modPt k f).ethUp = s.ethUp := rfl
@[simp] theorem modPt_ports (k : Nat) (f : Part → Part) : (s.modPt k f).ports = s.ports := rfl
@[simp] theorem modPt_txStreams (k : Nat) (f : Part → Part) : (s.modPt k f).txStreams = s.txStreams := rfl
@[simp] theorem modPt_rxStreams (k : Nat) (f : Part → Part) : (s.modPt k f).rxStreams = s.rxStreams := rfl
@[simp] theorem modPt_peerReqs (k : Nat) (f : Part → Part) : (s.modPt k f).peerReqs = s.peerReqs := rfl
@[simp] theorem modPt_nextTxid (k : Nat) (f : Part → Part) : (s.modPt k f).nextTxid = s.nextTxid := rfl
@[simp] theorem modPt_outbox (k : Nat) (f : Part → Part) : (s.modPt k f).outbox = s.outbox := rfl
@[simp] theorem modPt_inbox (k : Nat) (f : Part → Part) : (s.modPt k f).inbox = s.inbox := rfl
@[simp] theorem modPt_dropped (k : Nat) (f : Part → Part) : (s.modPt k f).dropped = s.dropped := rfl
@[simp] theorem modPt_rgGroups (k : Nat) (f : Part → Part) : (s.modPt k f).rgGroups = s.rgGroups := rfl
@[simp] theorem modPt_rot (k : Nat) (f : Part → Part) : (s.modPt k f).rot = s.rot := rfl
@[simp] theorem modPt_fuses (k : Nat) (f : Part → Part) : (s.modPt k f).fuses = s.fuses := rfl
@[simp] theorem modPt_hostRead (k : Nat) (f : Part → Part) : (s.modPt k f).hostRead = s.hostRead := rfl
@[simp] theorem modPt_hostRes (k : Nat) (f : Part → Part) : (s.modPt k f).hostRes = s.hostRes := rfl
@[simp] theorem modPt_datagrams (k : Nat) (f : Part → Part) : (s.modPt k f).datagrams = s.datagrams := rfl

/-! ## modPo -/

@[simp] theorem modPo_agenda (k : Nat) (f : Port → Port) : (s.modPo k f).agenda = s.agenda := rfl
@[simp] theorem modPo_turnNo (k : Nat) (f : Port → Port) : (s.modPo k f).turnNo = s.turnNo := rfl
@[simp] theorem modPo_freeNo (k : Nat) (f : Port → Port) : (s.modPo k f).freeNo = s.freeNo := rfl
@[simp] theorem modPo_cur (k : Nat) (f : Port → Port) : (s.modPo k f).cur = s.cur := rfl
@[simp] theorem modPo_nextId (k : Nat) (f : Port → Port) : (s.modPo k f).nextId = s.nextId := rfl
@[simp] theorem modPo_nextSeq (k : Nat) (f : Port → Port) : (s.modPo k f).nextSeq = s.nextSeq := rfl
@[simp] theorem modPo_mem (k : Nat) (f : Port → Port) : (s.modPo k f).mem = s.mem := rfl
@[simp] theorem modPo_poisoned (k : Nat) (f : Port → Port) : (s.modPo k f).poisoned = s.poisoned := rfl
@[simp] theorem modPo_overwritten (k : Nat) (f : Port → Port) : (s.modPo k f).overwritten = s.overwritten := rfl
@[simp] theorem modPo_writeNo (k : Nat) (f : Port → Port) : (s.modPo k f).writeNo = s.writeNo := rfl
@[simp] theorem modPo_cycle (k : Nat) (f : Port → Port) : (s.modPo k f).cycle = s.cycle := rfl
@[simp] theorem modPo_time (k : Nat) (f : Port → Port) : (s.modPo k f).time = s.time := rfl
@[simp] theorem modPo_increment (k : Nat) (f : Port → Port) : (s.modPo k f).increment = s.increment := rfl
@[simp] theorem modPo_timestat (k : Nat) (f : Port → Port) : (s.modPo k f).timestat = s.timestat := rfl
@[simp] theorem modPo_ptpDomain (k : Nat) (f : Port → Port) : (s.modPo k f).ptpDomain = s.ptpDomain := rfl
@[simp] theorem modPo_ptpPorts (k : Nat) (f : Port → Port) : (s.modPo k f).ptpPorts = s.ptpPorts := rfl
@[simp] theorem modPo_ptpFrames (k : Nat) (f : Port → Port) : (s.modPo k f).ptpFrames = s.ptpFrames := rfl
@[simp] theorem modPo_slices (k : Nat) (f : Port → Port) : (s.modPo k f).slices = s.slices := rfl
@[simp] theorem modPo_teams (k : Nat) (f : Port → Port) : (s.modPo k f).teams = s.teams := rfl
@[simp] theorem modPo_cores (k : Nat) (f : Port → Port) : (s.modPo k f).cores = s.cores := rfl
@[simp] theorem modPo_clusters (k : Nat) (f : Port → Port) : (s.modPo k f).clusters = s.clusters := rfl
@[simp] theorem modPo_dies (k : Nat) (f : Port → Port) : (s.modPo k f).dies = s.dies := rfl
@[simp] theorem modPo_parts (k : Nat) (f : Port → Port) : (s.modPo k f).parts = s.parts := rfl
@[simp] theorem modPo_fars (k : Nat) (f : Port → Port) : (s.modPo k f).fars = s.fars := rfl
@[simp] theorem modPo_copies (k : Nat) (f : Port → Port) : (s.modPo k f).copies = s.copies := rfl
@[simp] theorem modPo_moves (k : Nat) (f : Port → Port) : (s.modPo k f).moves = s.moves := rfl
@[simp] theorem modPo_entries (k : Nat) (f : Port → Port) : (s.modPo k f).entries = s.entries := rfl
@[simp] theorem modPo_gangOps (k : Nat) (f : Port → Port) : (s.modPo k f).gangOps = s.gangOps := rfl
@[simp] theorem modPo_batches (k : Nat) (f : Port → Port) : (s.modPo k f).batches = s.batches := rfl
@[simp] theorem modPo_denials (k : Nat) (f : Port → Port) : (s.modPo k f).denials = s.denials := rfl
@[simp] theorem modPo_wft (k : Nat) (f : Port → Port) : (s.modPo k f).wft = s.wft := rfl
@[simp] theorem modPo_walks (k : Nat) (f : Port → Port) : (s.modPo k f).walks = s.walks := rfl
@[simp] theorem modPo_grids (k : Nat) (f : Port → Port) : (s.modPo k f).grids = s.grids := rfl
@[simp] theorem modPo_launches (k : Nat) (f : Port → Port) : (s.modPo k f).launches = s.launches := rfl
@[simp] theorem modPo_saved (k : Nat) (f : Port → Port) : (s.modPo k f).saved = s.saved := rfl
@[simp] theorem modPo_kept (k : Nat) (f : Port → Port) : (s.modPo k f).kept = s.kept := rfl
@[simp] theorem modPo_recvs (k : Nat) (f : Port → Port) : (s.modPo k f).recvs = s.recvs := rfl
@[simp] theorem modPo_unexpected (k : Nat) (f : Port → Port) : (s.modPo k f).unexpected = s.unexpected := rfl
@[simp] theorem modPo_sends (k : Nat) (f : Port → Port) : (s.modPo k f).sends = s.sends := rfl
@[simp] theorem modPo_acked (k : Nat) (f : Port → Port) : (s.modPo k f).acked = s.acked := rfl
@[simp] theorem modPo_ecc (k : Nat) (f : Port → Port) : (s.modPo k f).ecc = s.ecc := rfl
@[simp] theorem modPo_timetable (k : Nat) (f : Port → Port) : (s.modPo k f).timetable = s.timetable := rfl
@[simp] theorem modPo_ttepoch (k : Nat) (f : Port → Port) : (s.modPo k f).ttepoch = s.ttepoch := rfl
@[simp] theorem modPo_lease (k : Nat) (f : Port → Port) : (s.modPo k f).lease = s.lease := rfl
@[simp] theorem modPo_foehn (k : Nat) (f : Port → Port) : (s.modPo k f).foehn = s.foehn := rfl
@[simp] theorem modPo_mlog (k : Nat) (f : Port → Port) : (s.modPo k f).mlog = s.mlog := rfl
@[simp] theorem modPo_mlogst (k : Nat) (f : Port → Port) : (s.modPo k f).mlogst = s.mlogst := rfl
@[simp] theorem modPo_podcfg (k : Nat) (f : Port → Port) : (s.modPo k f).podcfg = s.podcfg := rfl
@[simp] theorem modPo_socfg (k : Nat) (f : Port → Port) : (s.modPo k f).socfg = s.socfg := rfl
@[simp] theorem modPo_ethUp (k : Nat) (f : Port → Port) : (s.modPo k f).ethUp = s.ethUp := rfl
@[simp] theorem modPo_txStreams (k : Nat) (f : Port → Port) : (s.modPo k f).txStreams = s.txStreams := rfl
@[simp] theorem modPo_rxStreams (k : Nat) (f : Port → Port) : (s.modPo k f).rxStreams = s.rxStreams := rfl
@[simp] theorem modPo_peerReqs (k : Nat) (f : Port → Port) : (s.modPo k f).peerReqs = s.peerReqs := rfl
@[simp] theorem modPo_nextTxid (k : Nat) (f : Port → Port) : (s.modPo k f).nextTxid = s.nextTxid := rfl
@[simp] theorem modPo_outbox (k : Nat) (f : Port → Port) : (s.modPo k f).outbox = s.outbox := rfl
@[simp] theorem modPo_inbox (k : Nat) (f : Port → Port) : (s.modPo k f).inbox = s.inbox := rfl
@[simp] theorem modPo_dropped (k : Nat) (f : Port → Port) : (s.modPo k f).dropped = s.dropped := rfl
@[simp] theorem modPo_rgGroups (k : Nat) (f : Port → Port) : (s.modPo k f).rgGroups = s.rgGroups := rfl
@[simp] theorem modPo_rot (k : Nat) (f : Port → Port) : (s.modPo k f).rot = s.rot := rfl
@[simp] theorem modPo_fuses (k : Nat) (f : Port → Port) : (s.modPo k f).fuses = s.fuses := rfl
@[simp] theorem modPo_hostRead (k : Nat) (f : Port → Port) : (s.modPo k f).hostRead = s.hostRead := rfl
@[simp] theorem modPo_hostRes (k : Nat) (f : Port → Port) : (s.modPo k f).hostRes = s.hostRes := rfl
@[simp] theorem modPo_datagrams (k : Nat) (f : Port → Port) : (s.modPo k f).datagrams = s.datagrams := rfl

/-! ## modPtp -/

@[simp] theorem modPtp_agenda (k : Nat) (f : PtpPort → PtpPort) : (s.modPtp k f).agenda = s.agenda := rfl
@[simp] theorem modPtp_turnNo (k : Nat) (f : PtpPort → PtpPort) : (s.modPtp k f).turnNo = s.turnNo := rfl
@[simp] theorem modPtp_freeNo (k : Nat) (f : PtpPort → PtpPort) : (s.modPtp k f).freeNo = s.freeNo := rfl
@[simp] theorem modPtp_cur (k : Nat) (f : PtpPort → PtpPort) : (s.modPtp k f).cur = s.cur := rfl
@[simp] theorem modPtp_nextId (k : Nat) (f : PtpPort → PtpPort) : (s.modPtp k f).nextId = s.nextId := rfl
@[simp] theorem modPtp_nextSeq (k : Nat) (f : PtpPort → PtpPort) : (s.modPtp k f).nextSeq = s.nextSeq := rfl
@[simp] theorem modPtp_mem (k : Nat) (f : PtpPort → PtpPort) : (s.modPtp k f).mem = s.mem := rfl
@[simp] theorem modPtp_poisoned (k : Nat) (f : PtpPort → PtpPort) : (s.modPtp k f).poisoned = s.poisoned := rfl
@[simp] theorem modPtp_overwritten (k : Nat) (f : PtpPort → PtpPort) : (s.modPtp k f).overwritten = s.overwritten := rfl
@[simp] theorem modPtp_writeNo (k : Nat) (f : PtpPort → PtpPort) : (s.modPtp k f).writeNo = s.writeNo := rfl
@[simp] theorem modPtp_cycle (k : Nat) (f : PtpPort → PtpPort) : (s.modPtp k f).cycle = s.cycle := rfl
@[simp] theorem modPtp_time (k : Nat) (f : PtpPort → PtpPort) : (s.modPtp k f).time = s.time := rfl
@[simp] theorem modPtp_increment (k : Nat) (f : PtpPort → PtpPort) : (s.modPtp k f).increment = s.increment := rfl
@[simp] theorem modPtp_timestat (k : Nat) (f : PtpPort → PtpPort) : (s.modPtp k f).timestat = s.timestat := rfl
@[simp] theorem modPtp_ptpDomain (k : Nat) (f : PtpPort → PtpPort) : (s.modPtp k f).ptpDomain = s.ptpDomain := rfl
@[simp] theorem modPtp_ptpFrames (k : Nat) (f : PtpPort → PtpPort) : (s.modPtp k f).ptpFrames = s.ptpFrames := rfl
@[simp] theorem modPtp_slices (k : Nat) (f : PtpPort → PtpPort) : (s.modPtp k f).slices = s.slices := rfl
@[simp] theorem modPtp_teams (k : Nat) (f : PtpPort → PtpPort) : (s.modPtp k f).teams = s.teams := rfl
@[simp] theorem modPtp_cores (k : Nat) (f : PtpPort → PtpPort) : (s.modPtp k f).cores = s.cores := rfl
@[simp] theorem modPtp_clusters (k : Nat) (f : PtpPort → PtpPort) : (s.modPtp k f).clusters = s.clusters := rfl
@[simp] theorem modPtp_dies (k : Nat) (f : PtpPort → PtpPort) : (s.modPtp k f).dies = s.dies := rfl
@[simp] theorem modPtp_parts (k : Nat) (f : PtpPort → PtpPort) : (s.modPtp k f).parts = s.parts := rfl
@[simp] theorem modPtp_fars (k : Nat) (f : PtpPort → PtpPort) : (s.modPtp k f).fars = s.fars := rfl
@[simp] theorem modPtp_copies (k : Nat) (f : PtpPort → PtpPort) : (s.modPtp k f).copies = s.copies := rfl
@[simp] theorem modPtp_moves (k : Nat) (f : PtpPort → PtpPort) : (s.modPtp k f).moves = s.moves := rfl
@[simp] theorem modPtp_entries (k : Nat) (f : PtpPort → PtpPort) : (s.modPtp k f).entries = s.entries := rfl
@[simp] theorem modPtp_gangOps (k : Nat) (f : PtpPort → PtpPort) : (s.modPtp k f).gangOps = s.gangOps := rfl
@[simp] theorem modPtp_batches (k : Nat) (f : PtpPort → PtpPort) : (s.modPtp k f).batches = s.batches := rfl
@[simp] theorem modPtp_denials (k : Nat) (f : PtpPort → PtpPort) : (s.modPtp k f).denials = s.denials := rfl
@[simp] theorem modPtp_wft (k : Nat) (f : PtpPort → PtpPort) : (s.modPtp k f).wft = s.wft := rfl
@[simp] theorem modPtp_walks (k : Nat) (f : PtpPort → PtpPort) : (s.modPtp k f).walks = s.walks := rfl
@[simp] theorem modPtp_grids (k : Nat) (f : PtpPort → PtpPort) : (s.modPtp k f).grids = s.grids := rfl
@[simp] theorem modPtp_launches (k : Nat) (f : PtpPort → PtpPort) : (s.modPtp k f).launches = s.launches := rfl
@[simp] theorem modPtp_saved (k : Nat) (f : PtpPort → PtpPort) : (s.modPtp k f).saved = s.saved := rfl
@[simp] theorem modPtp_kept (k : Nat) (f : PtpPort → PtpPort) : (s.modPtp k f).kept = s.kept := rfl
@[simp] theorem modPtp_recvs (k : Nat) (f : PtpPort → PtpPort) : (s.modPtp k f).recvs = s.recvs := rfl
@[simp] theorem modPtp_unexpected (k : Nat) (f : PtpPort → PtpPort) : (s.modPtp k f).unexpected = s.unexpected := rfl
@[simp] theorem modPtp_sends (k : Nat) (f : PtpPort → PtpPort) : (s.modPtp k f).sends = s.sends := rfl
@[simp] theorem modPtp_acked (k : Nat) (f : PtpPort → PtpPort) : (s.modPtp k f).acked = s.acked := rfl
@[simp] theorem modPtp_ecc (k : Nat) (f : PtpPort → PtpPort) : (s.modPtp k f).ecc = s.ecc := rfl
@[simp] theorem modPtp_timetable (k : Nat) (f : PtpPort → PtpPort) : (s.modPtp k f).timetable = s.timetable := rfl
@[simp] theorem modPtp_ttepoch (k : Nat) (f : PtpPort → PtpPort) : (s.modPtp k f).ttepoch = s.ttepoch := rfl
@[simp] theorem modPtp_lease (k : Nat) (f : PtpPort → PtpPort) : (s.modPtp k f).lease = s.lease := rfl
@[simp] theorem modPtp_foehn (k : Nat) (f : PtpPort → PtpPort) : (s.modPtp k f).foehn = s.foehn := rfl
@[simp] theorem modPtp_mlog (k : Nat) (f : PtpPort → PtpPort) : (s.modPtp k f).mlog = s.mlog := rfl
@[simp] theorem modPtp_mlogst (k : Nat) (f : PtpPort → PtpPort) : (s.modPtp k f).mlogst = s.mlogst := rfl
@[simp] theorem modPtp_podcfg (k : Nat) (f : PtpPort → PtpPort) : (s.modPtp k f).podcfg = s.podcfg := rfl
@[simp] theorem modPtp_socfg (k : Nat) (f : PtpPort → PtpPort) : (s.modPtp k f).socfg = s.socfg := rfl
@[simp] theorem modPtp_ethUp (k : Nat) (f : PtpPort → PtpPort) : (s.modPtp k f).ethUp = s.ethUp := rfl
@[simp] theorem modPtp_ports (k : Nat) (f : PtpPort → PtpPort) : (s.modPtp k f).ports = s.ports := rfl
@[simp] theorem modPtp_txStreams (k : Nat) (f : PtpPort → PtpPort) : (s.modPtp k f).txStreams = s.txStreams := rfl
@[simp] theorem modPtp_rxStreams (k : Nat) (f : PtpPort → PtpPort) : (s.modPtp k f).rxStreams = s.rxStreams := rfl
@[simp] theorem modPtp_peerReqs (k : Nat) (f : PtpPort → PtpPort) : (s.modPtp k f).peerReqs = s.peerReqs := rfl
@[simp] theorem modPtp_nextTxid (k : Nat) (f : PtpPort → PtpPort) : (s.modPtp k f).nextTxid = s.nextTxid := rfl
@[simp] theorem modPtp_outbox (k : Nat) (f : PtpPort → PtpPort) : (s.modPtp k f).outbox = s.outbox := rfl
@[simp] theorem modPtp_inbox (k : Nat) (f : PtpPort → PtpPort) : (s.modPtp k f).inbox = s.inbox := rfl
@[simp] theorem modPtp_dropped (k : Nat) (f : PtpPort → PtpPort) : (s.modPtp k f).dropped = s.dropped := rfl
@[simp] theorem modPtp_rgGroups (k : Nat) (f : PtpPort → PtpPort) : (s.modPtp k f).rgGroups = s.rgGroups := rfl
@[simp] theorem modPtp_rot (k : Nat) (f : PtpPort → PtpPort) : (s.modPtp k f).rot = s.rot := rfl
@[simp] theorem modPtp_fuses (k : Nat) (f : PtpPort → PtpPort) : (s.modPtp k f).fuses = s.fuses := rfl
@[simp] theorem modPtp_hostRead (k : Nat) (f : PtpPort → PtpPort) : (s.modPtp k f).hostRead = s.hostRead := rfl
@[simp] theorem modPtp_hostRes (k : Nat) (f : PtpPort → PtpPort) : (s.modPtp k f).hostRes = s.hostRes := rfl
@[simp] theorem modPtp_datagrams (k : Nat) (f : PtpPort → PtpPort) : (s.modPtp k f).datagrams = s.datagrams := rfl

/-! ## modRg -/

@[simp] theorem modRg_agenda (k : Nat) (f : RgGroup → RgGroup) : (s.modRg k f).agenda = s.agenda := rfl
@[simp] theorem modRg_turnNo (k : Nat) (f : RgGroup → RgGroup) : (s.modRg k f).turnNo = s.turnNo := rfl
@[simp] theorem modRg_freeNo (k : Nat) (f : RgGroup → RgGroup) : (s.modRg k f).freeNo = s.freeNo := rfl
@[simp] theorem modRg_cur (k : Nat) (f : RgGroup → RgGroup) : (s.modRg k f).cur = s.cur := rfl
@[simp] theorem modRg_nextId (k : Nat) (f : RgGroup → RgGroup) : (s.modRg k f).nextId = s.nextId := rfl
@[simp] theorem modRg_nextSeq (k : Nat) (f : RgGroup → RgGroup) : (s.modRg k f).nextSeq = s.nextSeq := rfl
@[simp] theorem modRg_mem (k : Nat) (f : RgGroup → RgGroup) : (s.modRg k f).mem = s.mem := rfl
@[simp] theorem modRg_poisoned (k : Nat) (f : RgGroup → RgGroup) : (s.modRg k f).poisoned = s.poisoned := rfl
@[simp] theorem modRg_overwritten (k : Nat) (f : RgGroup → RgGroup) : (s.modRg k f).overwritten = s.overwritten := rfl
@[simp] theorem modRg_writeNo (k : Nat) (f : RgGroup → RgGroup) : (s.modRg k f).writeNo = s.writeNo := rfl
@[simp] theorem modRg_cycle (k : Nat) (f : RgGroup → RgGroup) : (s.modRg k f).cycle = s.cycle := rfl
@[simp] theorem modRg_time (k : Nat) (f : RgGroup → RgGroup) : (s.modRg k f).time = s.time := rfl
@[simp] theorem modRg_increment (k : Nat) (f : RgGroup → RgGroup) : (s.modRg k f).increment = s.increment := rfl
@[simp] theorem modRg_timestat (k : Nat) (f : RgGroup → RgGroup) : (s.modRg k f).timestat = s.timestat := rfl
@[simp] theorem modRg_ptpDomain (k : Nat) (f : RgGroup → RgGroup) : (s.modRg k f).ptpDomain = s.ptpDomain := rfl
@[simp] theorem modRg_ptpPorts (k : Nat) (f : RgGroup → RgGroup) : (s.modRg k f).ptpPorts = s.ptpPorts := rfl
@[simp] theorem modRg_ptpFrames (k : Nat) (f : RgGroup → RgGroup) : (s.modRg k f).ptpFrames = s.ptpFrames := rfl
@[simp] theorem modRg_slices (k : Nat) (f : RgGroup → RgGroup) : (s.modRg k f).slices = s.slices := rfl
@[simp] theorem modRg_teams (k : Nat) (f : RgGroup → RgGroup) : (s.modRg k f).teams = s.teams := rfl
@[simp] theorem modRg_cores (k : Nat) (f : RgGroup → RgGroup) : (s.modRg k f).cores = s.cores := rfl
@[simp] theorem modRg_clusters (k : Nat) (f : RgGroup → RgGroup) : (s.modRg k f).clusters = s.clusters := rfl
@[simp] theorem modRg_dies (k : Nat) (f : RgGroup → RgGroup) : (s.modRg k f).dies = s.dies := rfl
@[simp] theorem modRg_parts (k : Nat) (f : RgGroup → RgGroup) : (s.modRg k f).parts = s.parts := rfl
@[simp] theorem modRg_fars (k : Nat) (f : RgGroup → RgGroup) : (s.modRg k f).fars = s.fars := rfl
@[simp] theorem modRg_copies (k : Nat) (f : RgGroup → RgGroup) : (s.modRg k f).copies = s.copies := rfl
@[simp] theorem modRg_moves (k : Nat) (f : RgGroup → RgGroup) : (s.modRg k f).moves = s.moves := rfl
@[simp] theorem modRg_entries (k : Nat) (f : RgGroup → RgGroup) : (s.modRg k f).entries = s.entries := rfl
@[simp] theorem modRg_gangOps (k : Nat) (f : RgGroup → RgGroup) : (s.modRg k f).gangOps = s.gangOps := rfl
@[simp] theorem modRg_batches (k : Nat) (f : RgGroup → RgGroup) : (s.modRg k f).batches = s.batches := rfl
@[simp] theorem modRg_denials (k : Nat) (f : RgGroup → RgGroup) : (s.modRg k f).denials = s.denials := rfl
@[simp] theorem modRg_wft (k : Nat) (f : RgGroup → RgGroup) : (s.modRg k f).wft = s.wft := rfl
@[simp] theorem modRg_walks (k : Nat) (f : RgGroup → RgGroup) : (s.modRg k f).walks = s.walks := rfl
@[simp] theorem modRg_grids (k : Nat) (f : RgGroup → RgGroup) : (s.modRg k f).grids = s.grids := rfl
@[simp] theorem modRg_launches (k : Nat) (f : RgGroup → RgGroup) : (s.modRg k f).launches = s.launches := rfl
@[simp] theorem modRg_saved (k : Nat) (f : RgGroup → RgGroup) : (s.modRg k f).saved = s.saved := rfl
@[simp] theorem modRg_kept (k : Nat) (f : RgGroup → RgGroup) : (s.modRg k f).kept = s.kept := rfl
@[simp] theorem modRg_recvs (k : Nat) (f : RgGroup → RgGroup) : (s.modRg k f).recvs = s.recvs := rfl
@[simp] theorem modRg_unexpected (k : Nat) (f : RgGroup → RgGroup) : (s.modRg k f).unexpected = s.unexpected := rfl
@[simp] theorem modRg_sends (k : Nat) (f : RgGroup → RgGroup) : (s.modRg k f).sends = s.sends := rfl
@[simp] theorem modRg_acked (k : Nat) (f : RgGroup → RgGroup) : (s.modRg k f).acked = s.acked := rfl
@[simp] theorem modRg_ecc (k : Nat) (f : RgGroup → RgGroup) : (s.modRg k f).ecc = s.ecc := rfl
@[simp] theorem modRg_timetable (k : Nat) (f : RgGroup → RgGroup) : (s.modRg k f).timetable = s.timetable := rfl
@[simp] theorem modRg_ttepoch (k : Nat) (f : RgGroup → RgGroup) : (s.modRg k f).ttepoch = s.ttepoch := rfl
@[simp] theorem modRg_lease (k : Nat) (f : RgGroup → RgGroup) : (s.modRg k f).lease = s.lease := rfl
@[simp] theorem modRg_foehn (k : Nat) (f : RgGroup → RgGroup) : (s.modRg k f).foehn = s.foehn := rfl
@[simp] theorem modRg_mlog (k : Nat) (f : RgGroup → RgGroup) : (s.modRg k f).mlog = s.mlog := rfl
@[simp] theorem modRg_mlogst (k : Nat) (f : RgGroup → RgGroup) : (s.modRg k f).mlogst = s.mlogst := rfl
@[simp] theorem modRg_podcfg (k : Nat) (f : RgGroup → RgGroup) : (s.modRg k f).podcfg = s.podcfg := rfl
@[simp] theorem modRg_socfg (k : Nat) (f : RgGroup → RgGroup) : (s.modRg k f).socfg = s.socfg := rfl
@[simp] theorem modRg_ethUp (k : Nat) (f : RgGroup → RgGroup) : (s.modRg k f).ethUp = s.ethUp := rfl
@[simp] theorem modRg_ports (k : Nat) (f : RgGroup → RgGroup) : (s.modRg k f).ports = s.ports := rfl
@[simp] theorem modRg_txStreams (k : Nat) (f : RgGroup → RgGroup) : (s.modRg k f).txStreams = s.txStreams := rfl
@[simp] theorem modRg_rxStreams (k : Nat) (f : RgGroup → RgGroup) : (s.modRg k f).rxStreams = s.rxStreams := rfl
@[simp] theorem modRg_peerReqs (k : Nat) (f : RgGroup → RgGroup) : (s.modRg k f).peerReqs = s.peerReqs := rfl
@[simp] theorem modRg_nextTxid (k : Nat) (f : RgGroup → RgGroup) : (s.modRg k f).nextTxid = s.nextTxid := rfl
@[simp] theorem modRg_outbox (k : Nat) (f : RgGroup → RgGroup) : (s.modRg k f).outbox = s.outbox := rfl
@[simp] theorem modRg_inbox (k : Nat) (f : RgGroup → RgGroup) : (s.modRg k f).inbox = s.inbox := rfl
@[simp] theorem modRg_dropped (k : Nat) (f : RgGroup → RgGroup) : (s.modRg k f).dropped = s.dropped := rfl
@[simp] theorem modRg_rot (k : Nat) (f : RgGroup → RgGroup) : (s.modRg k f).rot = s.rot := rfl
@[simp] theorem modRg_fuses (k : Nat) (f : RgGroup → RgGroup) : (s.modRg k f).fuses = s.fuses := rfl
@[simp] theorem modRg_hostRead (k : Nat) (f : RgGroup → RgGroup) : (s.modRg k f).hostRead = s.hostRead := rfl
@[simp] theorem modRg_hostRes (k : Nat) (f : RgGroup → RgGroup) : (s.modRg k f).hostRes = s.hostRes := rfl
@[simp] theorem modRg_datagrams (k : Nat) (f : RgGroup → RgGroup) : (s.modRg k f).datagrams = s.datagrams := rfl

/-! ## putMem -/

@[simp] theorem putMem_agenda (k : Nat) (bs : List Byte) : (s.putMem k bs).agenda = s.agenda := rfl
@[simp] theorem putMem_turnNo (k : Nat) (bs : List Byte) : (s.putMem k bs).turnNo = s.turnNo := rfl
@[simp] theorem putMem_freeNo (k : Nat) (bs : List Byte) : (s.putMem k bs).freeNo = s.freeNo := rfl
@[simp] theorem putMem_cur (k : Nat) (bs : List Byte) : (s.putMem k bs).cur = s.cur := rfl
@[simp] theorem putMem_nextId (k : Nat) (bs : List Byte) : (s.putMem k bs).nextId = s.nextId := rfl
@[simp] theorem putMem_nextSeq (k : Nat) (bs : List Byte) : (s.putMem k bs).nextSeq = s.nextSeq := rfl
@[simp] theorem putMem_cycle (k : Nat) (bs : List Byte) : (s.putMem k bs).cycle = s.cycle := rfl
@[simp] theorem putMem_time (k : Nat) (bs : List Byte) : (s.putMem k bs).time = s.time := rfl
@[simp] theorem putMem_increment (k : Nat) (bs : List Byte) : (s.putMem k bs).increment = s.increment := rfl
@[simp] theorem putMem_timestat (k : Nat) (bs : List Byte) : (s.putMem k bs).timestat = s.timestat := rfl
@[simp] theorem putMem_ptpDomain (k : Nat) (bs : List Byte) : (s.putMem k bs).ptpDomain = s.ptpDomain := rfl
@[simp] theorem putMem_ptpPorts (k : Nat) (bs : List Byte) : (s.putMem k bs).ptpPorts = s.ptpPorts := rfl
@[simp] theorem putMem_ptpFrames (k : Nat) (bs : List Byte) : (s.putMem k bs).ptpFrames = s.ptpFrames := rfl
@[simp] theorem putMem_slices (k : Nat) (bs : List Byte) : (s.putMem k bs).slices = s.slices := rfl
@[simp] theorem putMem_teams (k : Nat) (bs : List Byte) : (s.putMem k bs).teams = s.teams := rfl
@[simp] theorem putMem_cores (k : Nat) (bs : List Byte) : (s.putMem k bs).cores = s.cores := rfl
@[simp] theorem putMem_clusters (k : Nat) (bs : List Byte) : (s.putMem k bs).clusters = s.clusters := rfl
@[simp] theorem putMem_dies (k : Nat) (bs : List Byte) : (s.putMem k bs).dies = s.dies := rfl
@[simp] theorem putMem_parts (k : Nat) (bs : List Byte) : (s.putMem k bs).parts = s.parts := rfl
@[simp] theorem putMem_fars (k : Nat) (bs : List Byte) : (s.putMem k bs).fars = s.fars := rfl
@[simp] theorem putMem_copies (k : Nat) (bs : List Byte) : (s.putMem k bs).copies = s.copies := rfl
@[simp] theorem putMem_moves (k : Nat) (bs : List Byte) : (s.putMem k bs).moves = s.moves := rfl
@[simp] theorem putMem_entries (k : Nat) (bs : List Byte) : (s.putMem k bs).entries = s.entries := rfl
@[simp] theorem putMem_gangOps (k : Nat) (bs : List Byte) : (s.putMem k bs).gangOps = s.gangOps := rfl
@[simp] theorem putMem_batches (k : Nat) (bs : List Byte) : (s.putMem k bs).batches = s.batches := rfl
@[simp] theorem putMem_denials (k : Nat) (bs : List Byte) : (s.putMem k bs).denials = s.denials := rfl
@[simp] theorem putMem_wft (k : Nat) (bs : List Byte) : (s.putMem k bs).wft = s.wft := rfl
@[simp] theorem putMem_walks (k : Nat) (bs : List Byte) : (s.putMem k bs).walks = s.walks := rfl
@[simp] theorem putMem_grids (k : Nat) (bs : List Byte) : (s.putMem k bs).grids = s.grids := rfl
@[simp] theorem putMem_launches (k : Nat) (bs : List Byte) : (s.putMem k bs).launches = s.launches := rfl
@[simp] theorem putMem_saved (k : Nat) (bs : List Byte) : (s.putMem k bs).saved = s.saved := rfl
@[simp] theorem putMem_kept (k : Nat) (bs : List Byte) : (s.putMem k bs).kept = s.kept := rfl
@[simp] theorem putMem_recvs (k : Nat) (bs : List Byte) : (s.putMem k bs).recvs = s.recvs := rfl
@[simp] theorem putMem_unexpected (k : Nat) (bs : List Byte) : (s.putMem k bs).unexpected = s.unexpected := rfl
@[simp] theorem putMem_sends (k : Nat) (bs : List Byte) : (s.putMem k bs).sends = s.sends := rfl
@[simp] theorem putMem_acked (k : Nat) (bs : List Byte) : (s.putMem k bs).acked = s.acked := rfl
@[simp] theorem putMem_ecc (k : Nat) (bs : List Byte) : (s.putMem k bs).ecc = s.ecc := rfl
@[simp] theorem putMem_timetable (k : Nat) (bs : List Byte) : (s.putMem k bs).timetable = s.timetable := rfl
@[simp] theorem putMem_ttepoch (k : Nat) (bs : List Byte) : (s.putMem k bs).ttepoch = s.ttepoch := rfl
@[simp] theorem putMem_lease (k : Nat) (bs : List Byte) : (s.putMem k bs).lease = s.lease := rfl
@[simp] theorem putMem_foehn (k : Nat) (bs : List Byte) : (s.putMem k bs).foehn = s.foehn := rfl
@[simp] theorem putMem_mlog (k : Nat) (bs : List Byte) : (s.putMem k bs).mlog = s.mlog := rfl
@[simp] theorem putMem_mlogst (k : Nat) (bs : List Byte) : (s.putMem k bs).mlogst = s.mlogst := rfl
@[simp] theorem putMem_podcfg (k : Nat) (bs : List Byte) : (s.putMem k bs).podcfg = s.podcfg := rfl
@[simp] theorem putMem_socfg (k : Nat) (bs : List Byte) : (s.putMem k bs).socfg = s.socfg := rfl
@[simp] theorem putMem_ethUp (k : Nat) (bs : List Byte) : (s.putMem k bs).ethUp = s.ethUp := rfl
@[simp] theorem putMem_ports (k : Nat) (bs : List Byte) : (s.putMem k bs).ports = s.ports := rfl
@[simp] theorem putMem_txStreams (k : Nat) (bs : List Byte) : (s.putMem k bs).txStreams = s.txStreams := rfl
@[simp] theorem putMem_rxStreams (k : Nat) (bs : List Byte) : (s.putMem k bs).rxStreams = s.rxStreams := rfl
@[simp] theorem putMem_peerReqs (k : Nat) (bs : List Byte) : (s.putMem k bs).peerReqs = s.peerReqs := rfl
@[simp] theorem putMem_nextTxid (k : Nat) (bs : List Byte) : (s.putMem k bs).nextTxid = s.nextTxid := rfl
@[simp] theorem putMem_outbox (k : Nat) (bs : List Byte) : (s.putMem k bs).outbox = s.outbox := rfl
@[simp] theorem putMem_inbox (k : Nat) (bs : List Byte) : (s.putMem k bs).inbox = s.inbox := rfl
@[simp] theorem putMem_dropped (k : Nat) (bs : List Byte) : (s.putMem k bs).dropped = s.dropped := rfl
@[simp] theorem putMem_rgGroups (k : Nat) (bs : List Byte) : (s.putMem k bs).rgGroups = s.rgGroups := rfl
@[simp] theorem putMem_rot (k : Nat) (bs : List Byte) : (s.putMem k bs).rot = s.rot := rfl
@[simp] theorem putMem_fuses (k : Nat) (bs : List Byte) : (s.putMem k bs).fuses = s.fuses := rfl
@[simp] theorem putMem_hostRead (k : Nat) (bs : List Byte) : (s.putMem k bs).hostRead = s.hostRead := rfl
@[simp] theorem putMem_hostRes (k : Nat) (bs : List Byte) : (s.putMem k bs).hostRes = s.hostRes := rfl
@[simp] theorem putMem_datagrams (k : Nat) (bs : List Byte) : (s.putMem k bs).datagrams = s.datagrams := rfl

/-! ## Records by key after an update of another kind -/

@[simp] theorem modSl_tm (k : Nat) (f : Slice → Slice) (j : Nat) : (s.modSl k f).tm j = s.tm j := rfl
@[simp] theorem modSl_co (k : Nat) (f : Slice → Slice) (j : Nat) : (s.modSl k f).co j = s.co j := rfl
@[simp] theorem modSl_cl (k : Nat) (f : Slice → Slice) (j : Nat) : (s.modSl k f).cl j = s.cl j := rfl
@[simp] theorem modSl_di (k : Nat) (f : Slice → Slice) (j : Nat) : (s.modSl k f).di j = s.di j := rfl
@[simp] theorem modSl_pt (k : Nat) (f : Slice → Slice) (j : Nat) : (s.modSl k f).pt j = s.pt j := rfl
@[simp] theorem modSl_po (k : Nat) (f : Slice → Slice) (j : Nat) : (s.modSl k f).po j = s.po j := rfl
@[simp] theorem modSl_ptp (k : Nat) (f : Slice → Slice) (j : Nat) : (s.modSl k f).ptp j = s.ptp j := rfl
@[simp] theorem modSl_rg (k : Nat) (f : Slice → Slice) (j : Nat) : (s.modSl k f).rg j = s.rg j := rfl
@[simp] theorem modSls_tm (ks : List Nat) (f : Slice → Slice) (j : Nat) : (s.modSls ks f).tm j = s.tm j := rfl
@[simp] theorem modSls_co (ks : List Nat) (f : Slice → Slice) (j : Nat) : (s.modSls ks f).co j = s.co j := rfl
@[simp] theorem modSls_cl (ks : List Nat) (f : Slice → Slice) (j : Nat) : (s.modSls ks f).cl j = s.cl j := rfl
@[simp] theorem modSls_di (ks : List Nat) (f : Slice → Slice) (j : Nat) : (s.modSls ks f).di j = s.di j := rfl
@[simp] theorem modSls_pt (ks : List Nat) (f : Slice → Slice) (j : Nat) : (s.modSls ks f).pt j = s.pt j := rfl
@[simp] theorem modSls_po (ks : List Nat) (f : Slice → Slice) (j : Nat) : (s.modSls ks f).po j = s.po j := rfl
@[simp] theorem modSls_ptp (ks : List Nat) (f : Slice → Slice) (j : Nat) : (s.modSls ks f).ptp j = s.ptp j := rfl
@[simp] theorem modSls_rg (ks : List Nat) (f : Slice → Slice) (j : Nat) : (s.modSls ks f).rg j = s.rg j := rfl
@[simp] theorem modTm_sl (k : Nat) (f : Team → Team) (j : Nat) : (s.modTm k f).sl j = s.sl j := rfl
@[simp] theorem modTm_sliceOpt (k : Nat) (f : Team → Team) (j : Nat) : (s.modTm k f).slice? j = s.slice? j := rfl
@[simp] theorem modTm_co (k : Nat) (f : Team → Team) (j : Nat) : (s.modTm k f).co j = s.co j := rfl
@[simp] theorem modTm_cl (k : Nat) (f : Team → Team) (j : Nat) : (s.modTm k f).cl j = s.cl j := rfl
@[simp] theorem modTm_di (k : Nat) (f : Team → Team) (j : Nat) : (s.modTm k f).di j = s.di j := rfl
@[simp] theorem modTm_pt (k : Nat) (f : Team → Team) (j : Nat) : (s.modTm k f).pt j = s.pt j := rfl
@[simp] theorem modTm_po (k : Nat) (f : Team → Team) (j : Nat) : (s.modTm k f).po j = s.po j := rfl
@[simp] theorem modTm_ptp (k : Nat) (f : Team → Team) (j : Nat) : (s.modTm k f).ptp j = s.ptp j := rfl
@[simp] theorem modTm_rg (k : Nat) (f : Team → Team) (j : Nat) : (s.modTm k f).rg j = s.rg j := rfl
@[simp] theorem modCo_sl (k : Nat) (f : Core → Core) (j : Nat) : (s.modCo k f).sl j = s.sl j := rfl
@[simp] theorem modCo_sliceOpt (k : Nat) (f : Core → Core) (j : Nat) : (s.modCo k f).slice? j = s.slice? j := rfl
@[simp] theorem modCo_tm (k : Nat) (f : Core → Core) (j : Nat) : (s.modCo k f).tm j = s.tm j := rfl
@[simp] theorem modCo_cl (k : Nat) (f : Core → Core) (j : Nat) : (s.modCo k f).cl j = s.cl j := rfl
@[simp] theorem modCo_di (k : Nat) (f : Core → Core) (j : Nat) : (s.modCo k f).di j = s.di j := rfl
@[simp] theorem modCo_pt (k : Nat) (f : Core → Core) (j : Nat) : (s.modCo k f).pt j = s.pt j := rfl
@[simp] theorem modCo_po (k : Nat) (f : Core → Core) (j : Nat) : (s.modCo k f).po j = s.po j := rfl
@[simp] theorem modCo_ptp (k : Nat) (f : Core → Core) (j : Nat) : (s.modCo k f).ptp j = s.ptp j := rfl
@[simp] theorem modCo_rg (k : Nat) (f : Core → Core) (j : Nat) : (s.modCo k f).rg j = s.rg j := rfl
@[simp] theorem modCl_sl (k : Nat) (f : Cluster → Cluster) (j : Nat) : (s.modCl k f).sl j = s.sl j := rfl
@[simp] theorem modCl_sliceOpt (k : Nat) (f : Cluster → Cluster) (j : Nat) : (s.modCl k f).slice? j = s.slice? j := rfl
@[simp] theorem modCl_tm (k : Nat) (f : Cluster → Cluster) (j : Nat) : (s.modCl k f).tm j = s.tm j := rfl
@[simp] theorem modCl_co (k : Nat) (f : Cluster → Cluster) (j : Nat) : (s.modCl k f).co j = s.co j := rfl
@[simp] theorem modCl_di (k : Nat) (f : Cluster → Cluster) (j : Nat) : (s.modCl k f).di j = s.di j := rfl
@[simp] theorem modCl_pt (k : Nat) (f : Cluster → Cluster) (j : Nat) : (s.modCl k f).pt j = s.pt j := rfl
@[simp] theorem modCl_po (k : Nat) (f : Cluster → Cluster) (j : Nat) : (s.modCl k f).po j = s.po j := rfl
@[simp] theorem modCl_ptp (k : Nat) (f : Cluster → Cluster) (j : Nat) : (s.modCl k f).ptp j = s.ptp j := rfl
@[simp] theorem modCl_rg (k : Nat) (f : Cluster → Cluster) (j : Nat) : (s.modCl k f).rg j = s.rg j := rfl
@[simp] theorem modDi_sl (k : Nat) (f : Die → Die) (j : Nat) : (s.modDi k f).sl j = s.sl j := rfl
@[simp] theorem modDi_sliceOpt (k : Nat) (f : Die → Die) (j : Nat) : (s.modDi k f).slice? j = s.slice? j := rfl
@[simp] theorem modDi_tm (k : Nat) (f : Die → Die) (j : Nat) : (s.modDi k f).tm j = s.tm j := rfl
@[simp] theorem modDi_co (k : Nat) (f : Die → Die) (j : Nat) : (s.modDi k f).co j = s.co j := rfl
@[simp] theorem modDi_cl (k : Nat) (f : Die → Die) (j : Nat) : (s.modDi k f).cl j = s.cl j := rfl
@[simp] theorem modDi_pt (k : Nat) (f : Die → Die) (j : Nat) : (s.modDi k f).pt j = s.pt j := rfl
@[simp] theorem modDi_po (k : Nat) (f : Die → Die) (j : Nat) : (s.modDi k f).po j = s.po j := rfl
@[simp] theorem modDi_ptp (k : Nat) (f : Die → Die) (j : Nat) : (s.modDi k f).ptp j = s.ptp j := rfl
@[simp] theorem modDi_rg (k : Nat) (f : Die → Die) (j : Nat) : (s.modDi k f).rg j = s.rg j := rfl
@[simp] theorem modPt_sl (k : Nat) (f : Part → Part) (j : Nat) : (s.modPt k f).sl j = s.sl j := rfl
@[simp] theorem modPt_sliceOpt (k : Nat) (f : Part → Part) (j : Nat) : (s.modPt k f).slice? j = s.slice? j := rfl
@[simp] theorem modPt_tm (k : Nat) (f : Part → Part) (j : Nat) : (s.modPt k f).tm j = s.tm j := rfl
@[simp] theorem modPt_co (k : Nat) (f : Part → Part) (j : Nat) : (s.modPt k f).co j = s.co j := rfl
@[simp] theorem modPt_cl (k : Nat) (f : Part → Part) (j : Nat) : (s.modPt k f).cl j = s.cl j := rfl
@[simp] theorem modPt_di (k : Nat) (f : Part → Part) (j : Nat) : (s.modPt k f).di j = s.di j := rfl
@[simp] theorem modPt_po (k : Nat) (f : Part → Part) (j : Nat) : (s.modPt k f).po j = s.po j := rfl
@[simp] theorem modPt_ptp (k : Nat) (f : Part → Part) (j : Nat) : (s.modPt k f).ptp j = s.ptp j := rfl
@[simp] theorem modPt_rg (k : Nat) (f : Part → Part) (j : Nat) : (s.modPt k f).rg j = s.rg j := rfl
@[simp] theorem modPo_sl (k : Nat) (f : Port → Port) (j : Nat) : (s.modPo k f).sl j = s.sl j := rfl
@[simp] theorem modPo_sliceOpt (k : Nat) (f : Port → Port) (j : Nat) : (s.modPo k f).slice? j = s.slice? j := rfl
@[simp] theorem modPo_tm (k : Nat) (f : Port → Port) (j : Nat) : (s.modPo k f).tm j = s.tm j := rfl
@[simp] theorem modPo_co (k : Nat) (f : Port → Port) (j : Nat) : (s.modPo k f).co j = s.co j := rfl
@[simp] theorem modPo_cl (k : Nat) (f : Port → Port) (j : Nat) : (s.modPo k f).cl j = s.cl j := rfl
@[simp] theorem modPo_di (k : Nat) (f : Port → Port) (j : Nat) : (s.modPo k f).di j = s.di j := rfl
@[simp] theorem modPo_pt (k : Nat) (f : Port → Port) (j : Nat) : (s.modPo k f).pt j = s.pt j := rfl
@[simp] theorem modPo_ptp (k : Nat) (f : Port → Port) (j : Nat) : (s.modPo k f).ptp j = s.ptp j := rfl
@[simp] theorem modPo_rg (k : Nat) (f : Port → Port) (j : Nat) : (s.modPo k f).rg j = s.rg j := rfl
@[simp] theorem modPtp_sl (k : Nat) (f : PtpPort → PtpPort) (j : Nat) : (s.modPtp k f).sl j = s.sl j := rfl
@[simp] theorem modPtp_sliceOpt (k : Nat) (f : PtpPort → PtpPort) (j : Nat) : (s.modPtp k f).slice? j = s.slice? j := rfl
@[simp] theorem modPtp_tm (k : Nat) (f : PtpPort → PtpPort) (j : Nat) : (s.modPtp k f).tm j = s.tm j := rfl
@[simp] theorem modPtp_co (k : Nat) (f : PtpPort → PtpPort) (j : Nat) : (s.modPtp k f).co j = s.co j := rfl
@[simp] theorem modPtp_cl (k : Nat) (f : PtpPort → PtpPort) (j : Nat) : (s.modPtp k f).cl j = s.cl j := rfl
@[simp] theorem modPtp_di (k : Nat) (f : PtpPort → PtpPort) (j : Nat) : (s.modPtp k f).di j = s.di j := rfl
@[simp] theorem modPtp_pt (k : Nat) (f : PtpPort → PtpPort) (j : Nat) : (s.modPtp k f).pt j = s.pt j := rfl
@[simp] theorem modPtp_po (k : Nat) (f : PtpPort → PtpPort) (j : Nat) : (s.modPtp k f).po j = s.po j := rfl
@[simp] theorem modPtp_rg (k : Nat) (f : PtpPort → PtpPort) (j : Nat) : (s.modPtp k f).rg j = s.rg j := rfl
@[simp] theorem modRg_sl (k : Nat) (f : RgGroup → RgGroup) (j : Nat) : (s.modRg k f).sl j = s.sl j := rfl
@[simp] theorem modRg_sliceOpt (k : Nat) (f : RgGroup → RgGroup) (j : Nat) : (s.modRg k f).slice? j = s.slice? j := rfl
@[simp] theorem modRg_tm (k : Nat) (f : RgGroup → RgGroup) (j : Nat) : (s.modRg k f).tm j = s.tm j := rfl
@[simp] theorem modRg_co (k : Nat) (f : RgGroup → RgGroup) (j : Nat) : (s.modRg k f).co j = s.co j := rfl
@[simp] theorem modRg_cl (k : Nat) (f : RgGroup → RgGroup) (j : Nat) : (s.modRg k f).cl j = s.cl j := rfl
@[simp] theorem modRg_di (k : Nat) (f : RgGroup → RgGroup) (j : Nat) : (s.modRg k f).di j = s.di j := rfl
@[simp] theorem modRg_pt (k : Nat) (f : RgGroup → RgGroup) (j : Nat) : (s.modRg k f).pt j = s.pt j := rfl
@[simp] theorem modRg_po (k : Nat) (f : RgGroup → RgGroup) (j : Nat) : (s.modRg k f).po j = s.po j := rfl
@[simp] theorem modRg_ptp (k : Nat) (f : RgGroup → RgGroup) (j : Nat) : (s.modRg k f).ptp j = s.ptp j := rfl
@[simp] theorem putMem_sl (k : Nat) (bs : List Byte) (j : Nat) : (s.putMem k bs).sl j = s.sl j := rfl
@[simp] theorem putMem_sliceOpt (k : Nat) (bs : List Byte) (j : Nat) : (s.putMem k bs).slice? j = s.slice? j := rfl
@[simp] theorem putMem_tm (k : Nat) (bs : List Byte) (j : Nat) : (s.putMem k bs).tm j = s.tm j := rfl
@[simp] theorem putMem_co (k : Nat) (bs : List Byte) (j : Nat) : (s.putMem k bs).co j = s.co j := rfl
@[simp] theorem putMem_cl (k : Nat) (bs : List Byte) (j : Nat) : (s.putMem k bs).cl j = s.cl j := rfl
@[simp] theorem putMem_di (k : Nat) (bs : List Byte) (j : Nat) : (s.putMem k bs).di j = s.di j := rfl
@[simp] theorem putMem_pt (k : Nat) (bs : List Byte) (j : Nat) : (s.putMem k bs).pt j = s.pt j := rfl
@[simp] theorem putMem_po (k : Nat) (bs : List Byte) (j : Nat) : (s.putMem k bs).po j = s.po j := rfl
@[simp] theorem putMem_ptp (k : Nat) (bs : List Byte) (j : Nat) : (s.putMem k bs).ptp j = s.ptp j := rfl
@[simp] theorem putMem_rg (k : Nat) (bs : List Byte) (j : Nat) : (s.putMem k bs).rg j = s.rg j := rfl

/-! ## Records by key after an update of their own kind -/

theorem modSl_sl (k j : Nat) (f : Slice → Slice) :
    (s.modSl k f).sl j = if j = k ∧ (afind s.slices j).isSome then f (s.sl j) else s.sl j := by
  simp only [State.sl, State.modSl, aget, afind_amod]
  by_cases h : j = k
  · cases hx : afind s.slices j <;> simp_all
  · simp [h]

/-- A slice that exists, after it is changed. -/
@[simp] theorem modSl_sl_same {k : Nat} (f : Slice → Slice) (h : (afind s.slices k).isSome) : (s.modSl k f).sl k = f (s.sl k) := by
  rw [modSl_sl, if_pos ⟨rfl, h⟩]

/-- Another slice is as it was. -/
theorem modSl_sl_ne {k j : Nat} (f : Slice → Slice) (h : j ≠ k) : (s.modSl k f).sl j = s.sl j := by
  rw [modSl_sl, if_neg (fun e => h e.1)]

theorem modSls_sl (ks : List Nat) (j : Nat) (f : Slice → Slice) :
    (s.modSls ks f).sl j = if j ∈ ks ∧ (afind s.slices j).isSome then f (s.sl j) else s.sl j := by
  simp only [State.sl, State.modSls, aget, afind_amods]
  by_cases h : j ∈ ks
  · cases hx : afind s.slices j <;> simp [h]
  · simp [h]

theorem modSl_present (k j : Nat) (f : Slice → Slice) :
    (afind (s.modSl k f).slices j).isSome = (afind s.slices j).isSome := by
  simp only [State.modSl, afind_amod]
  split <;> simp

theorem modSls_present (ks : List Nat) (j : Nat) (f : Slice → Slice) :
    (afind (s.modSls ks f).slices j).isSome = (afind s.slices j).isSome := by
  simp only [State.modSls, afind_amods]
  split <;> simp

theorem modTm_tm (k j : Nat) (f : Team → Team) :
    (s.modTm k f).tm j = if j = k ∧ (afind s.teams j).isSome then f (s.tm j) else s.tm j := by
  simp only [State.tm, State.modTm, aget, afind_amod]
  by_cases h : j = k
  · cases hx : afind s.teams j <;> simp_all
  · simp [h]

theorem modTm_present (k j : Nat) (f : Team → Team) : (afind (s.modTm k f).teams j).isSome = (afind s.teams j).isSome := by
  simp only [State.modTm, afind_amod]
  split <;> simp

theorem modCo_co (k j : Nat) (f : Core → Core) : (s.modCo k f).co j = if j = k then f (s.co k) else s.co j := aget_aset _ _ _ _ _
theorem modCl_cl (k j : Nat) (f : Cluster → Cluster) : (s.modCl k f).cl j = if j = k then f (s.cl k) else s.cl j := aget_aset _ _ _ _ _
theorem modDi_di (k j : Nat) (f : Die → Die) : (s.modDi k f).di j = if j = k then f (s.di k) else s.di j := aget_aset _ _ _ _ _
theorem modPt_pt (k j : Nat) (f : Part → Part) : (s.modPt k f).pt j = if j = k then f (s.pt k) else s.pt j := aget_aset _ _ _ _ _
theorem modPo_po (k j : Nat) (f : Port → Port) : (s.modPo k f).po j = if j = k then f (s.po k) else s.po j := aget_aset _ _ _ _ _
theorem modPtp_ptp (k j : Nat) (f : PtpPort → PtpPort) : (s.modPtp k f).ptp j = if j = k then f (s.ptp k) else s.ptp j := aget_aset _ _ _ _ _
theorem modRg_rg (k j : Nat) (f : RgGroup → RgGroup) : (s.modRg k f).rg j = if j = k then f (s.rg k) else s.rg j := aget_aset _ _ _ _ _

end Sys2Proof.Machine
end

