-- ==== Sys2Proof/Laws/Ops.lean ====
section
/-! SUPPORT. What the shared operations of Machine/Ops.lean and Machine/Regs.lean can do: gangs, issue, the completion of
short instructions. -/

namespace Sys2Proof.Machine

open Sys2Proof

/-! ## Slices that differ in their gang alone -/

@[simp] theorem ganged_self (x : Slice) : x.ganged x = x := rfl
@[simp] theorem ganged_ganged (x y z : Slice) : (x.ganged y).ganged z = x.ganged z := rfl

/-- Slices may change in their gang alone. -/
def GangOnly (s t : State) : Prop := t = { s with slices := t.slices } ∧ (∀ j, t.sl j = (s.sl j).ganged (t.sl j)) ∧
  ∀ j, (afind t.slices j).isSome = (afind s.slices j).isSome

theorem GangOnly.refl (s : State) : GangOnly s s := ⟨rfl, fun _ => rfl, fun _ => rfl⟩

theorem GangOnly.trans {s t u : State} (h : GangOnly s t) (g : GangOnly t u) : GangOnly s u := by
  refine ⟨?_, fun j => ?_, fun j => (g.2.2 j).trans (h.2.2 j)⟩
  · have a := h.1
    have b := g.1
    rw [b, a]
  · rw [g.2.1 j, h.2.1 j]; rfl

theorem modSls_gangOnly (s : State) (ks : List Nat) (f : Slice → Slice) (h : ∀ x, f x = x.ganged (f x)) :
    GangOnly s (s.modSls ks f) := by
  refine ⟨rfl, fun j => ?_, fun j => modSls_present s ks j f⟩
  rw [modSls_sl]
  split
  · exact h _
  · rfl

theorem part_gangOnly (s : State) (ms : List Nat) : GangOnly s (s.part ms) := modSls_gangOnly s _ _ (fun _ => rfl)

theorem setGang_gangOnly (s : State) (ms : List Nat) : GangOnly s (s.setGang ms) := modSls_gangOnly s _ _ (fun _ => rfl)

theorem settleGang_gangOnly (s : State) (ms : List Nat) : GangOnly s (s.settleGang ms) := by
  unfold State.settleGang
  dsimp only
  split
  · exact (modSls_gangOnly s _ _ (fun _ => rfl)).trans (part_gangOnly _ _)
  · exact .refl s

/-! ## Changes of one slice -/

/-- The state differs in slices alone; slice k is x but for its gang, the others differ in their gang alone. -/
def Became (s t : State) (k : Nat) (x : Slice) : Prop :=
  s.changesOnly t [k] ∧ t.sl k = x.ganged (t.sl k) ∧ ∀ j, (afind t.slices j).isSome = (afind s.slices j).isSome

theorem Became.gangOnly {s t u : State} {k : Nat} {x : Slice} (h : Became s t k x) (g : GangOnly t u) : Became s u k x := by
  obtain ⟨⟨a, b⟩, c, d⟩ := h
  refine ⟨⟨?_, fun j hj => ?_⟩, ?_, fun j => (g.2.2 j).trans (d j)⟩
  · have e := g.1
    rw [e, a]
  · rw [g.2.1 j, b j hj]; rfl
  · rw [g.2.1 k, c]; rfl

theorem modSl_became (s : State) (k : Nat) (f : Slice → Slice) (h : s.present k) : Became s (s.modSl k f) k (f (s.sl k)) := by
  refine ⟨⟨rfl, fun j hj => ?_⟩, ?_, fun j => modSl_present s k j f⟩
  · rw [modSl_sl_ne s f (by simpa using hj)]; rfl
  · rw [modSl_sl_same s f h]; rfl

theorem Became.trans {s t u : State} {k : Nat} {x y : Slice} (h : Became s t k x) (g : Became t u k y) : Became s u k y := by
  obtain ⟨⟨a, b⟩, -, d⟩ := h
  obtain ⟨⟨a', b'⟩, c', d'⟩ := g
  refine ⟨⟨?_, fun j hj => ?_⟩, c', fun j => (d' j).trans (d j)⟩
  · rw [a', a]
  · rw [b' j hj, b j hj]; rfl

/-- Completing a short instruction moves the slice's PC, and gangs (R212). -/
theorem finishSlice_became (s : State) (k : Nat) (pc : Word) (h : s.present k) :
    Became s (s.finishSlice k pc) k ((s.sl k).standingAt pc) := by
  have h1 : Became s (s.modSl k (fun x => { x with pc := pc, ahead := true })) k ((s.sl k).standingAt pc) := by
    obtain ⟨a, b, c⟩ := modSl_became s k (fun x => { x with pc := pc, ahead := true }) h
    exact ⟨a, by rw [b]; rfl, c⟩
  unfold State.finishSlice
  dsimp only
  split
  · exact h1.gangOnly ((modSls_gangOnly _ _ _ (fun _ => rfl)).trans (part_gangOnly _ _))
  · exact h1

theorem issued_sl (s : State) (ms : List Nat) (j : Nat) :
    (s.issued ms).sl j = if j ∈ ms ∧ s.present j then (s.sl j).issuedIn s.cycle else s.sl j := modSls_sl s ms j _

theorem issued_present (s : State) (ms : List Nat) (j : Nat) :
    (afind (s.issued ms).slices j).isSome = (afind s.slices j).isSome := modSls_present s ms j _

theorem issued_one_became (s : State) (k : Nat) (h : s.present k) : Became s (s.issued [k]) k ((s.sl k).issuedIn s.cycle) := by
  refine ⟨⟨rfl, fun j hj => ?_⟩, ?_, fun j => issued_present s [k] j⟩
  · rw [issued_sl, if_neg (fun e => hj e.1)]; rfl
  · rw [issued_sl, if_pos ⟨by simp, h⟩]; rfl

/-- A short instruction that acts per slice and does not trap. -/
theorem perSlice_became (s : State) (f : State → Nat → State) (x : Slice)
    (h : Became s (f (s.issued [s.cur]) s.cur) s.cur x) : Became s (s.perSlice f) s.cur x := by
  unfold State.perSlice
  dsimp only
  split
  · exact h.gangOnly (settleGang_gangOnly _ _)
  · exact h

/-- A short instruction that acts per slice and comes down to one change of its slice and a next PC. -/
theorem perSlice_of (s : State) (f : State → Nat → State) (g : Slice → Slice) (pc : Word) (h : s.onTurn)
    (hf : f (s.issued [s.cur]) s.cur = ((s.issued [s.cur]).modSl s.cur g).finishSlice s.cur pc) :
    Became s (s.perSlice f) s.cur ((g ((s.sl s.cur).issuedIn s.cycle)).standingAt pc) := by
  have h0 := issued_one_became s s.cur h
  have e0 : (s.issued [s.cur]).sl s.cur = (s.sl s.cur).issuedIn s.cycle := by rw [issued_sl, if_pos ⟨by simp, h⟩]
  have p0 : (s.issued [s.cur]).present s.cur := (h0.2.2 s.cur).trans h
  have h1 := modSl_became (s.issued [s.cur]) s.cur g p0
  have p1 : ((s.issued [s.cur]).modSl s.cur g).present s.cur := (h1.2.2 s.cur).trans p0
  have h3 := (h0.trans h1).trans (finishSlice_became _ s.cur pc p1)
  rw [modSl_sl_same _ _ p0, e0] at h3
  apply perSlice_became
  rw [hf]
  exact h3

/-- The s registers read without poison show none. -/
theorem sPoisons_nil (x : Slice) (rs : List Nat) (h : x.readable rs) : x.sPoisons rs = [] := by
  unfold Slice.sPoisons
  rw [List.filterMap_eq_nil_iff]
  intro r hr
  simp [Slice.sPoison, h r hr]

theorem issuedIn_readable (x : Slice) (n : Nat) (rs : List Nat) : (x.issuedIn n).readable rs ↔ x.readable rs := Iff.rfl
@[simp] theorem issuedIn_sVal (x : Slice) (n r : Nat) : (x.issuedIn n).sVal r = x.sVal r := rfl
@[simp] theorem issuedIn_sRd (x : Slice) (n r : Nat) : (x.issuedIn n).sRd r = x.sRd r := rfl
@[simp] theorem issuedIn_kGet (x : Slice) (n r : Nat) : (x.issuedIn n).kGet r = x.kGet r := rfl

/-- A slice-scalar instruction whose sources are readable (R100): its slice changes as the instruction says and goes on 4
bytes further. -/
theorem scalar_became (s : State) (srcs : List Nat) (go : Slice → Slice) (h : s.onTurn) (hr : (s.sl s.cur).readable srcs) :
    Became s (s.scalar srcs go) s.cur ((go ((s.sl s.cur).issuedIn s.cycle)).standingAt ((s.sl s.cur).pc + 4)) := by
  have e0 : (s.issued [s.cur]).sl s.cur = (s.sl s.cur).issuedIn s.cycle := by rw [issued_sl, if_pos ⟨by simp, h⟩]
  refine perSlice_of s _ go _ h ?_
  rw [sPoisons_nil _ _ (by rw [e0]; exact hr)]
  show ((s.issued [s.cur]).modSl s.cur go).finishSlice s.cur (((s.issued [s.cur]).sl s.cur).pc + 4) = _
  rw [e0]; rfl

end Sys2Proof.Machine
end

