-- ==== Sys2Proof/Laws/Regs.lean ====
section
/-! SUPPORT. What registers and masks read as after each write (spec R11 to R13, R27 to R29). -/

namespace Sys2Proof.Machine

open Sys2Proof

theorem dropBad_bad (x : Slice) (e : Bool × Nat × Nat) :
    (x.dropBad e).bad = x.bad.filter (fun y => decide (y ≠ e)) := by
  unfold Slice.dropBad
  split
  · next h => simp [h]
  · rfl

/-- Removing a settled error changes nothing but the list of errors. -/
theorem dropBad_eq (x : Slice) (e : Bool × Nat × Nat) :
    x.dropBad e = { x with bad := x.bad.filter (fun y => decide (y ≠ e)) } := by
  unfold Slice.dropBad
  split
  · next h => rw [h]; cases x; simp_all
  · rfl

theorem sPut_eq (x : Slice) (r : Nat) (w : Word) :
    x.sPut r w = { x with s := aset (some 0) x.s r (some w), bad := x.bad.filter (fun y => decide (y ≠ (true, r, 0))) } := by
  unfold Slice.sPut
  rw [dropBad_eq]

theorem vPut_eq (x : Slice) (r l : Nat) (w : Word) :
    x.vPut r l w = { x with v := aput x.v (4 * r + l) w, bad := x.bad.filter (fun y => decide (y ≠ (false, r, l))) } := by
  unfold Slice.vPut
  rw [dropBad_eq]

theorem vKill_eq (x : Slice) (r l : Nat) :
    x.vKill r l = { x with v := adel x.v (4 * r + l), bad := x.bad.filter (fun y => decide (y ≠ (false, r, l))) } := by
  unfold Slice.vKill
  rw [dropBad_eq]

theorem sKill_eq (x : Slice) (r : Nat) :
    x.sKill r = { x with s := aset (some 0) x.s r none, bad := x.bad.filter (fun y => decide (y ≠ (true, r, 0))) } := by
  unfold Slice.sKill
  rw [dropBad_eq]

theorem contains_filter_ne (m : List (Bool × Nat × Nat)) (a b : Bool × Nat × Nat) (h : b ≠ a) :
    (m.filter (fun y => decide (y ≠ a))).contains b = m.contains b := by
  rw [Bool.eq_iff_iff, List.contains_iff_mem, List.contains_iff_mem, List.mem_filter]
  simp [h]

theorem contains_filter_self (m : List (Bool × Nat × Nat)) (a : Bool × Nat × Nat) :
    (m.filter (fun y => decide (y ≠ a))).contains a = false := by
  rw [Bool.eq_false_iff, ne_eq, List.contains_iff_mem, List.mem_filter]
  simp

/-- An s register as a read finds it, by its entry. -/
theorem sRd_eq (x : Slice) (r : Nat) :
    x.sRd r = if x.bad.contains (true, r, 0) then ⟨poisonWord, true, true⟩
      else match aget (some 0) x.s r with | some w => ⟨w, false, false⟩ | none => ⟨poisonWord, true, false⟩ := by
  unfold Slice.sRd aget
  split
  · rfl
  · cases afind x.s r with
    | none => rfl
    | some o => cases o <;> rfl

/-- The register just written is live and holds the word (R27). -/
theorem sPut_sRd_same (x : Slice) (r : Nat) (w : Word) : (x.sPut r w).sRd r = ⟨w, false, false⟩ := by
  rw [sRd_eq, sPut_eq]
  simp only [contains_filter_self, aget_aset_same, Bool.false_eq_true, ↓reduceIte]

theorem sPut_sRd_ne (x : Slice) {r q : Nat} (w : Word) (h : q ≠ r) : (x.sPut r w).sRd q = x.sRd q := by
  rw [sRd_eq, sRd_eq, sPut_eq]
  simp only [contains_filter_ne x.bad (true, r, 0) (true, q, 0) (by simpa using h), aget_aset_ne (some 0) x.s (some w) h]

theorem sPut_sVal_same (x : Slice) (r : Nat) (w : Word) : (x.sPut r w).sVal r = w := by
  unfold Slice.sVal; rw [sPut_sRd_same]

theorem sPut_sVal_ne (x : Slice) {r q : Nat} (w : Word) (h : q ≠ r) : (x.sPut r w).sVal q = x.sVal q := by
  unfold Slice.sVal; rw [sPut_sRd_ne x w h]

/-- A pair just written (R12). -/
theorem sPutPair_lo (x : Slice) (r : Nat) (w : DWord) : (x.sPutPair r w).sRd r = ⟨loWord w, false, false⟩ := by
  unfold Slice.sPutPair
  rw [sPut_sRd_ne _ _ (by omega), sPut_sRd_same]

theorem sPutPair_hi (x : Slice) (r : Nat) (w : DWord) : (x.sPutPair r w).sRd (r + 1) = ⟨hiWord w, false, false⟩ :=
  sPut_sRd_same _ _ _

theorem sPutPair_ne (x : Slice) {r q : Nat} (w : DWord) (h : q ≠ r) (h' : q ≠ r + 1) : (x.sPutPair r w).sRd q = x.sRd q := by
  unfold Slice.sPutPair
  rw [sPut_sRd_ne _ _ h', sPut_sRd_ne _ _ h]

/-- The v register just written is live in the lane and holds the word (R27). -/
theorem vPut_vRd_same (x : Slice) (r l : Nat) (w : Word) : (x.vPut r l w).vRd r l = ⟨w, false, false⟩ := by
  unfold Slice.vRd
  rw [vPut_eq]
  simp only [contains_filter_self, afind_aput_same, Bool.false_eq_true, ↓reduceIte]

theorem vPut_vRd_ne (x : Slice) {r l q m : Nat} (w : Word) (hl : l < 4) (hm : m < 4) (h : (q, m) ≠ (r, l)) :
    (x.vPut r l w).vRd q m = x.vRd q m := by
  unfold Slice.vRd
  rw [vPut_eq]
  have hk : 4 * q + m ≠ 4 * r + l := by
    intro e
    apply h
    rw [show q = r by omega, show m = l by omega]
  simp only [contains_filter_ne x.bad (false, r, l) (false, q, m) (by simpa using h), afind_aput_ne x.v w hk]

theorem kPut_kGet_same (x : Slice) (j : Nat) (m : BitVec 4) (h : j ≠ 0) : (x.kPut j m).kGet j = m := by
  unfold Slice.kGet Slice.kPut
  rw [if_neg h]
  exact aget_aset_same 0 x.k j m

theorem kPut_kGet_ne (x : Slice) {j i : Nat} (m : BitVec 4) (h : i ≠ j) : (x.kPut j m).kGet i = x.kGet i := by
  unfold Slice.kGet Slice.kPut
  split
  · rfl
  · exact aget_aset_ne 0 x.k m h

end Sys2Proof.Machine
end

