-- ==== Sys2Proof/Laws/Control.lean ====
section
/-! SUPPORT. What the control operations of Machine/Control.lean can do: the instructions of a gang that no slice traps at,
and parting. -/

namespace Sys2Proof.Machine

open Sys2Proof

theorem members_nodup (s : State) (k : Nat) : (s.members k).Nodup := (List.nodup_dedup _).filter _

/-- The members of a gang exist and have not exited. -/
theorem members_present (s : State) {k j : Nat} (h : j ∈ s.members k) : s.present j ∧ (s.sl j).done = false := by
  have hd : (s.sl j).done = false := by
    have := (List.mem_filter.1 h).2
    simp only [Bool.and_eq_true, Bool.not_eq_true'] at this
    exact this.2
  refine ⟨?_, hd⟩
  unfold State.present
  cases hf : afind s.slices j with
  | some x => rfl
  | none =>
    exfalso
    rw [State.sl, aget, hf] at hd
    exact absurd hd (by decide)

/-- Slices of a list become what f says of them, but for their gang; the others change in their gang alone. -/
def Turned (s t : State) (ks : List Nat) (f : Slice → Slice) : Prop :=
  s.changesOnly t ks ∧ ∀ k ∈ ks, t.sl k = (f (s.sl k)).ganged (t.sl k)

theorem Turned.gangOnly {s t u : State} {ks : List Nat} {f : Slice → Slice} (h : Turned s t ks f) (g : GangOnly t u) :
    Turned s u ks f := by
  obtain ⟨⟨a, b⟩, c⟩ := h
  refine ⟨⟨?_, fun j hj => ?_⟩, fun k hk => ?_⟩
  · have e := g.1
    rw [e, a]
  · rw [g.2.1 j, b j hj]; rfl
  · rw [g.2.1 k, c k hk]; rfl

/-- One change in each slice of a list without repeats. -/
theorem foldl_modSl (s : State) (ks : List Nat) (f : Slice → Slice) (h : ∀ k ∈ ks, s.present k) (hn : ks.Nodup) :
    let t := ks.foldl (fun t k => t.modSl k f) s
    t = { s with slices := t.slices } ∧ ∀ j, t.sl j = if j ∈ ks then f (s.sl j) else s.sl j := by
  induction ks generalizing s with
  | nil => exact ⟨rfl, fun j => by simp⟩
  | cons k ks ih =>
    obtain ⟨a, b⟩ := ih (s.modSl k f) (fun j hj => (modSl_present s k j f).trans (h j (List.mem_cons_of_mem k hj)))
      (List.nodup_cons.1 hn).2
    refine ⟨a, fun j => ?_⟩
    rw [List.foldl_cons, b j]
    have hk := (List.nodup_cons.1 hn).1
    by_cases hj : j = k
    · subst hj
      rw [if_neg hk, if_pos (List.mem_cons_self ..), modSl_sl_same s f (h j (List.mem_cons_self ..))]
    · rw [modSl_sl_ne s f hj]
      simp [hj]

/-- A fold whose every step changes one slice alike is the fold of that change. -/
theorem foldl_congr_inv {α β : Type} (P : β → Prop) (f g : β → α → β) (l : List α) (b : β) (hb : P b)
    (h : ∀ b, ∀ a ∈ l, P b → f b a = g b a ∧ P (g b a)) : l.foldl f b = l.foldl g b := by
  induction l generalizing b with
  | nil => rfl
  | cons a l ih =>
    obtain ⟨e, p⟩ := h b a (List.mem_cons_self ..) hb
    rw [List.foldl_cons, List.foldl_cons, e]
    exact ih _ p (fun b a ha => h b a (List.mem_cons_of_mem _ ha))

theorem exits_none (s : State) (ms : List Nat) (h : ∀ k ∈ ms, (s.sl k).done = false) : s.exits ms = s := by
  unfold State.exits
  rw [List.filter_eq_nil_iff.2 (fun k hk => by rw [h k hk]; simp)]
  rfl

/-- Frames that no slice has taken are as they were (R220). -/
theorem reframe_same (s t : State) (ms : List Nat) (h : ∀ k ∈ ms, (t.sl k).frame = (s.sl k).frame) : t.reframe s ms = t := by
  unfold State.reframe
  induction ms with
  | nil => rfl
  | cons k ms ih =>
    rw [List.foldl_cons, if_pos, ih (fun j hj => h j (List.mem_cons_of_mem k hj))]
    rw [h k (List.mem_cons_self ..)]
    cases (s.sl k).frame <;> simp

/-- The gang of a control instruction whose sources are readable, before slices that have exited are dealt with. -/
theorem control_step (s : State) (srcs : List Nat) (go : Slice → Slice)
    (hr : ∀ k ∈ s.members s.cur, (s.sl k).readable srcs) (hg : ∀ x, (go x).sRd = x.sRd ∨ srcs = [])
    (hf : ∀ x, (go x).frame = x.frame) :
    Turned s (((s.members s.cur).foldl (fun t k => t.withPoison k ((t.sl k).sPoisons srcs)
      (fun u => u.modSl k (fun x => x.keepCount (go x)))) (s.issued (s.members s.cur))).partFrom s (s.members s.cur))
      (s.members s.cur) (fun x => (x.issuedIn s.cycle).keepCount (go (x.issuedIn s.cycle))) := by
  have hp : ∀ k ∈ s.members s.cur, (s.issued (s.members s.cur)).present k := fun k hk =>
    (issued_present s _ k).trans (members_present s hk).1
  have e : (s.members s.cur).foldl (fun t k => t.withPoison k ((t.sl k).sPoisons srcs)
      (fun u => u.modSl k (fun x => x.keepCount (go x)))) (s.issued (s.members s.cur)) =
      (s.members s.cur).foldl (fun t k => t.modSl k (fun x => x.keepCount (go x))) (s.issued (s.members s.cur)) := by
    refine foldl_congr_inv (fun t : State => ∀ k ∈ s.members s.cur, (t.sl k).readable srcs) _ _ _ _ ?_ ?_
    · intro k hk
      rw [issued_sl, if_pos ⟨hk, (members_present s hk).1⟩]
      exact hr k hk
    · intro t k hk ht
      refine ⟨by rw [sPoisons_nil _ _ (ht k hk)]; rfl, fun j hj => ?_⟩
      rw [modSl_sl]
      split
      · rcases hg (t.sl j) with h | h
        · intro r hr'
          have : ((t.sl j).keepCount (go (t.sl j))).sRd r = (go (t.sl j)).sRd r := by
            unfold Slice.keepCount; split <;> rfl
          rw [this, h]
          exact ht j hj r hr'
        · rw [h]; intro r hr'; cases hr'
      · exact ht j hj
  rw [e]
  obtain ⟨a, b⟩ := foldl_modSl (s.issued (s.members s.cur)) (s.members s.cur) (fun x => x.keepCount (go x)) hp (members_nodup s _)
  unfold State.partFrom
  rw [reframe_same]
  case h =>
    intro k hk
    rw [b, if_pos hk, issued_sl, if_pos ⟨hk, (members_present s hk).1⟩]
    have : ∀ x : Slice, (x.keepCount (go x)).frame = x.frame := fun x => by unfold Slice.keepCount; split <;> exact hf x
    rw [this]; rfl
  refine Turned.gangOnly ?_ (part_gangOnly _ _)
  refine ⟨⟨a, fun j hj => ?_⟩, fun k hk => ?_⟩
  · rw [b, if_neg hj, issued_sl, if_neg (fun e => hj e.1)]; rfl
  · rw [b, if_pos hk, issued_sl, if_pos ⟨hk, (members_present s hk).1⟩]; rfl

/-- A control instruction of the gang at which no slice traps and none exits. -/
theorem control_turned (s : State) (srcs : List Nat) (go : Slice → Slice)
    (hr : ∀ k ∈ s.members s.cur, (s.sl k).readable srcs) (hg : ∀ x, (go x).sRd = x.sRd ∨ srcs = [])
    (hd : ∀ x, (go x).done = x.done) (hf : ∀ x, (go x).frame = x.frame) :
    Turned s (s.control srcs go) (s.members s.cur) (fun x => (x.issuedIn s.cycle).keepCount (go (x.issuedIn s.cycle))) := by
  have h := control_step s srcs go hr hg hf
  unfold State.control
  dsimp only
  rw [exits_none]
  · exact h
  · intro k hk
    rw [h.2 k hk]
    have : ∀ x : Slice, (x.issuedIn s.cycle).done = x.done := fun _ => rfl
    have h2 : ∀ x y : Slice, (x.keepCount y).done = y.done := fun x y => by unfold Slice.keepCount; split <;> rfl
    show ((s.sl k).issuedIn s.cycle |>.keepCount (go ((s.sl k).issuedIn s.cycle))).done = false
    rw [h2, hd, this]
    exact (members_present s hk).2

/-- Parting (R145): of the slices parted, which did not run alone, two are in one gang exactly when their PCs agree. -/
theorem part_gang_iff (s : State) (ms : List Nat) (hm : ∀ k ∈ ms, s.present k ∧ (s.sl k).done = false ∧ (s.sl k).gang ≠ aloneKey k)
    {j k : Nat} (hj : j ∈ ms) (hk : k ∈ ms) :
    ((s.part ms).sl j).gang = ((s.part ms).sl k).gang ↔ (s.sl j).pc = (s.sl k).pc := by
  have hrest : ms.filter (fun j => !(s.sl j).done && decide ((s.sl j).gang ≠ aloneKey j)) = ms := by
    rw [List.filter_eq_self]
    intro a ha
    simp [(hm a ha).2.1, (hm a ha).2.2]
  have hg : ∀ i ∈ ms, ((s.part ms).sl i).gang = s.firstAt ms (s.sl i).pc := by
    intro i hi
    unfold State.part
    dsimp only
    rw [hrest, modSls_sl, if_pos ⟨hi, (hm i hi).1⟩]
  rw [hg j hj, hg k hk]
  constructor
  · intro h
    have first : ∀ i ∈ ms, (s.sl (s.firstAt ms (s.sl i).pc)).pc = (s.sl i).pc := by
      intro i hi
      unfold State.firstAt
      have hne : ms.filter (fun a => decide ((s.sl a).pc = (s.sl i).pc)) ≠ [] :=
        List.ne_nil_of_mem (List.mem_filter.2 ⟨hi, by simp⟩)
      have hh : (ms.filter (fun a => decide ((s.sl a).pc = (s.sl i).pc))).headD 0 ∈ ms.filter (fun a => decide ((s.sl a).pc = (s.sl i).pc)) := by
        cases hf : ms.filter (fun a => decide ((s.sl a).pc = (s.sl i).pc)) with
        | nil => exact absurd hf hne
        | cons a r => exact List.mem_cons_self ..
      simpa using (List.mem_filter.1 hh).2
    rw [← first j hj, ← first k hk, h]
  · intro h
    rw [h]

end Sys2Proof.Machine
end

