-- ==== Sys2Proof/Laws/PerInstr.lean ====
section
/-! SUPPORT. The form of an encoding, instruction by instruction: how many granules it has and what bit 0 of the first
one says of that (spec R58). -/

namespace Sys2Proof.Laws

open Sys2Proof

/-- A device event has no encoding; a short instruction is one granule with bit 0 clear and a long one three granules, the
first with bit 0 set, so that bit 0 alone tells how far to read (R58). -/
def EncodeForm.Statement (i : Instr) : Prop :=
  encode i = [] ∨ (∃ w, encode i = [w] ∧ isLong w = false) ∨ ∃ g0 g1 g2, encode i = [g0, g1, g2] ∧ isLong g0 = true

/-- Bit 0 of two fields side by side is bit 0 of the lower one. -/
theorem low_append {m n : Nat} {x : BitVec m} {y : BitVec (n + 1)} {c : Bool} (h : y.getLsbD 0 = c) : (x ++ y).getLsbD 0 = c := by
  rw [BitVec.getLsbD_append, if_pos (Nat.succ_pos n)]; exact h

theorem event_form {i : Instr} (h : encode i = []) : EncodeForm.Statement i := .inl h

theorem short_form {i : Instr} {w : Word} (h : encode i = [w]) (h0 : w.getLsbD 0 = false) : EncodeForm.Statement i :=
  .inr (.inl ⟨w, h, h0⟩)

theorem encodeLong_form {i : Instr} {n : Nat} {f : Long} (h : encode i = encodeLong n f) : EncodeForm.Statement i :=
  .inr (.inr ⟨_, _, _, h, (low_append (low_append (low_append (low_append (low_append (low_append (low_append (low_append rfl))))))))⟩)

theorem encodeFuse_form {i : Instr} {f : FuseWord} (h : encode i = encodeFuse f) : EncodeForm.Statement i :=
  .inr (.inr ⟨_, _, _, h, (low_append (low_append (low_append (low_append (low_append (low_append rfl))))))⟩)

theorem EncodeForm.nop : EncodeForm.Statement (.nop) := short_form rfl rfl
theorem EncodeForm.sadd (d : BitVec 6) (a : BitVec 6) (b : BitVec 6) : EncodeForm.Statement (.sadd d a b) := short_form rfl (low_append (low_append (low_append (low_append rfl))))
theorem EncodeForm.ssub (d : BitVec 6) (a : BitVec 6) (b : BitVec 6) : EncodeForm.Statement (.ssub d a b) := short_form rfl (low_append (low_append (low_append (low_append rfl))))
theorem EncodeForm.smul (d : BitVec 6) (a : BitVec 6) (b : BitVec 6) : EncodeForm.Statement (.smul d a b) := short_form rfl (low_append (low_append (low_append (low_append rfl))))
theorem EncodeForm.smulh (d : BitVec 6) (a : BitVec 6) (b : BitVec 6) : EncodeForm.Statement (.smulh d a b) := short_form rfl (low_append (low_append (low_append (low_append rfl))))
theorem EncodeForm.smulhn (d : BitVec 6) (a : BitVec 6) (b : BitVec 6) : EncodeForm.Statement (.smulhn d a b) := short_form rfl (low_append (low_append (low_append (low_append rfl))))
theorem EncodeForm.sand (d : BitVec 6) (a : BitVec 6) (b : BitVec 6) : EncodeForm.Statement (.sand d a b) := short_form rfl (low_append (low_append (low_append (low_append rfl))))
theorem EncodeForm.sor (d : BitVec 6) (a : BitVec 6) (b : BitVec 6) : EncodeForm.Statement (.sor d a b) := short_form rfl (low_append (low_append (low_append (low_append rfl))))
theorem EncodeForm.sxor (d : BitVec 6) (a : BitVec 6) (b : BitVec 6) : EncodeForm.Statement (.sxor d a b) := short_form rfl (low_append (low_append (low_append (low_append rfl))))
theorem EncodeForm.sandn (d : BitVec 6) (a : BitVec 6) (b : BitVec 6) : EncodeForm.Statement (.sandn d a b) := short_form rfl (low_append (low_append (low_append (low_append rfl))))
theorem EncodeForm.sshl (d : BitVec 6) (a : BitVec 6) (b : BitVec 6) : EncodeForm.Statement (.sshl d a b) := short_form rfl (low_append (low_append (low_append (low_append rfl))))
theorem EncodeForm.sshr (d : BitVec 6) (a : BitVec 6) (b : BitVec 6) : EncodeForm.Statement (.sshr d a b) := short_form rfl (low_append (low_append (low_append (low_append rfl))))
theorem EncodeForm.ssra (d : BitVec 6) (a : BitVec 6) (b : BitVec 6) : EncodeForm.Statement (.ssra d a b) := short_form rfl (low_append (low_append (low_append (low_append rfl))))
theorem EncodeForm.srot (d : BitVec 6) (a : BitVec 6) (b : BitVec 6) : EncodeForm.Statement (.srot d a b) := short_form rfl (low_append (low_append (low_append (low_append rfl))))
theorem EncodeForm.smin (d : BitVec 6) (a : BitVec 6) (b : BitVec 6) : EncodeForm.Statement (.smin d a b) := short_form rfl (low_append (low_append (low_append (low_append rfl))))
theorem EncodeForm.smax (d : BitVec 6) (a : BitVec 6) (b : BitVec 6) : EncodeForm.Statement (.smax d a b) := short_form rfl (low_append (low_append (low_append (low_append rfl))))
theorem EncodeForm.sminn (d : BitVec 6) (a : BitVec 6) (b : BitVec 6) : EncodeForm.Statement (.sminn d a b) := short_form rfl (low_append (low_append (low_append (low_append rfl))))
theorem EncodeForm.smaxn (d : BitVec 6) (a : BitVec 6) (b : BitVec 6) : EncodeForm.Statement (.smaxn d a b) := short_form rfl (low_append (low_append (low_append (low_append rfl))))
theorem EncodeForm.sclz (d : BitVec 6) (a : BitVec 6) : EncodeForm.Statement (.sclz d a) := short_form rfl (low_append (low_append (low_append rfl)))
theorem EncodeForm.spopc (d : BitVec 6) (a : BitVec 6) : EncodeForm.Statement (.spopc d a) := short_form rfl (low_append (low_append (low_append rfl)))
theorem EncodeForm.scmp (cond : BitVec 6) (d : BitVec 6) (a : BitVec 6) (b : BitVec 6) : EncodeForm.Statement (.scmp cond d a b) := short_form rfl (low_append (low_append (low_append (low_append rfl))))
theorem EncodeForm.smov (d : BitVec 6) (a : BitVec 6) : EncodeForm.Statement (.smov d a) := short_form rfl (low_append (low_append (low_append rfl)))
theorem EncodeForm.sadd64 (d : BitVec 6) (a : BitVec 6) (b : BitVec 6) : EncodeForm.Statement (.sadd64 d a b) := short_form rfl (low_append (low_append (low_append (low_append rfl))))
theorem EncodeForm.ssub64 (d : BitVec 6) (a : BitVec 6) (b : BitVec 6) : EncodeForm.Statement (.ssub64 d a b) := short_form rfl (low_append (low_append (low_append (low_append rfl))))
theorem EncodeForm.sshl64 (d : BitVec 6) (a : BitVec 6) (b : BitVec 6) : EncodeForm.Statement (.sshl64 d a b) := short_form rfl (low_append (low_append (low_append (low_append rfl))))
theorem EncodeForm.sshr64 (d : BitVec 6) (a : BitVec 6) (b : BitVec 6) : EncodeForm.Statement (.sshr64 d a b) := short_form rfl (low_append (low_append (low_append (low_append rfl))))
theorem EncodeForm.saddi (d : BitVec 6) (a : BitVec 6) (imm : BitVec 12) : EncodeForm.Statement (.saddi d a imm) := short_form rfl (low_append (low_append (low_append rfl)))
theorem EncodeForm.sandi (d : BitVec 6) (a : BitVec 6) (imm : BitVec 12) : EncodeForm.Statement (.sandi d a imm) := short_form rfl (low_append (low_append (low_append rfl)))
theorem EncodeForm.sori (d : BitVec 6) (a : BitVec 6) (imm : BitVec 12) : EncodeForm.Statement (.sori d a imm) := short_form rfl (low_append (low_append (low_append rfl)))
theorem EncodeForm.sxori (d : BitVec 6) (a : BitVec 6) (imm : BitVec 12) : EncodeForm.Statement (.sxori d a imm) := short_form rfl (low_append (low_append (low_append rfl)))
theorem EncodeForm.sshli (d : BitVec 6) (a : BitVec 6) (imm : BitVec 5) : EncodeForm.Statement (.sshli d a imm) := short_form rfl (low_append (low_append (low_append (low_append rfl))))
theorem EncodeForm.sshri (d : BitVec 6) (a : BitVec 6) (imm : BitVec 5) : EncodeForm.Statement (.sshri d a imm) := short_form rfl (low_append (low_append (low_append (low_append rfl))))
theorem EncodeForm.ssrai (d : BitVec 6) (a : BitVec 6) (imm : BitVec 5) : EncodeForm.Statement (.ssrai d a imm) := short_form rfl (low_append (low_append (low_append (low_append rfl))))
theorem EncodeForm.scmpi (d : BitVec 6) (a : BitVec 6) (imm : BitVec 12) : EncodeForm.Statement (.scmpi d a imm) := short_form rfl (low_append (low_append (low_append rfl)))
theorem EncodeForm.slil (d : BitVec 6) (imm : BitVec 18) : EncodeForm.Statement (.slil d imm) := short_form rfl (low_append (low_append rfl))
theorem EncodeForm.slih (d : BitVec 6) (imm : BitVec 14) : EncodeForm.Statement (.slih d imm) := short_form rfl (low_append (low_append (low_append rfl)))
theorem EncodeForm.br (off : BitVec 22) : EncodeForm.Statement (.br off) := short_form rfl (low_append (low_append rfl))
theorem EncodeForm.brc (hint : BitVec 2) (k : BitVec 3) (cond : BitVec 2) (off : BitVec 17) : EncodeForm.Statement (.brc hint k cond off) := short_form rfl (low_append (low_append (low_append (low_append rfl))))
theorem EncodeForm.brz (d : BitVec 6) (off : BitVec 18) : EncodeForm.Statement (.brz d off) := short_form rfl (low_append (low_append rfl))
theorem EncodeForm.brnz (d : BitVec 6) (off : BitVec 18) : EncodeForm.Statement (.brnz d off) := short_form rfl (low_append (low_append rfl))
theorem EncodeForm.call (d : BitVec 6) (off : BitVec 18) : EncodeForm.Statement (.call d off) := short_form rfl (low_append (low_append rfl))
theorem EncodeForm.ret (a : BitVec 6) : EncodeForm.Statement (.ret a) := short_form rfl (low_append (low_append (low_append rfl)))
theorem EncodeForm.jmpi (a : BitVec 6) : EncodeForm.Statement (.jmpi a) := short_form rfl (low_append (low_append (low_append rfl)))
theorem EncodeForm.ptoken (off : BitVec 22) : EncodeForm.Statement (.ptoken off) := short_form rfl (low_append (low_append rfl))
theorem EncodeForm.merge : EncodeForm.Statement (.merge) := short_form rfl (low_append rfl)
theorem EncodeForm.regang : EncodeForm.Statement (.regang) := short_form rfl (low_append rfl)
theorem EncodeForm.yield : EncodeForm.Statement (.yield) := short_form rfl (low_append rfl)
theorem EncodeForm.brp (hint : BitVec 2) (off : BitVec 22) : EncodeForm.Statement (.brp hint off) := short_form rfl (low_append (low_append rfl))
theorem EncodeForm.sget (d : BitVec 6) (sel : BitVec 8) : EncodeForm.Statement (.sget d sel) := short_form rfl (low_append (low_append (low_append (low_append rfl))))
theorem EncodeForm.sset (sel : BitVec 8) (a : BitVec 6) : EncodeForm.Statement (.sset sel a) := short_form rfl (low_append (low_append (low_append (low_append rfl))))
theorem EncodeForm.ssetSet (sel : BitVec 8) (a : BitVec 6) : EncodeForm.Statement (.ssetSet sel a) := short_form rfl (low_append (low_append (low_append (low_append rfl))))
theorem EncodeForm.ssetClr (sel : BitVec 8) (a : BitVec 6) : EncodeForm.Statement (.ssetClr sel a) := short_form rfl (low_append (low_append (low_append (low_append rfl))))
theorem EncodeForm.yieldp (a : BitVec 6) : EncodeForm.Statement (.yieldp a) := short_form rfl (low_append (low_append (low_append rfl)))
theorem EncodeForm.exit : EncodeForm.Statement (.exit) := short_form rfl (low_append rfl)
theorem EncodeForm.trap (imm : BitVec 18) : EncodeForm.Statement (.trap imm) := short_form rfl (low_append (low_append rfl))
theorem EncodeForm.tret : EncodeForm.Statement (.tret) := short_form rfl (low_append rfl)
theorem EncodeForm.kand (d : BitVec 6) (a : BitVec 6) (b : BitVec 6) : EncodeForm.Statement (.kand d a b) := short_form rfl (low_append (low_append (low_append (low_append rfl))))
theorem EncodeForm.kor (d : BitVec 6) (a : BitVec 6) (b : BitVec 6) : EncodeForm.Statement (.kor d a b) := short_form rfl (low_append (low_append (low_append (low_append rfl))))
theorem EncodeForm.kxor (d : BitVec 6) (a : BitVec 6) (b : BitVec 6) : EncodeForm.Statement (.kxor d a b) := short_form rfl (low_append (low_append (low_append (low_append rfl))))
theorem EncodeForm.kandn (d : BitVec 6) (a : BitVec 6) (b : BitVec 6) : EncodeForm.Statement (.kandn d a b) := short_form rfl (low_append (low_append (low_append (low_append rfl))))
theorem EncodeForm.knot (d : BitVec 6) (a : BitVec 6) : EncodeForm.Statement (.knot d a) := short_form rfl (low_append (low_append (low_append rfl)))
theorem EncodeForm.kmovsToMask (d : BitVec 6) (a : BitVec 6) : EncodeForm.Statement (.kmovsToMask d a) := short_form rfl (low_append (low_append (low_append rfl)))
theorem EncodeForm.kmovsToScalar (d : BitVec 6) (a : BitVec 6) : EncodeForm.Statement (.kmovsToScalar d a) := short_form rfl (low_append (low_append (low_append (low_append rfl))))
theorem EncodeForm.kset (d : BitVec 6) (imm : BitVec 4) : EncodeForm.Statement (.kset d imm) := short_form rfl (low_append (low_append (low_append (low_append rfl))))
theorem EncodeForm.waitc (fl : BitVec 6) (fs : BitVec 6) (cp : BitVec 6) (tl : BitVec 6) : EncodeForm.Statement (.waitc fl fs cp tl) := short_form rfl (low_append (low_append (low_append (low_append rfl))))
theorem EncodeForm.waitt (mask : BitVec 8) : EncodeForm.Statement (.waitt mask) := short_form rfl (low_append (low_append (low_append rfl)))
theorem EncodeForm.yieldt (mask : BitVec 8) (off : BitVec 12) : EncodeForm.Statement (.yieldt mask off) := short_form rfl (low_append (low_append (low_append rfl)))
theorem EncodeForm.sld (d : BitVec 6) (a : BitVec 6) (imm : BitVec 12) : EncodeForm.Statement (.sld d a imm) := short_form rfl (low_append (low_append (low_append rfl)))
theorem EncodeForm.sst (d : BitVec 6) (a : BitVec 6) (imm : BitVec 12) : EncodeForm.Statement (.sst d a imm) := short_form rfl (low_append (low_append (low_append rfl)))
theorem EncodeForm.fence (kind : BitVec 2) (scope : BitVec 3) : EncodeForm.Statement (.fence kind scope) := short_form rfl (low_append (low_append (low_append (low_append rfl))))
theorem EncodeForm.pfence (path : BitVec 6) : EncodeForm.Statement (.pfence path) := short_form rfl (low_append (low_append rfl))
theorem EncodeForm.barinit (a : BitVec 6) (b : BitVec 6) : EncodeForm.Statement (.barinit a b) := short_form rfl (low_append (low_append (low_append (low_append rfl))))
theorem EncodeForm.bararr (scope : BitVec 3) (a : BitVec 6) : EncodeForm.Statement (.bararr scope a) := short_form rfl (low_append (low_append (low_append (low_append (low_append rfl)))))
theorem EncodeForm.bararrN (scope : BitVec 3) (a : BitVec 6) (b : BitVec 6) : EncodeForm.Statement (.bararrN scope a b) := short_form rfl (low_append (low_append (low_append (low_append (low_append (low_append rfl))))))
theorem EncodeForm.bartx (a : BitVec 6) (b : BitVec 6) : EncodeForm.Statement (.bartx a b) := short_form rfl (low_append (low_append (low_append (low_append rfl))))
theorem EncodeForm.bartxArr (scope : BitVec 3) (a : BitVec 6) (b : BitVec 6) : EncodeForm.Statement (.bartxArr scope a b) := short_form rfl (low_append (low_append (low_append (low_append (low_append (low_append rfl))))))
theorem EncodeForm.barwait (scope : BitVec 3) (a : BitVec 6) (b : BitVec 6) : EncodeForm.Statement (.barwait scope a b) := short_form rfl (low_append (low_append (low_append (low_append (low_append rfl)))))
theorem EncodeForm.bartry (scope : BitVec 3) (d : BitVec 6) (a : BitVec 6) (b : BitVec 6) : EncodeForm.Statement (.bartry scope d a b) := short_form rfl (low_append (low_append (low_append (low_append (low_append rfl)))))
theorem EncodeForm.tsync (scope : BitVec 3) : EncodeForm.Statement (.tsync scope) := short_form rfl (low_append (low_append (low_append rfl)))
theorem EncodeForm.whold (loc : Bool) (d : BitVec 6) (a : BitVec 6) : EncodeForm.Statement (.whold loc d a) := short_form rfl (low_append (low_append (low_append (low_append rfl))))
theorem EncodeForm.wdrop (loc : Bool) (kind : BitVec 2) (d : BitVec 6) (a : BitVec 6) : EncodeForm.Statement (.wdrop loc kind d a) := short_form rfl (low_append (low_append (low_append (low_append (low_append (low_append rfl))))))
theorem EncodeForm.wwill (loc : Bool) (d : BitVec 6) (a : BitVec 6) : EncodeForm.Statement (.wwill loc d a) := short_form rfl (low_append (low_append (low_append (low_append rfl))))
theorem EncodeForm.waitv (loc : Bool) (cond : BitVec 2) (scope : BitVec 3) (d : BitVec 6) (a : BitVec 6) (b : BitVec 6) : EncodeForm.Statement (.waitv loc cond scope d a b) := short_form rfl (low_append (low_append (low_append (low_append (low_append (low_append rfl))))))
theorem EncodeForm.lockacq (loc : Bool) (once : Bool) (scope : BitVec 3) (d : BitVec 6) (a : BitVec 6) : EncodeForm.Statement (.lockacq loc once scope d a) := short_form rfl (low_append (low_append (low_append (low_append (low_append (low_append (low_append rfl)))))))
theorem EncodeForm.lockrel (loc : Bool) (scope : BitVec 3) (d : BitVec 6) (a : BitVec 6) : EncodeForm.Statement (.lockrel loc scope d a) := short_form rfl (low_append (low_append (low_append (low_append (low_append (low_append rfl))))))
theorem EncodeForm.launch (d : BitVec 6) (a : BitVec 6) : EncodeForm.Statement (.launch d a) := short_form rfl (low_append (low_append (low_append rfl)))
theorem EncodeForm.launchParam (d : BitVec 6) (a : BitVec 6) (b : BitVec 6) : EncodeForm.Statement (.launchParam d a b) := short_form rfl (low_append (low_append (low_append (low_append rfl))))
theorem EncodeForm.send (rdv : Bool) (j : BitVec 3) (a : BitVec 6) (b : BitVec 6) : EncodeForm.Statement (.send rdv j a b) := short_form rfl (low_append (low_append (low_append (low_append (low_append (low_append rfl))))))
theorem EncodeForm.rpost (tok : Bool) (cq : Bool) (bar : Bool) (j : BitVec 3) (d : BitVec 6) (a : BitVec 6) : EncodeForm.Statement (.rpost tok cq bar j d a) := short_form rfl (low_append (low_append (low_append (low_append (low_append (low_append (low_append rfl)))))))
theorem EncodeForm.rcancel (d : BitVec 6) (a : BitVec 6) : EncodeForm.Statement (.rcancel d a) := short_form rfl (low_append (low_append (low_append rfl)))
theorem EncodeForm.rprobe (d : BitVec 6) (a : BitVec 6) : EncodeForm.Statement (.rprobe d a) := short_form rfl (low_append (low_append (low_append rfl)))
theorem EncodeForm.copy (mc : Bool) (bar : Bool) (j : BitVec 3) (d : BitVec 6) (a : BitVec 6) (b : BitVec 6) : EncodeForm.Statement (.copy mc bar j d a b) := short_form rfl (low_append (low_append (low_append (low_append (low_append (low_append (low_append rfl)))))))
theorem EncodeForm.copytLd (mc : Bool) (bar : Bool) (j : BitVec 3) (d : BitVec 6) (a : BitVec 6) (b : BitVec 6) : EncodeForm.Statement (.copytLd mc bar j d a b) := short_form rfl (low_append (low_append (low_append (low_append (low_append (low_append (low_append rfl)))))))
theorem EncodeForm.copytSt (bar : Bool) (j : BitVec 3) (d : BitVec 6) (a : BitVec 6) (b : BitVec 6) : EncodeForm.Statement (.copytSt bar j d a b) := short_form rfl (low_append (low_append (low_append (low_append (low_append (low_append rfl))))))
theorem EncodeForm.copytSc (bar : Bool) (j : BitVec 3) (d : BitVec 6) (a : BitVec 6) (b : BitVec 6) : EncodeForm.Statement (.copytSc bar j d a b) := short_form rfl (low_append (low_append (low_append (low_append (low_append (low_append rfl))))))
theorem EncodeForm.copyg (mc : Bool) (bar : Bool) (j : BitVec 3) (d : BitVec 6) (a : BitVec 6) (b : BitVec 6) : EncodeForm.Statement (.copyg mc bar j d a b) := short_form rfl (low_append (low_append (low_append (low_append (low_append (low_append (low_append rfl)))))))
theorem EncodeForm.copys (bar : Bool) (j : BitVec 3) (d : BitVec 6) (a : BitVec 6) (b : BitVec 6) : EncodeForm.Statement (.copys bar j d a b) := short_form rfl (low_append (low_append (low_append (low_append (low_append (low_append rfl))))))
theorem EncodeForm.copyr (form : BitVec 2) (bar : Bool) (j : BitVec 3) (d : BitVec 6) (a : BitVec 6) (b : BitVec 6) : EncodeForm.Statement (.copyr form bar j d a b) := short_form rfl (low_append (low_append (low_append (low_append (low_append (low_append rfl))))))
theorem EncodeForm.tset (j : BitVec 6) (a : BitVec 6) (b : BitVec 6) : EncodeForm.Statement (.tset j a b) := short_form rfl (low_append (low_append (low_append (low_append rfl))))
theorem EncodeForm.tsetLo (j : BitVec 6) (a : BitVec 6) : EncodeForm.Statement (.tsetLo j a) := short_form rfl (low_append (low_append (low_append (low_append rfl))))
theorem EncodeForm.tsetHi (j : BitVec 6) (a : BitVec 6) : EncodeForm.Statement (.tsetHi j a) := short_form rfl (low_append (low_append (low_append (low_append rfl))))
theorem EncodeForm.tget (d : BitVec 6) (j : BitVec 6) : EncodeForm.Statement (.tget d j) := short_form rfl (low_append (low_append (low_append rfl)))
theorem EncodeForm.tgetHi (d : BitVec 6) (j : BitVec 6) : EncodeForm.Statement (.tgetHi d j) := short_form rfl (low_append (low_append (low_append (low_append rfl))))
theorem EncodeForm.mbatch (j : BitVec 3) : EncodeForm.Statement (.mbatch j) := short_form rfl (low_append (low_append (low_append rfl)))
theorem EncodeForm.mbatchArr (j : BitVec 3) (a : BitVec 6) (b : BitVec 6) : EncodeForm.Statement (.mbatchArr j a b) := short_form rfl (low_append (low_append (low_append (low_append (low_append (low_append rfl))))))
theorem EncodeForm.mmagokOpen (d : BitVec 6) (a : BitVec 6) (b : BitVec 6) : EncodeForm.Statement (.mmagokOpen d a b) := short_form rfl (low_append (low_append (low_append (low_append rfl))))
theorem EncodeForm.mmagokClose (d : BitVec 6) : EncodeForm.Statement (.mmagokClose d) := short_form rfl (low_append (low_append (low_append rfl)))
theorem EncodeForm.iadd (f : Long) : EncodeForm.Statement (.iadd f) := encodeLong_form rfl
theorem EncodeForm.isub (f : Long) : EncodeForm.Statement (.isub f) := encodeLong_form rfl
theorem EncodeForm.imul (f : Long) : EncodeForm.Statement (.imul f) := encodeLong_form rfl
theorem EncodeForm.imulh (f : Long) : EncodeForm.Statement (.imulh f) := encodeLong_form rfl
theorem EncodeForm.imad (f : Long) : EncodeForm.Statement (.imad f) := encodeLong_form rfl
theorem EncodeForm.imadw (f : Long) : EncodeForm.Statement (.imadw f) := encodeLong_form rfl
theorem EncodeForm.imin (f : Long) : EncodeForm.Statement (.imin f) := encodeLong_form rfl
theorem EncodeForm.imax (f : Long) : EncodeForm.Statement (.imax f) := encodeLong_form rfl
theorem EncodeForm.iabs (f : Long) : EncodeForm.Statement (.iabs f) := encodeLong_form rfl
theorem EncodeForm.iand (f : Long) : EncodeForm.Statement (.iand f) := encodeLong_form rfl
theorem EncodeForm.ior (f : Long) : EncodeForm.Statement (.ior f) := encodeLong_form rfl
theorem EncodeForm.ixor (f : Long) : EncodeForm.Statement (.ixor f) := encodeLong_form rfl
theorem EncodeForm.iandn (f : Long) : EncodeForm.Statement (.iandn f) := encodeLong_form rfl
theorem EncodeForm.ishl (f : Long) : EncodeForm.Statement (.ishl f) := encodeLong_form rfl
theorem EncodeForm.ishr (f : Long) : EncodeForm.Statement (.ishr f) := encodeLong_form rfl
theorem EncodeForm.isra (f : Long) : EncodeForm.Statement (.isra f) := encodeLong_form rfl
theorem EncodeForm.irot (f : Long) : EncodeForm.Statement (.irot f) := encodeLong_form rfl
theorem EncodeForm.ipopc (f : Long) : EncodeForm.Statement (.ipopc f) := encodeLong_form rfl
theorem EncodeForm.iclz (f : Long) : EncodeForm.Statement (.iclz f) := encodeLong_form rfl
theorem EncodeForm.ibfx (f : Long) : EncodeForm.Statement (.ibfx f) := encodeLong_form rfl
theorem EncodeForm.ibfi (f : Long) : EncodeForm.Statement (.ibfi f) := encodeLong_form rfl
theorem EncodeForm.ibrev (f : Long) : EncodeForm.Statement (.ibrev f) := encodeLong_form rfl
theorem EncodeForm.iperm (f : Long) : EncodeForm.Statement (.iperm f) := encodeLong_form rfl
theorem EncodeForm.icmp (f : Long) : EncodeForm.Statement (.icmp f) := encodeLong_form rfl
theorem EncodeForm.isad (f : Long) : EncodeForm.Statement (.isad f) := encodeLong_form rfl
theorem EncodeForm.iadd64 (f : Long) : EncodeForm.Statement (.iadd64 f) := encodeLong_form rfl
theorem EncodeForm.mov (f : Long) : EncodeForm.Statement (.mov f) := encodeLong_form rfl
theorem EncodeForm.movi (f : Long) : EncodeForm.Statement (.movi f) := encodeLong_form rfl
theorem EncodeForm.sel (f : Long) : EncodeForm.Statement (.sel f) := encodeLong_form rfl
theorem EncodeForm.movs (f : Long) : EncodeForm.Statement (.movs f) := encodeLong_form rfl
theorem EncodeForm.movkToMask (f : Long) : EncodeForm.Statement (.movkToMask f) := encodeLong_form rfl
theorem EncodeForm.movkToVector (f : Long) : EncodeForm.Statement (.movkToVector f) := encodeLong_form rfl
theorem EncodeForm.vtos (f : Long) : EncodeForm.Statement (.vtos f) := encodeLong_form rfl
theorem EncodeForm.vtosFirst (f : Long) : EncodeForm.Statement (.vtosFirst f) := encodeLong_form rfl
theorem EncodeForm.fadd (f : Long) : EncodeForm.Statement (.fadd f) := encodeLong_form rfl
theorem EncodeForm.fsub (f : Long) : EncodeForm.Statement (.fsub f) := encodeLong_form rfl
theorem EncodeForm.fmul (f : Long) : EncodeForm.Statement (.fmul f) := encodeLong_form rfl
theorem EncodeForm.ffma (f : Long) : EncodeForm.Statement (.ffma f) := encodeLong_form rfl
theorem EncodeForm.fmin (f : Long) : EncodeForm.Statement (.fmin f) := encodeLong_form rfl
theorem EncodeForm.fmax (f : Long) : EncodeForm.Statement (.fmax f) := encodeLong_form rfl
theorem EncodeForm.fneg (f : Long) : EncodeForm.Statement (.fneg f) := encodeLong_form rfl
theorem EncodeForm.fabs (f : Long) : EncodeForm.Statement (.fabs f) := encodeLong_form rfl
theorem EncodeForm.fcmp (f : Long) : EncodeForm.Statement (.fcmp f) := encodeLong_form rfl
theorem EncodeForm.fclass (f : Long) : EncodeForm.Statement (.fclass f) := encodeLong_form rfl
theorem EncodeForm.frnd (f : Long) : EncodeForm.Statement (.frnd f) := encodeLong_form rfl
theorem EncodeForm.ffrac (f : Long) : EncodeForm.Statement (.ffrac f) := encodeLong_form rfl
theorem EncodeForm.fldexp (f : Long) : EncodeForm.Statement (.fldexp f) := encodeLong_form rfl
theorem EncodeForm.fgetexp (f : Long) : EncodeForm.Statement (.fgetexp f) := encodeLong_form rfl
theorem EncodeForm.cvt (f : Long) : EncodeForm.Statement (.cvt f) := encodeLong_form rfl
theorem EncodeForm.pack (f : Long) : EncodeForm.Statement (.pack f) := encodeLong_form rfl
theorem EncodeForm.unpack (f : Long) : EncodeForm.Statement (.unpack f) := encodeLong_form rfl
theorem EncodeForm.scaleFit (f : Long) : EncodeForm.Statement (.scaleFit f) := encodeLong_form rfl
theorem EncodeForm.scaleApply (f : Long) : EncodeForm.Statement (.scaleApply f) := encodeLong_form rfl
theorem EncodeForm.rcp (f : Long) : EncodeForm.Statement (.rcp f) := encodeLong_form rfl
theorem EncodeForm.rsq (f : Long) : EncodeForm.Statement (.rsq f) := encodeLong_form rfl
theorem EncodeForm.sqrt (f : Long) : EncodeForm.Statement (.sqrt f) := encodeLong_form rfl
theorem EncodeForm.exp2 (f : Long) : EncodeForm.Statement (.exp2 f) := encodeLong_form rfl
theorem EncodeForm.log2 (f : Long) : EncodeForm.Statement (.log2 f) := encodeLong_form rfl
theorem EncodeForm.sinpi (f : Long) : EncodeForm.Statement (.sinpi f) := encodeLong_form rfl
theorem EncodeForm.cospi (f : Long) : EncodeForm.Statement (.cospi f) := encodeLong_form rfl
theorem EncodeForm.dot2 (f : Long) : EncodeForm.Statement (.dot2 f) := encodeLong_form rfl
theorem EncodeForm.dot4 (f : Long) : EncodeForm.Statement (.dot4 f) := encodeLong_form rfl
theorem EncodeForm.dot8 (f : Long) : EncodeForm.Statement (.dot8 f) := encodeLong_form rfl
theorem EncodeForm.fuse (f : FuseWord) : EncodeForm.Statement (.fuse f) := encodeFuse_form rfl
theorem EncodeForm.laneid (f : Long) : EncodeForm.Statement (.laneid f) := encodeLong_form rfl
theorem EncodeForm.plane (f : Long) : EncodeForm.Statement (.plane f) := encodeLong_form rfl
theorem EncodeForm.shfl (f : Long) : EncodeForm.Statement (.shfl f) := encodeLong_form rfl
theorem EncodeForm.shflx (f : Long) : EncodeForm.Statement (.shflx f) := encodeLong_form rfl
theorem EncodeForm.bcast (f : Long) : EncodeForm.Statement (.bcast f) := encodeLong_form rfl
theorem EncodeForm.bcastFirst (f : Long) : EncodeForm.Statement (.bcastFirst f) := encodeLong_form rfl
theorem EncodeForm.vote (f : Long) : EncodeForm.Statement (.vote f) := encodeLong_form rfl
theorem EncodeForm.reduce (f : Long) : EncodeForm.Statement (.reduce f) := encodeLong_form rfl
theorem EncodeForm.scan (f : Long) : EncodeForm.Statement (.scan f) := encodeLong_form rfl
theorem EncodeForm.ld (f : Long) : EncodeForm.Statement (.ld f) := encodeLong_form rfl
theorem EncodeForm.st (f : Long) : EncodeForm.Statement (.st f) := encodeLong_form rfl
theorem EncodeForm.atom (f : Long) : EncodeForm.Statement (.atom f) := encodeLong_form rfl
theorem EncodeForm.atomCas (f : Long) : EncodeForm.Statement (.atomCas f) := encodeLong_form rfl
theorem EncodeForm.fld (f : Long) : EncodeForm.Statement (.fld f) := encodeLong_form rfl
theorem EncodeForm.fst (f : Long) : EncodeForm.Statement (.fst f) := encodeLong_form rfl
theorem EncodeForm.fatom (f : Long) : EncodeForm.Statement (.fatom f) := encodeLong_form rfl
theorem EncodeForm.tld (f : Long) : EncodeForm.Statement (.tld f) := encodeLong_form rfl
theorem EncodeForm.tst (f : Long) : EncodeForm.Statement (.tst f) := encodeLong_form rfl
theorem EncodeForm.ttrans (f : Long) : EncodeForm.Statement (.ttrans f) := encodeLong_form rfl
theorem EncodeForm.mma (f : Long) : EncodeForm.Statement (.mma f) := encodeLong_form rfl
theorem EncodeForm.mmas (f : Long) : EncodeForm.Statement (.mmas f) := encodeLong_form rfl
theorem EncodeForm.mmag (f : Long) : EncodeForm.Statement (.mmag f) := encodeLong_form rfl
theorem EncodeForm.mmagNolocal (f : Long) : EncodeForm.Statement (.mmagNolocal f) := encodeLong_form rfl
theorem EncodeForm.afill (f : Long) : EncodeForm.Statement (.afill f) := encodeLong_form rfl
theorem EncodeForm.gangCompaction (team : Nat) (pc : Word) : EncodeForm.Statement (.gangCompaction team pc) := event_form rfl
theorem EncodeForm.regangTimerExpiry (team : Nat) (gang : Nat) : EncodeForm.Statement (.regangTimerExpiry team gang) := event_form rfl
theorem EncodeForm.fairnessSwitch (slice : Nat) : EncodeForm.Statement (.fairnessSwitch slice) := event_form rfl
theorem EncodeForm.boundaryTrap (slice : Nat) : EncodeForm.Statement (.boundaryTrap slice) := event_form rfl
theorem EncodeForm.trapBackoffExpiry (slice : Nat) : EncodeForm.Statement (.trapBackoffExpiry slice) := event_form rfl
theorem EncodeForm.coalesceFarRequests (far : Nat) : EncodeForm.Statement (.coalesceFarRequests far) := event_form rfl
theorem EncodeForm.farResponse (req : Nat) : EncodeForm.Statement (.farResponse req) := event_form rfl
theorem EncodeForm.farTimeout (req : Nat) : EncodeForm.Statement (.farTimeout req) := event_form rfl
theorem EncodeForm.translationWalk (part : Nat) (va : BitVec 48) : EncodeForm.Statement (.translationWalk part va) := event_form rfl
theorem EncodeForm.denialRecordClose (record : Nat) : EncodeForm.Statement (.denialRecordClose record) := event_form rfl
theorem EncodeForm.eccCorrection (unit : EccUnit) : EncodeForm.Statement (.eccCorrection unit) := event_form rfl
theorem EncodeForm.spareCopyDone (unit : EccUnit) : EncodeForm.Statement (.spareCopyDone unit) := event_form rfl
theorem EncodeForm.tileMoveDone (move : Nat) : EncodeForm.Statement (.tileMoveDone move) := event_form rfl
theorem EncodeForm.matrixEntryStart (entry : Nat) : EncodeForm.Statement (.matrixEntryStart entry) := event_form rfl
theorem EncodeForm.matrixWritebackEnd (entry : Nat) : EncodeForm.Statement (.matrixWritebackEnd entry) := event_form rfl
theorem EncodeForm.shadowCheck (core : Nat) : EncodeForm.Statement (.shadowCheck core) := event_form rfl
theorem EncodeForm.mmagDelivery (op : Nat) (pos : Nat) : EncodeForm.Statement (.mmagDelivery op pos) := event_form rfl
theorem EncodeForm.mmagComplete (op : Nat) : EncodeForm.Statement (.mmagComplete op) := event_form rfl
theorem EncodeForm.copyDispatch (cluster : Nat) (copy : Nat) : EncodeForm.Statement (.copyDispatch cluster copy) := event_form rfl
theorem EncodeForm.copyCredit (copy : Nat) (count : Nat) : EncodeForm.Statement (.copyCredit copy count) := event_form rfl
theorem EncodeForm.copyFinish (copy : Nat) : EncodeForm.Statement (.copyFinish copy) := event_form rfl
theorem EncodeForm.copyPause (copy : Nat) (handle : BitVec 16) : EncodeForm.Statement (.copyPause copy handle) := event_form rfl
theorem EncodeForm.copycmdResume (cluster : Nat) (handle : BitVec 16) : EncodeForm.Statement (.copycmdResume cluster handle) := event_form rfl
theorem EncodeForm.copycmdAbort (cluster : Nat) (handle : BitVec 16) : EncodeForm.Statement (.copycmdAbort cluster handle) := event_form rfl
theorem EncodeForm.barwaitEnd (slice : Nat) : EncodeForm.Statement (.barwaitEnd slice) := event_form rfl
theorem EncodeForm.tsyncComplete (team : Nat) : EncodeForm.Statement (.tsyncComplete team) := event_form rfl
theorem EncodeForm.waitcEnd (slice : Nat) : EncodeForm.Statement (.waitcEnd slice) := event_form rfl
theorem EncodeForm.waittEnd (slice : Nat) : EncodeForm.Statement (.waittEnd slice) := event_form rfl
theorem EncodeForm.yieldtResume (slice : Nat) : EncodeForm.Statement (.yieldtResume slice) := event_form rfl
theorem EncodeForm.fenceComplete (slice : Nat) : EncodeForm.Statement (.fenceComplete slice) := event_form rfl
theorem EncodeForm.waitvReevaluate (slice : Nat) : EncodeForm.Statement (.waitvReevaluate slice) := event_form rfl
theorem EncodeForm.lockacqRetry (slice : Nat) : EncodeForm.Statement (.lockacqRetry slice) := event_form rfl
theorem EncodeForm.mmagokCloseEnd (slice : Nat) : EncodeForm.Statement (.mmagokCloseEnd slice) := event_form rfl
theorem EncodeForm.unregisteredWaitRecheck (slice : Nat) : EncodeForm.Statement (.unregisteredWaitRecheck slice) := event_form rfl
theorem EncodeForm.remoteWaitTimeout (slice : Nat) : EncodeForm.Statement (.remoteWaitTimeout slice) := event_form rfl
theorem EncodeForm.wftWalk (slice : Nat) : EncodeForm.Statement (.wftWalk slice) := event_form rfl
theorem EncodeForm.wftProbe (die : Nat) (team : Nat) : EncodeForm.Statement (.wftProbe die team) := event_form rfl
theorem EncodeForm.watchdog (team : Nat) : EncodeForm.Statement (.watchdog team) := event_form rfl
theorem EncodeForm.launchSettle (launch : Nat) : EncodeForm.Statement (.launchSettle launch) := event_form rfl
theorem EncodeForm.lsctlGo (part : Nat) : EncodeForm.Statement (.lsctlGo part) := event_form rfl
theorem EncodeForm.teamPlace (part : Nat) : EncodeForm.Statement (.teamPlace part) := event_form rfl
theorem EncodeForm.coreWake (core : Nat) : EncodeForm.Statement (.coreWake core) := event_form rfl
theorem EncodeForm.teamRetire (team : Nat) : EncodeForm.Statement (.teamRetire team) := event_form rfl
theorem EncodeForm.quantumBoundary (part : Nat) : EncodeForm.Statement (.quantumBoundary part) := event_form rfl
theorem EncodeForm.idleGating (whole : Bool) (unit : Nat) : EncodeForm.Statement (.idleGating whole unit) := event_form rfl
theorem EncodeForm.ptpMessage (msg : PtpMsg) : EncodeForm.Statement (.ptpMessage msg) := event_form rfl
theorem EncodeForm.timeStep (time : BitVec 64) : EncodeForm.Statement (.timeStep time) := event_form rfl
theorem EncodeForm.timestatWrite : EncodeForm.Statement (.timestatWrite) := event_form rfl
theorem EncodeForm.leaseMessage (id : BitVec 32) (stamp : LeaseStamp) : EncodeForm.Statement (.leaseMessage id stamp) := event_form rfl
theorem EncodeForm.leaseTimeout : EncodeForm.Statement (.leaseTimeout) := event_form rfl
theorem EncodeForm.electionDecide : EncodeForm.Statement (.electionDecide) := event_form rfl
theorem EncodeForm.timetableEntryArrival (entry : TtEntry) : EncodeForm.Statement (.timetableEntryArrival entry) := event_form rfl
theorem EncodeForm.ltctlGo (part : Nat) : EncodeForm.Statement (.ltctlGo part) := event_form rfl
theorem EncodeForm.preqRise (part : Nat) : EncodeForm.Statement (.preqRise part) := event_form rfl
theorem EncodeForm.timetableStart (part : Nat) : EncodeForm.Statement (.timetableStart part) := event_form rfl
theorem EncodeForm.drainWindowEnd (part : Nat) : EncodeForm.Statement (.drainWindowEnd part) := event_form rfl
theorem EncodeForm.saveComplete (part : Nat) : EncodeForm.Statement (.saveComplete part) := event_form rfl
theorem EncodeForm.restore (part : Nat) : EncodeForm.Statement (.restore part) := event_form rfl
theorem EncodeForm.generationQuiesce (part : Nat) : EncodeForm.Statement (.generationQuiesce part) := event_form rfl
theorem EncodeForm.swstatWrite (part : Nat) : EncodeForm.Statement (.swstatWrite part) := event_form rfl
theorem EncodeForm.urgcmdGo (part : Nat) (job : BitVec 16) (gen : BitVec 12) : EncodeForm.Statement (.urgcmdGo part job gen) := event_form rfl
theorem EncodeForm.urgentHalt (part : Nat) : EncodeForm.Statement (.urgentHalt part) := event_form rfl
theorem EncodeForm.urgentReturn (part : Nat) : EncodeForm.Statement (.urgentReturn part) := event_form rfl
theorem EncodeForm.packetArrival (come : Arrival) : EncodeForm.Statement (.packetArrival come) := event_form rfl
theorem EncodeForm.nackRetry (nack : Packet) : EncodeForm.Statement (.nackRetry nack) := event_form rfl
theorem EncodeForm.parkRetry (stream : StreamId) : EncodeForm.Statement (.parkRetry stream) := event_form rfl
theorem EncodeForm.peerRequest (pkt : Packet) : EncodeForm.Statement (.peerRequest pkt) := event_form rfl
theorem EncodeForm.answerArrival (pkt : Packet) : EncodeForm.Statement (.answerArrival pkt) := event_form rfl
theorem EncodeForm.flitReceive (port : Nat) (flit : Flit) : EncodeForm.Statement (.flitReceive port flit) := event_form rfl
theorem EncodeForm.laneLockLoss (port : Nat) : EncodeForm.Statement (.laneLockLoss port) := event_form rfl
theorem EncodeForm.linkRetrainDone (port : Nat) (width : Option (BitVec 2)) : EncodeForm.Statement (.linkRetrainDone port width) := event_form rfl
theorem EncodeForm.linkWidenAttempt (port : Nat) (ok : Bool) : EncodeForm.Statement (.linkWidenAttempt port ok) := event_form rfl
theorem EncodeForm.linkDownRetry (port : Nat) : EncodeForm.Statement (.linkDownRetry port) := event_form rfl
theorem EncodeForm.linkReport (port : Nat) (usable : BitVec 16) : EncodeForm.Statement (.linkReport port usable) := event_form rfl
theorem EncodeForm.linkstWrite (port : Nat) : EncodeForm.Statement (.linkstWrite port) := event_form rfl
theorem EncodeForm.pathChangeResend (stream : StreamId) : EncodeForm.Statement (.pathChangeResend stream) := event_form rfl
theorem EncodeForm.scaleoutResend (stream : StreamId) : EncodeForm.Statement (.scaleoutResend stream) := event_form rfl
theorem EncodeForm.messageArrival (pkt : Packet) : EncodeForm.Statement (.messageArrival pkt) := event_form rfl
theorem EncodeForm.messagePacketLanding (pkt : Packet) : EncodeForm.Statement (.messagePacketLanding pkt) := event_form rfl
theorem EncodeForm.pullRequest (pkt : Packet) : EncodeForm.Statement (.pullRequest pkt) := event_form rfl
theorem EncodeForm.pullAnswer (pkt : Packet) : EncodeForm.Statement (.pullAnswer pkt) := event_form rfl
theorem EncodeForm.sendFinish (send : Nat) : EncodeForm.Statement (.sendFinish send) := event_form rfl
theorem EncodeForm.receiveComplete (recv : Nat) : EncodeForm.Statement (.receiveComplete recv) := event_form rfl
theorem EncodeForm.xlcmdPage (die : Nat) (job : BitVec 16) (vpn : BitVec 33) : EncodeForm.Statement (.xlcmdPage die job vpn) := event_form rfl
theorem EncodeForm.xlcmdJob (die : Nat) (job : BitVec 16) (clr : Bool) : EncodeForm.Statement (.xlcmdJob die job clr) := event_form rfl
theorem EncodeForm.xlcmdAll (die : Nat) (clr : Bool) : EncodeForm.Statement (.xlcmdAll die clr) := event_form rfl
theorem EncodeForm.xlcmdDone (die : Nat) : EncodeForm.Statement (.xlcmdDone die) := event_form rfl
theorem EncodeForm.wftspillWrite (die : Nat) (part : Nat) (value : DWord) : EncodeForm.Statement (.wftspillWrite die part value) := event_form rfl
theorem EncodeForm.wftstatWrite (die : Nat) : EncodeForm.Statement (.wftstatWrite die) := event_form rfl
theorem EncodeForm.partcfgWrite (part : Nat) (value : DWord) : EncodeForm.Statement (.partcfgWrite part value) := event_form rfl
theorem EncodeForm.copyqosWrite (die : Nat) (part : Nat) (value : DWord) : EncodeForm.Statement (.copyqosWrite die part value) := event_form rfl
theorem EncodeForm.copyTokenRefill (die : Nat) : EncodeForm.Statement (.copyTokenRefill die) := event_form rfl
theorem EncodeForm.clendLend (cluster : Nat) (borrower : BitVec 4) : EncodeForm.Statement (.clendLend cluster borrower) := event_form rfl
theorem EncodeForm.clendReclaim (cluster : Nat) : EncodeForm.Statement (.clendReclaim cluster) := event_form rfl
theorem EncodeForm.reclaimComplete (cluster : Nat) : EncodeForm.Statement (.reclaimComplete cluster) := event_form rfl
theorem EncodeForm.pwrcfgWrite (part : Nat) (value : DWord) : EncodeForm.Statement (.pwrcfgWrite part value) := event_form rfl
theorem EncodeForm.regulatorReconnect (cluster : Nat) : EncodeForm.Statement (.regulatorReconnect cluster) := event_form rfl
theorem EncodeForm.rggroupWrite (group : Nat) (value : Word) : EncodeForm.Statement (.rggroupWrite group value) := event_form rfl
theorem EncodeForm.powerMeterUpdate (part : Nat) : EncodeForm.Statement (.powerMeterUpdate part) := event_form rfl
theorem EncodeForm.teamcmdResume (part : Nat) (value : Word) : EncodeForm.Statement (.teamcmdResume part value) := event_form rfl
theorem EncodeForm.teamcmdEnd (part : Nat) (value : Word) : EncodeForm.Statement (.teamcmdEnd part value) := event_form rfl
theorem EncodeForm.mlogstWrite : EncodeForm.Statement (.mlogstWrite) := event_form rfl
theorem EncodeForm.presetGo (part : Nat) : EncodeForm.Statement (.presetGo part) := event_form rfl
theorem EncodeForm.presetClearDone (part : Nat) : EncodeForm.Statement (.presetClearDone part) := event_form rfl
theorem EncodeForm.presetAcknowledge (part : Nat) : EncodeForm.Statement (.presetAcknowledge part) := event_form rfl
theorem EncodeForm.boot (work : BootWork) : EncodeForm.Statement (.boot work) := event_form rfl
theorem EncodeForm.attestationRequest (part : Nat) (nonce : List (BitVec 8)) (vf : Option Nat) (numbers : List (BitVec 384)) : EncodeForm.Statement (.attestationRequest part nonce vf numbers) := event_form rfl
theorem EncodeForm.registerWrite (reg : MgmtReg) (value : DWord) : EncodeForm.Statement (.registerWrite reg value) := event_form rfl
theorem EncodeForm.holdover (drift : Int) : EncodeForm.Statement (.holdover drift) := event_form rfl
theorem EncodeForm.leaseSend : EncodeForm.Statement (.leaseSend) := event_form rfl
theorem EncodeForm.ethernetPortLinkChange (port : Nat) (up : Bool) : EncodeForm.Statement (.ethernetPortLinkChange port up) := event_form rfl
theorem EncodeForm.hostDieCoreAccess (acc : HostAccess) : EncodeForm.Statement (.hostDieCoreAccess acc) := event_form rfl
theorem EncodeForm.externalHostAccess (acc : HostAccess) : EncodeForm.Statement (.externalHostAccess acc) := event_form rfl
theorem EncodeForm.rggroupRampDone (group : Nat) : EncodeForm.Statement (.rggroupRampDone group) := event_form rfl

end Sys2Proof.Laws
end

