-- ==== Sys2Proof/Laws/Trap.lean ====
section
/-! SUPPORT. What taking a trap does (spec R217 to R221): the frame's words, the slice in its handler, and what is left as it
was. -/

namespace Sys2Proof.Machine

open Sys2Proof Sys2Proof.Claims

/-! ## The words of a frame -/

theorem frameFrom_find (ws : List Word) (n m : Nat) : aget 0 (frameFrom n ws) m = if n ≤ m then ws.getD (m - n) 0 else 0 := by
  induction ws generalizing n with
  | nil => simp [frameFrom, aget, afind]
  | cons w ws ih =>
    unfold frameFrom
    by_cases hw : w = 0
    · rw [if_pos hw, ih]
      by_cases h : n + 1 ≤ m
      · rw [if_pos h, if_pos (by omega), show m - n = m - (n + 1) + 1 by omega, List.getD_cons_succ]
      · rw [if_neg h]
        split
        · rw [show m - n = 0 by omega, List.getD_cons_zero, hw]
        · rfl
    · rw [if_neg hw]
      unfold aget at ih ⊢
      rw [afind_cons]
      by_cases h : n = m
      · subst h; simp
      · rw [if_neg h, ih]
        by_cases h' : n + 1 ≤ m
        · rw [if_pos h', if_pos (by omega), show m - n = m - (n + 1) + 1 by omega, List.getD_cons_succ]
        · rw [if_neg h', if_neg (by omega)]

/-- The words of a frame in order. -/
theorem frameFrom_word (ws : List Word) (m : Nat) : Frame.word (frameFrom 0 ws) m = ws.getD m 0 := by
  unfold Frame.word
  rw [frameFrom_find]
  simp

theorem masksWord_nibble (x : Slice) (j : Nat) (h : j < 8) : x.masksWord.extractLsb' (4 * j) 4 = x.kGet j := by
  unfold Slice.masksWord
  interval_cases j <;> (apply BitVec.eq_of_getLsbD_eq; intro i hi; interval_cases i <;> simp only [BitVec.getLsbD_extractLsb', BitVec.getLsbD_append] <;> simp)

theorem alignedWord (w : Word) : w &&& ~~~3#32 = w.extractLsb' 2 30 ++ 0#2 := by
  apply BitVec.eq_of_getLsbD_eq
  intro i hi
  simp only [BitVec.getLsbD_and, BitVec.getLsbD_not, BitVec.getLsbD_append, BitVec.getLsbD_extractLsb', BitVec.getLsbD_zero]
  by_cases h : i < 2
  · interval_cases i <;> simp
  · have h3 : (3#32).getLsbD i = false := by
      have : ∀ j : Fin 32, ¬ j.val < 2 → (3#32).getLsbD j.val = false := by decide
      exact this ⟨i, hi⟩ h
    rw [h3]
    simp [h, show i - 2 < 30 by omega, show 2 + (i - 2) = i by omega, hi]

theorem buildFrame_head (s : State) (k : Nat) (i : TrapInfo) (caps : List Replay) (extra : List Word) :
    let f := s.buildFrame k i caps extra
    f.word 0 = causeWord caps.length i ∧ f.word 1 = i.pc.extractLsb' 2 30 ++ 0#2 ∧ f.word 2 = i.info0 ∧ f.word 3 = i.info1 ∧
      (caps = [] → ∀ j, j < 8 → (f.word 4).extractLsb' (4 * j) 4 = (s.sl k).kGet j) := by
  intro f
  have e : ∀ m, f.word m = _ := fun m => frameFrom_word _ m
  refine ⟨?_, ?_, ?_, ?_, ?_⟩
  · rw [e]; rfl
  · rw [e, ← alignedWord]; rfl
  · rw [e]; rfl
  · rw [e]; rfl
  · intro hc j hj
    rw [e, ← masksWord_nibble _ _ hj, hc]
    rfl

/-! ## The handler -/

theorem undo_path (x : Slice) (u : Undo) : (x.undo u).exited = x.exited ∧ (x.undo u).poison = x.poison ∧ (x.undo u).gang = x.gang := by
  cases u with
  | v r l o => cases o <;> exact ⟨rfl, rfl, rfl⟩
  | s r o => exact ⟨rfl, rfl, rfl⟩
  | k j m => exact ⟨rfl, rfl, rfl⟩
  | lfsr o => exact ⟨rfl, rfl, rfl⟩

theorem undos_path (us : List Undo) (x : Slice) : (us.foldl Slice.undo x).exited = x.exited ∧
    (us.foldl Slice.undo x).poison = x.poison ∧ (us.foldl Slice.undo x).gang = x.gang := by
  induction us generalizing x with
  | nil => exact ⟨rfl, rfl, rfl⟩
  | cons u us ih =>
    rw [List.foldl_cons]
    have h := undo_path x u
    have g := ih (x.undo u)
    exact ⟨g.1.trans h.1, g.2.1.trans h.2.1, g.2.2.trans h.2.2⟩

theorem discard_path (x : Slice) (now : Nat) :
    (x.discard now).exited = x.exited ∧ (x.discard now).poison = x.poison ∧ (x.discard now).gang = x.gang := by
  unfold Slice.discard
  generalize (x.captured now).reverse = rs
  show (rs.foldl (fun y r => r.undo.foldl Slice.undo y) x).exited = _ ∧
    (rs.foldl (fun y r => r.undo.foldl Slice.undo y) x).poison = _ ∧ (rs.foldl (fun y r => r.undo.foldl Slice.undo y) x).gang = _
  induction rs generalizing x with
  | nil => exact ⟨rfl, rfl, rfl⟩
  | cons r rs ih =>
    rw [List.foldl_cons]
    have h := undos_path r.undo x
    have g := ih (r.undo.foldl Slice.undo x)
    exact ⟨g.1.trans h.1, g.2.1.trans h.2.1, g.2.2.trans h.2.2⟩

theorem leave_sl (s : State) (k : Nat) (h : s.present k) :
    (s.leave k).sl k = { s.sl k with gang := aloneKey k, ahead := false } := by
  unfold State.leave
  dsimp only
  rw [modSl_sl_same _ _ ((modSls_present ..).trans h), modSls_sl]
  rw [if_neg]
  simp

theorem leave_sl_ne (s : State) {k j : Nat} (h : j ≠ k) : (s.leave k).sl j = (s.sl j).ganged ((s.leave k).sl j) := by
  unfold State.leave
  dsimp only
  rw [modSl_sl_ne _ _ h, modSls_sl]
  split <;> rfl

/-- A slice with no wait that is registered or walked leaves the table as it is. -/
theorem waitOver_same (s : State) (k : Nat) (he : ∀ e ∈ s.wft, ¬ (e.kind = 0 ∧ e.slice = k ∧ e.team = (s.sl k).team))
    (hw : ∀ w ∈ s.walks, w.slice ≠ k) : s.waitOver k = s := by
  unfold State.waitOver
  rw [List.filter_eq_self.2 (fun e h => by simp only [decide_eq_false (he e h), Bool.not_false]), List.filter_eq_self.2 (fun w h => by simpa using hw w h)]

theorem passLead_none (s : State) (k : Nat) (h : (s.sl k).wait = none) : s.passLead k = s := by
  unfold State.passLead
  rw [h]
  cases s.followers k <;> rfl

theorem dropWait_none (s : State) (k : Nat) (h : (s.sl k).wait = none)
    (he : ∀ e ∈ s.wft, ¬ (e.kind = 0 ∧ e.slice = k ∧ e.team = (s.sl k).team)) (hw : ∀ w ∈ s.walks, w.slice ≠ k) :
    s.dropWait k = s.modSl k (fun x => { x with wait := none }) := by
  unfold State.dropWait
  simp only [h, passLead_none s k h, waitOver_same s k he hw]

/-- A slice that can trap takes the trap (R217): the frame, the handler, and nothing else changed when the cause appends no event. -/
theorem trap_taken (s : State) (k : Nat) (i : TrapInfo) (b : Bool) (extra : List Word) (h : CanTrap s k)
    (he : causeHasEvent i = false) :
    let t := s.trap k i b extra
    trapTaken s t k i.cause i.detail i.lanes i.info0 i.info1 i.pc ∧ s.changesOnly t [k] ∧ (t.sl k).poison = (s.sl k).poison ∧
      (∀ j, (afind t.slices j).isSome = (afind s.slices j).isSome) := by
  obtain ⟨hp, hf, hw, hen, hwk, hn, hv⟩ := h
  intro t
  have e : t = ((s.dropWait k).leave k).modSl k (fun y =>
      { y.discard s.cycle with
        frame := some (s.buildFrame k i ((s.sl k).captured s.cycle) extra), stack := [], active := ~~~y.exited
        pc := (s.tm (s.sl k).team).trapvec, granule := none, backoffLen := 64, wait := none }) := by
    show s.trap k i b extra = _
    unfold State.trap
    rw [hf]
    simp only [hn, if_true]
    unfold State.enterTrap
    simp only [hv, if_false, he, Bool.false_eq_true]
  have hd := dropWait_none s k hw hen hwk
  have p1 : (s.dropWait k).present k := by rw [hd]; exact (modSl_present ..).trans hp
  have p2 : ((s.dropWait k).leave k).present k := by
    unfold State.leave; exact (modSl_present ..).trans ((modSls_present ..).trans p1)
  have s1 : (s.dropWait k).sl k = { s.sl k with wait := none } := by rw [hd, modSl_sl_same s _ hp]
  have s2 := leave_sl (s.dropWait k) k p1
  rw [s1] at s2
  have s3 := modSl_sl_same ((s.dropWait k).leave k) (fun y =>
      { y.discard s.cycle with
        frame := some (s.buildFrame k i ((s.sl k).captured s.cycle) extra), stack := [], active := ~~~y.exited
        pc := (s.tm (s.sl k).team).trapvec, granule := none, backoffLen := 64, wait := none }) p2
  rw [← e, s2] at s3
  have hb := buildFrame_head s k i ((s.sl k).captured s.cycle) extra
  have hx := discard_path ({ s.sl k with wait := none, gang := aloneKey k, ahead := false } : Slice) s.cycle
  refine ⟨⟨⟨s.buildFrame k i ((s.sl k).captured s.cycle) extra, by rw [s3], ?_⟩, ?_⟩, ⟨?_, ?_⟩, ?_, ?_⟩
  · exact ⟨hb.1, hb.2.1, hb.2.2.1, hb.2.2.2.1, hb.2.2.2.2⟩
  · rw [inHandler, s3]
    exact ⟨rfl, rfl, rfl, hx.2.2, rfl⟩
  · rw [e, hd]; rfl
  · intro j hj
    have hj' : j ≠ k := by simpa using hj
    rw [e, modSl_sl_ne _ _ hj', leave_sl_ne _ hj', hd, modSl_sl_ne _ _ hj']
    rfl
  · rw [s3]; exact hx.2.1
  · intro j
    rw [e, hd]
    unfold State.leave
    rw [modSl_present, modSl_present, modSls_present, modSl_present]

end Sys2Proof.Machine
end

