-- ==== Sys2Proof/Laws/Words.lean ====
section
/-! SUPPORT. The integer functions of Machine/LaneInt.lean on 32 and 64 bits as operations on bit vectors (spec R8, R83, R86,
R87, R101 to R104). -/

namespace Sys2Proof.Machine

open Sys2Proof

theorem mulh_signed (x y : Word) : (wrap (sext x * sext y) 64).extractLsb' 32 32 = hiWord (x.signExtend 64 * y.signExtend 64) := by
  unfold wrap sext hiWord
  rw [BitVec.ofInt_mul]
  rfl

theorem mulh_unsigned (x y : Word) :
    (BitVec.ofNat 64 (x.toNat * y.toNat)).extractLsb' 32 32 = hiWord (x.setWidth 64 * y.setWidth 64) := by
  unfold hiWord
  congr 1

theorem shl_eq {w : Nat} (x : BitVec w) (n : Nat) : BitVec.ofNat w (shlElem w x.toNat n) = x <<< n := by
  apply BitVec.eq_of_toNat_eq
  unfold shlElem
  rw [BitVec.toNat_ofNat, BitVec.toNat_shiftLeft, Nat.shiftLeft_eq]
  split
  · rw [Nat.mod_mod]
  · next h =>
    have : 2 ^ w ∣ x.toNat * 2 ^ n := Dvd.dvd.mul_left (Nat.pow_dvd_pow 2 (by omega)) _
    rw [Nat.mod_eq_zero_of_dvd this, Nat.zero_mod]

theorem shr_eq {w : Nat} (x : BitVec w) (n : Nat) : BitVec.ofNat w (shrElem w x.toNat n) = x >>> n := by
  apply BitVec.eq_of_toNat_eq
  unfold shrElem
  rw [BitVec.toNat_ofNat, BitVec.toNat_ushiftRight, Nat.shiftRight_eq_div_pow]
  have hx := x.isLt
  split
  · exact Nat.mod_eq_of_lt (lt_of_le_of_lt (Nat.div_le_self _ _) hx)
  · rw [Nat.div_eq_of_lt (lt_of_lt_of_le hx (Nat.pow_le_pow_right (by omega) (by omega)))]
    simp

theorem sra_eq {w : Nat} (hw : 0 < w) (x : BitVec w) (n : Nat) : BitVec.ofNat w (sraElem w x.toNat n) = x.sshiftRight n := by
  have hx := x.isLt
  have hp : 2 ^ w = 2 * 2 ^ (w - 1) := by rw [← Nat.pow_succ']; congr 1; omega
  unfold sraElem BitVec.sshiftRight
  by_cases hm : 2 ^ (w - 1) ≤ x.toNat
  · rw [if_pos hm]
    have ht : x.toInt = (x.toNat : Int) - 2 ^ w := by
      rw [BitVec.toInt_eq_toNat_cond, if_neg (by omega)]; norm_cast
    split
    · rw [ht, Int.shiftRight_eq_div_pow]
      apply BitVec.eq_of_toNat_eq
      rw [BitVec.toNat_ofNat, BitVec.toNat_ofInt]
      push_cast
      have hpos : (0 : Int) < 2 ^ w := by positivity
      have h1 := Int.emod_nonneg (((x.toNat : Int) - 2 ^ w) / 2 ^ n) (ne_of_gt hpos)
      have h2 := Int.emod_lt_of_pos (((x.toNat : Int) - 2 ^ w) / 2 ^ n) hpos
      rw [Nat.mod_eq_of_lt]
      zify
      rw [Int.toNat_of_nonneg h1]
      exact h2
    · next h =>
      rw [ht, Int.shiftRight_eq_div_pow]
      have hq : ((x.toNat : Int) - 2 ^ w) / ((2 ^ n : Nat) : Int) = -1 := by
        have hle : (2 : Nat) ^ w ≤ 2 ^ n := Nat.pow_le_pow_right (by omega) (by omega)
        have h3 : ((2 : Int) ^ w) ≤ ((2 ^ n : Nat) : Int) := by exact_mod_cast hle
        have h4 : (x.toNat : Int) < 2 ^ w := by exact_mod_cast hx
        rw [Int.ediv_eq_iff_of_pos (by positivity)]
        constructor <;> omega
      rw [hq]
      apply BitVec.eq_of_toNat_eq
      rw [BitVec.toNat_ofNat, BitVec.toNat_ofInt]
      have hpos := Nat.two_pow_pos w
      rw [Nat.mod_eq_of_lt (by omega)]
      have : ((-1 : Int) % ((2 ^ w : Nat) : Int)) = ((2 ^ w : Nat) : Int) - 1 := by
        rw [Int.emod_eq_iff (by omega)]
        refine ⟨by omega, by omega, ⟨1, by ring⟩⟩
      rw [this]
      omega
  · rw [if_neg hm]
    have ht : x.toInt = (x.toNat : Int) := by rw [BitVec.toInt_eq_toNat_cond, if_pos (by omega)]
    have := shr_eq x n
    unfold shrElem at this
    rw [this, ht]
    apply BitVec.eq_of_toNat_eq
    rw [BitVec.toNat_ofInt, BitVec.toNat_ushiftRight, ← Int.natCast_shiftRight]
    have h5 : x.toNat >>> n < 2 ^ w := lt_of_le_of_lt (Nat.shiftRight_le _ _) hx
    norm_cast
    rw [Nat.mod_eq_of_lt h5]

theorem rot_eq {w : Nat} (hw : 0 < w) (x : BitVec w) (n : Nat) : BitVec.ofNat w (rotElem w x.toNat n) = x.rotateLeft n := by
  apply BitVec.eq_of_toNat_eq
  have hx := x.isLt
  have hn : n % w < w := Nat.mod_lt _ hw
  unfold rotElem
  rw [BitVec.toNat_ofNat, BitVec.toNat_rotateLeft, Nat.mod_mod, Nat.shiftLeft_eq, Nat.shiftRight_eq_div_pow]
  generalize n % w = r at hn ⊢
  have hp : 2 ^ w = 2 ^ (w - r) * 2 ^ r := by rw [← Nat.pow_add]; congr 1; omega
  have hq : x.toNat / 2 ^ (w - r) < 2 ^ r := Nat.div_lt_of_lt_mul (by rw [← hp]; exact hx)
  have hm : x.toNat * 2 ^ r % 2 ^ w = 2 ^ r * (x.toNat % 2 ^ (w - r)) := by
    rw [hp, Nat.mul_mod_mul_right, Nat.mul_comm]
  have hlt : 2 ^ r * (x.toNat % 2 ^ (w - r)) + x.toNat / 2 ^ (w - r) < 2 ^ w := by
    have h1 : x.toNat % 2 ^ (w - r) + 1 ≤ 2 ^ (w - r) := Nat.mod_lt _ (Nat.two_pow_pos _)
    calc _ < 2 ^ r * (x.toNat % 2 ^ (w - r)) + 2 ^ r := by omega
      _ = 2 ^ r * (x.toNat % 2 ^ (w - r) + 1) := by ring
      _ ≤ 2 ^ r * 2 ^ (w - r) := Nat.mul_le_mul_left _ h1
      _ = 2 ^ w := by rw [hp, Nat.mul_comm]
  rw [Nat.add_mod, hm, ← Nat.two_pow_add_eq_or_of_lt hq, Nat.mod_eq_of_lt (lt_of_lt_of_le hq (Nat.pow_le_pow_right (by omega) (by omega))),
    Nat.mod_eq_of_lt hlt]

theorem clz_eq (x : Word) : BitVec.ofNat 32 (clzNat 32 x.toNat) = x.clz := by
  unfold clzNat
  split
  · next h =>
    have : x = 0#32 := BitVec.eq_of_toNat_eq (by simpa using h)
    rw [this]; rfl
  · next h =>
    have hx : x ≠ 0#32 := fun e => h (by rw [e]; rfl)
    have h1 := BitVec.two_pow_sub_clz_le_toNat_of_ne_zero (by omega) hx
    have h2 := BitVec.toNat_lt_two_pow_sub_clz (x := x)
    have h3 := (BitVec.clz_lt_iff_ne_zero (x := x)).2 hx
    have h4 : x.clz.toNat < 32 := by simpa [BitVec.lt_def] using h3
    have : Nat.log2 x.toNat = 32 - x.clz.toNat - 1 := by
      rw [Nat.log2_eq_iff h]
      exact ⟨by rwa [show 32 - x.clz.toNat - 1 = 32 - 1 - x.clz.toNat by omega], by rwa [show 32 - x.clz.toNat - 1 + 1 = 32 - x.clz.toNat by omega]⟩
    rw [this]
    apply BitVec.eq_of_toNat_eq
    rw [BitVec.toNat_ofNat]
    omega

theorem popNat_eq (x : Word) (n : Nat) : x.cpopNatRec n 0 = popNat n x.toNat := by
  induction n with
  | zero => rfl
  | succ n ih =>
    rw [BitVec.cpopNatRec_succ, BitVec.cpopNatRec_eq, ih]
    unfold popNat
    rw [List.range_succ, List.filter_append, List.length_append]
    congr 1
    simp only [List.filter_cons, List.filter_nil, BitVec.getLsbD]
    cases x.toNat.testBit n <;> rfl

theorem cpop_eq (x : Word) : BitVec.ofNat 32 (popNat 32 x.toNat) = x.cpop := by
  unfold BitVec.cpop
  rw [popNat_eq]

end Sys2Proof.Machine
end

