-- ==== Sys2Proof/Tests/Slice0.lean ====
section
/-! SUPPORT. Tests of the model's own: what the well-formedness check refuses, words and the instructions they stand for, single
steps whose results the specification's tables and worked examples give, and, for every statement with hypotheses, a state
and operands that meet them. -/

namespace Sys2Proof.Tests

open Sys2Proof Sys2Proof.Machine Sys2Proof.Claims

-- One test after another: each waits for the kernel's check of those before it, and so many at once would need a thread each.
set_option Elab.async false

/-! ## A small state -/

/-- A slice at 0x2000 with all lanes active; its s registers read as live zeros, its v registers are dead. -/
def tSlice : Slice := { Slice.absent with active := 0xF, done := false, pc := 0x2000 }

/-- Its team: 4 KiB of scratchpad, two tiles, a trap vector. -/
def tTeam : Team := { Team.absent with slices := [0], splimit := 4096, tiles := [0, 1], trapvec := 0x2400 }

/-- The slice alone on core 0, and with the turn. -/
def tBase : State := { State.reset with slices := [(0, tSlice)], teams := [(0, tTeam)] }

/-- The same with the slice changed. -/
def tWith (f : Slice → Slice) : State := tBase.modSl 0 f

/-- The same with the team changed. -/
def tTeamWith (f : Team → Team) : State := tBase.modTm 0 f

/-- Two slices in one gang, both changed alike. -/
def tPair (f : Slice → Slice) : State :=
  { State.reset with slices := [(0, f tSlice), (1, f { tSlice with idx := 1 })], teams := [(0, { tTeam with slices := [0, 1] })] }

/-- A job current in partition 0. -/
def tJob : Job := { Job.absent with job := 7, gen := 3, rootw := [0x8001] }
def tJobState : State := tBase.modPt 0 (fun x => { x with job := some tJob, partcfg := 0x8000000000010000 })

/-- The outcome is a next state. -/
theorem next_of {o : Host.Outcome State Fault Refusal} (h : (match o with | .next _ => true | _ => false) = true) : ∃ t, o = .next t := by
  cases o with
  | next t => exact ⟨t, rfl⟩
  | fault _ => cases h
  | refused _ => cases h

/-- The computation succeeds with what a test accepts. -/
theorem ok_of {ε α : Type} {e : Except ε α} {p : α → Bool} (h : (match e with | .ok x => p x | .error _ => false) = true) :
    ∃ x, e = .ok x ∧ p x = true := by
  cases e with
  | ok x => exact ⟨x, rfl, h⟩
  | error _ => cases h

theorem error_of {ε α : Type} {e : Except ε α} (h : (match e with | .ok _ => false | .error _ => true) = true) : ∃ x, e = .error x := by
  cases e with
  | ok _ => cases h
  | error x => exact ⟨x, rfl⟩

theorem some_of {α : Type} {e : Option α} {p : α → Bool} (h : (match e with | some x => p x | none => false) = true) :
    ∃ x, e = some x ∧ p x = true := by
  cases e with
  | some x => exact ⟨x, rfl, h⟩
  | none => cases h

/-- No word of a memory without poison is poisoned. -/
theorem clean_of {s : State} (h : s.poisoned = []) (key n : Nat) : clean s key n := by
  intro j _ _
  rw [State.isPoisoned, h]
  rfl

/-- Slice 0 of a state may trap. -/
theorem canTrap_of {s : State} {k : Nat} (h : ((afind s.slices k).isSome && decide ((s.sl k).frame = none) && decide ((s.sl k).wait = none) &&
    decide (s.permitsUsed (coreOfSlice k) < 8) && decide ((s.tm (s.sl k).team).trapvec ≠ 0) && decide (s.wft = []) &&
    decide (s.walks = [])) = true) : CanTrap s k := by
  simp only [Bool.and_eq_true, decide_eq_true_eq] at h
  obtain ⟨⟨⟨⟨⟨⟨hp, hf⟩, hw⟩, hu⟩, hv⟩, he⟩, hk⟩ := h
  exact ⟨hp, hf, hw, by rw [he]; exact List.forall_mem_nil _, by rw [hk]; exact List.forall_mem_nil _, hu, hv⟩

/-! ## Decoding: every instruction, from words put together by hand from R61, R63, R73 and R75 -/

/-- Fields of a long instruction under PK 2, PN 1. -/
def tLong (ty : Ty) (vd : BitVec 8) (xw : BitVec 2) (ext8 : BitVec 8) (a b c d : Opnd) : Long :=
  { pk := 2, pn := true, vd := vd, ty := ty, rm := 0, sat := false, xw := xw, a := a, b := b, ext8 := ext8, g2 := .cd c d 0 }
def tV (n : BitVec 8) (last : Bool := false) : Opnd := ⟨.v, false, last, n⟩
def tS (n : BitVec 8) : Opnd := ⟨.s, false, false, n⟩
def o0 : Opnd := ⟨.v, false, false, 0⟩

theorem test_decode_short_1 :
    decodeList [0x00000002] = .ok .nop ∧
    decodeList [0x00C20404] = .ok (.sadd 4 8 12) ∧
    decodeList [0x00C20406] = .ok (.ssub 4 8 12) ∧
    decodeList [0x00C20408] = .ok (.smul 4 8 12) ∧
    decodeList [0x00C2040A] = .ok (.smulh 4 8 12) ∧
    decodeList [0x00C2040C] = .ok (.smulhn 4 8 12) ∧
    decodeList [0x00C2040E] = .ok (.sand 4 8 12) ∧
    decodeList [0x00C20410] = .ok (.sor 4 8 12) ∧
    decodeList [0x00C20412] = .ok (.sxor 4 8 12) ∧
    decodeList [0x00C20414] = .ok (.sandn 4 8 12) ∧
    decodeList [0x00C20416] = .ok (.sshl 4 8 12) ∧
    decodeList [0x00C20418] = .ok (.sshr 4 8 12) := by
  and_intros <;> rfl

theorem test_decode_short_2 :
    decodeList [0x00C2041A] = .ok (.ssra 4 8 12) ∧
    decodeList [0x00C2041C] = .ok (.srot 4 8 12) ∧
    decodeList [0x00C2041E] = .ok (.smin 4 8 12) ∧
    decodeList [0x00C20420] = .ok (.smax 4 8 12) ∧
    decodeList [0x00C20422] = .ok (.sminn 4 8 12) ∧
    decodeList [0x00C20424] = .ok (.smaxn 4 8 12) ∧
    decodeList [0x00020426] = .ok (.sclz 4 8) ∧
    decodeList [0x00020428] = .ok (.spopc 4 8) ∧
    decodeList [0x24C2042A] = .ok (.scmp 9 4 8 12) ∧
    decodeList [0x0002042C] = .ok (.smov 4 8) ∧
    decodeList [0x00C2042E] = .ok (.sadd64 4 8 12) ∧
    decodeList [0x00C20430] = .ok (.ssub64 4 8 12) := by
  and_intros <;> rfl

theorem test_decode_short_3 :
    decodeList [0x00C20432] = .ok (.sshl64 4 8 12) ∧
    decodeList [0x00C20434] = .ok (.sshr64 4 8 12) ∧
    decodeList [0x80520440] = .ok (.saddi 4 8 2053) ∧
    decodeList [0x80520442] = .ok (.sandi 4 8 2053) ∧
    decodeList [0x80520444] = .ok (.sori 4 8 2053) ∧
    decodeList [0x80520446] = .ok (.sxori 4 8 2053) ∧
    decodeList [0x01520448] = .ok (.sshli 4 8 21) ∧
    decodeList [0x0152044A] = .ok (.sshri 4 8 21) ∧
    decodeList [0x0152044C] = .ok (.ssrai 4 8 21) ∧
    decodeList [0x8052044E] = .ok (.scmpi 4 8 2053) ∧
    decodeList [0x80014450] = .ok (.slil 4 131077) ∧
    decodeList [0x08014452] = .ok (.slih 4 8197) := by
  and_intros <;> rfl

theorem test_decode_short_4 :
    decodeList [0x80001460] = .ok (.br 2097157) ∧
    decodeList [0x8002D662] = .ok (.brc 2 5 2 65541) ∧
    decodeList [0x80014464] = .ok (.brz 4 131077) ∧
    decodeList [0x80014466] = .ok (.brnz 4 131077) ∧
    decodeList [0x80014468] = .ok (.call 4 131077) ∧
    decodeList [0x0002006A] = .ok (.ret 8) ∧
    decodeList [0x0002006C] = .ok (.jmpi 8) ∧
    decodeList [0x8000146E] = .ok (.ptoken 2097157) ∧
    decodeList [0x00000070] = .ok .merge ∧
    decodeList [0x00000072] = .ok .regang ∧
    decodeList [0x00000074] = .ok .yield ∧
    decodeList [0x80001676] = .ok (.brp 2 2097157) := by
  and_intros <;> rfl

theorem test_decode_short_5 :
    decodeList [0x01200478] = .ok (.sget 4 18) ∧
    decodeList [0x0122007A] = .ok (.sset 18 8) ∧
    decodeList [0x1122007A] = .ok (.ssetSet 18 8) ∧
    decodeList [0x2122007A] = .ok (.ssetClr 18 8) ∧
    decodeList [0x0002007C] = .ok (.yieldp 8) ∧
    decodeList [0x0000007E] = .ok .exit ∧
    decodeList [0x80014080] = .ok (.trap 131077) ∧
    decodeList [0x00000082] = .ok .tret ∧
    decodeList [0x00614384] = .ok (.kand 3 5 6) ∧
    decodeList [0x00614386] = .ok (.kor 3 5 6) ∧
    decodeList [0x00614388] = .ok (.kxor 3 5 6) ∧
    decodeList [0x0061438A] = .ok (.kandn 3 5 6) := by
  and_intros <;> rfl

theorem test_decode_short_6 :
    decodeList [0x0001438C] = .ok (.knot 3 5) ∧
    decodeList [0x0001438E] = .ok (.kmovsToMask 3 5) ∧
    decodeList [0x0401438E] = .ok (.kmovsToScalar 3 5) ∧
    decodeList [0x00900390] = .ok (.kset 3 9) ∧
    decodeList [0xF03881A0] = .ok (.waitc 1 34 3 60) ∧
    decodeList [0x0A5000A2] = .ok (.waitt 165) ∧
    decodeList [0x8050A5A4] = .ok (.yieldt 165 2053) ∧
    decodeList [0x805204A6] = .ok (.sld 4 8 2053) ∧
    decodeList [0x805204A8] = .ok (.sst 4 8 2053) ∧
    decodeList [0x540000AA] = .ok (.fence 2 5) ∧
    decodeList [0x0C0000AC] = .ok (.pfence 3) ∧
    decodeList [0x00C200C0] = .ok (.barinit 8 12) := by
  and_intros <;> rfl

theorem test_decode_short_7 :
    decodeList [0x140200C2] = .ok (.bararr 5 8) ∧
    decodeList [0x34C200C2] = .ok (.bararrN 5 8 12) ∧
    decodeList [0x00C200C4] = .ok (.bartx 8 12) ∧
    decodeList [0x34C200C4] = .ok (.bartxArr 5 8 12) ∧
    decodeList [0x14C200C6] = .ok (.barwait 5 8 12) ∧
    decodeList [0x14C204C8] = .ok (.bartry 5 4 8 12) ∧
    decodeList [0x140000CA] = .ok (.tsync 5) ∧
    decodeList [0x800204CC] = .ok (.whold true 4 8) ∧
    decodeList [0x880204CE] = .ok (.wdrop true 2 4 8) ∧
    decodeList [0x800204D0] = .ok (.wwill true 4 8) ∧
    decodeList [0xD4C204D2] = .ok (.waitv true 2 5 4 8 12) ∧
    decodeList [0xD40204D4] = .ok (.lockacq true true 5 4 8) := by
  and_intros <;> rfl

theorem test_decode_short_8 :
    decodeList [0x940204D6] = .ok (.lockrel true 5 4 8) ∧
    decodeList [0x000204D8] = .ok (.launch 4 8) ∧
    decodeList [0x04C204D8] = .ok (.launchParam 4 8 12) ∧
    decodeList [0x38C200E0] = .ok (.send true 6 8 12) ∧
    decodeList [0xF80204E2] = .ok (.rpost true true true 6 4 8) ∧
    decodeList [0x000204E4] = .ok (.rcancel 4 8) ∧
    decodeList [0x000204E6] = .ok (.rprobe 4 8) ∧
    decodeList [0x78C204E8] = .ok (.copy true true 6 4 8 12) ∧
    decodeList [0x78C204EA] = .ok (.copytLd true true 6 4 8 12) ∧
    decodeList [0xB8C204EA] = .ok (.copytSt true 6 4 8 12) ∧
    decodeList [0xF8C204EA] = .ok (.copytSc true 6 4 8 12) ∧
    decodeList [0x78C204EC] = .ok (.copyg true true 6 4 8 12) := by
  and_intros <;> rfl

theorem test_decode_short_9 :
    decodeList [0x38C204EE] = .ok (.copys true 6 4 8 12) ∧
    decodeList [0xB8C204F0] = .ok (.copyr 2 true 6 4 8 12) ∧
    decodeList [0x00C206F2] = .ok (.tset 6 8 12) ∧
    decodeList [0x040206F2] = .ok (.tsetLo 6 8) ∧
    decodeList [0x080206F2] = .ok (.tsetHi 6 8) ∧
    decodeList [0x000184F4] = .ok (.tget 4 6) ∧
    decodeList [0x040184F4] = .ok (.tgetHi 4 6) ∧
    decodeList [0x180000F6] = .ok (.mbatch 6) ∧
    decodeList [0x38C200F6] = .ok (.mbatchArr 6 8 12) ∧
    decodeList [0x00C204F8] = .ok (.mmagokOpen 4 8 12) ∧
    decodeList [0x040004F8] = .ok (.mmagokClose 4) := by
  and_intros <;> rfl

theorem test_decode_long_1 :
    decodeList [0x004A2803, 0x00008104, 0x00000000] = .ok (.iadd (tLong .i32 40 0 0 (tV 4 true) (tV 8) o0 o0)) ∧
    decodeList [0x004A2805, 0x00008104, 0x00000000] = .ok (.isub (tLong .i32 40 0 0 (tV 4 true) (tV 8) o0 o0)) ∧
    decodeList [0x004A2807, 0x00008104, 0x00000000] = .ok (.imul (tLong .i32 40 0 0 (tV 4 true) (tV 8) o0 o0)) ∧
    decodeList [0x004A2809, 0x00008104, 0x00000000] = .ok (.imulh (tLong .i32 40 0 0 (tV 4 true) (tV 8) o0 o0)) ∧
    decodeList [0x004A280B, 0x00008104, 0x0000000C] = .ok (.imad (tLong .i32 40 0 0 (tV 4 true) (tV 8) (tV 12) o0)) ∧
    decodeList [0x004A280D, 0x00008104, 0x0000000C] = .ok (.imadw (tLong .i32 40 0 0 (tV 4 true) (tV 8) (tV 12) o0)) ∧
    decodeList [0x004A280F, 0x00008104, 0x00000000] = .ok (.imin (tLong .i32 40 0 0 (tV 4 true) (tV 8) o0 o0)) ∧
    decodeList [0x004A2811, 0x00008104, 0x00000000] = .ok (.imax (tLong .i32 40 0 0 (tV 4 true) (tV 8) o0 o0)) ∧
    decodeList [0x004A2813, 0x00000104, 0x00000000] = .ok (.iabs (tLong .i32 40 0 0 (tV 4 true) o0 o0 o0)) ∧
    decodeList [0x004A2815, 0x00008104, 0x00000000] = .ok (.iand (tLong .i32 40 0 0 (tV 4 true) (tV 8) o0 o0)) := by
  and_intros <;> rfl

theorem test_decode_long_2 :
    decodeList [0x004A2817, 0x00008104, 0x00000000] = .ok (.ior (tLong .i32 40 0 0 (tV 4 true) (tV 8) o0 o0)) ∧
    decodeList [0x004A2819, 0x00008104, 0x00000000] = .ok (.ixor (tLong .i32 40 0 0 (tV 4 true) (tV 8) o0 o0)) ∧
    decodeList [0x004A281B, 0x00008104, 0x00000000] = .ok (.iandn (tLong .i32 40 0 0 (tV 4 true) (tV 8) o0 o0)) ∧
    decodeList [0x004A281D, 0x00008104, 0x00000000] = .ok (.ishl (tLong .i32 40 0 0 (tV 4 true) (tV 8) o0 o0)) ∧
    decodeList [0x004A281F, 0x00008104, 0x00000000] = .ok (.ishr (tLong .i32 40 0 0 (tV 4 true) (tV 8) o0 o0)) ∧
    decodeList [0x004A2821, 0x00008104, 0x00000000] = .ok (.isra (tLong .i32 40 0 0 (tV 4 true) (tV 8) o0 o0)) ∧
    decodeList [0x004A2823, 0x00008104, 0x00000000] = .ok (.irot (tLong .i32 40 0 0 (tV 4 true) (tV 8) o0 o0)) ∧
    decodeList [0x004A2825, 0x00000104, 0x00000000] = .ok (.ipopc (tLong .i32 40 0 0 (tV 4 true) o0 o0 o0)) ∧
    decodeList [0x004A2827, 0x00000104, 0x00000000] = .ok (.iclz (tLong .i32 40 0 0 (tV 4 true) o0 o0 o0)) ∧
    decodeList [0x004A2829, 0x00008104, 0x00000000] = .ok (.ibfx (tLong .i32 40 0 0 (tV 4 true) (tV 8) o0 o0)) := by
  and_intros <;> rfl

theorem test_decode_long_3 :
    decodeList [0x000A282B, 0x00008104, 0x00000000] = .ok (.ibfi (tLong .b32 40 0 0 (tV 4 true) (tV 8) o0 o0)) ∧
    decodeList [0x004A282D, 0x00000104, 0x00000000] = .ok (.ibrev (tLong .i32 40 0 0 (tV 4 true) o0 o0 o0)) ∧
    decodeList [0x000A282F, 0x00008104, 0x0000000C] = .ok (.iperm (tLong .b32 40 0 0 (tV 4 true) (tV 8) (tV 12) o0)) ∧
    decodeList [0x00416831, 0x0C008104, 0x00000000] = .ok (.icmp (tLong .i32 5 0 12 (tV 4 true) (tV 8) o0 o0)) ∧
    decodeList [0x004A2833, 0x00008104, 0x0000000C] = .ok (.isad (tLong .i32 40 0 0 (tV 4 true) (tV 8) (tV 12) o0)) ∧
    decodeList [0x004A2835, 0x00008104, 0x00000000] = .ok (.iadd64 (tLong .i32 40 0 0 (tV 4 true) (tV 8) o0 o0)) ∧
    decodeList [0x000A2881, 0x00000104, 0x00000000] = .ok (.mov (tLong .b32 40 0 0 (tV 4 true) o0 o0 o0)) ∧
    decodeList [0x000A2883, 0x00000C00, 0x12345678] = .ok (.movi { pk := 2, pn := true, vd := 40, ty := .b32, rm := 0, sat := false, xw := 0, a := ⟨.imm, false, false, 0⟩, b := o0, ext8 := 0, g2 := .imm 0x12345678 }) ∧
    decodeList [0x000A2885, 0x02008104, 0x00000000] = .ok (.sel (tLong .b32 40 0 2 (tV 4 true) (tV 8) o0 o0)) ∧
    decodeList [0x000A2887, 0x00000414, 0x00000000] = .ok (.movs (tLong .b32 40 0 0 (tS 20) o0 o0 o0)) := by
  and_intros <;> rfl

theorem test_decode_long_4 :
    decodeList [0x00016889, 0x00000104, 0x00000000] = .ok (.movkToMask (tLong .b32 5 0 0 (tV 4 true) o0 o0 o0)) ∧
    decodeList [0x400A2889, 0x02000000, 0x00000000] = .ok (.movkToVector (tLong .b32 40 1 2 o0 o0 o0 o0)) ∧
    decodeList [0x000A288B, 0x02000104, 0x00000000] = .ok (.vtos (tLong .b32 40 0 2 (tV 4 true) o0 o0 o0)) ∧
    decodeList [0x400A288B, 0x00000104, 0x00000000] = .ok (.vtosFirst (tLong .b32 40 1 0 (tV 4 true) o0 o0 o0)) ∧
    decodeList [0x020A2901, 0x00008104, 0x00000000] = .ok (.fadd (tLong .f32 40 0 0 (tV 4 true) (tV 8) o0 o0)) ∧
    decodeList [0x020A2903, 0x00008104, 0x00000000] = .ok (.fsub (tLong .f32 40 0 0 (tV 4 true) (tV 8) o0 o0)) ∧
    decodeList [0x020A2905, 0x00008104, 0x00000000] = .ok (.fmul (tLong .f32 40 0 0 (tV 4 true) (tV 8) o0 o0)) ∧
    decodeList [0x020A2907, 0x00008104, 0x0000000C] = .ok (.ffma (tLong .f32 40 0 0 (tV 4 true) (tV 8) (tV 12) o0)) ∧
    decodeList [0x020A2909, 0x00008104, 0x00000000] = .ok (.fmin (tLong .f32 40 0 0 (tV 4 true) (tV 8) o0 o0)) ∧
    decodeList [0x020A290B, 0x00008104, 0x00000000] = .ok (.fmax (tLong .f32 40 0 0 (tV 4 true) (tV 8) o0 o0)) := by
  and_intros <;> rfl

theorem test_decode_long_5 :
    decodeList [0x020A290D, 0x00000104, 0x00000000] = .ok (.fneg (tLong .f32 40 0 0 (tV 4 true) o0 o0 o0)) ∧
    decodeList [0x020A290F, 0x00000104, 0x00000000] = .ok (.fabs (tLong .f32 40 0 0 (tV 4 true) o0 o0 o0)) ∧
    decodeList [0x02016911, 0x0C008104, 0x00000000] = .ok (.fcmp (tLong .f32 5 0 12 (tV 4 true) (tV 8) o0 o0)) ∧
    decodeList [0x020A2913, 0x00000104, 0x00000000] = .ok (.fclass (tLong .f32 40 0 0 (tV 4 true) o0 o0 o0)) ∧
    decodeList [0x020A2915, 0x00000104, 0x00000000] = .ok (.frnd (tLong .f32 40 0 0 (tV 4 true) o0 o0 o0)) ∧
    decodeList [0x020A2917, 0x00000104, 0x00000000] = .ok (.ffrac (tLong .f32 40 0 0 (tV 4 true) o0 o0 o0)) ∧
    decodeList [0x020A2919, 0x00008104, 0x00000000] = .ok (.fldexp (tLong .f32 40 0 0 (tV 4 true) (tV 8) o0 o0)) ∧
    decodeList [0x020A291B, 0x00000104, 0x00000000] = .ok (.fgetexp (tLong .f32 40 0 0 (tV 4 true) o0 o0 o0)) ∧
    decodeList [0x020A2981, 0x02000104, 0x00000000] = .ok (.cvt (tLong .f32 40 0 2 (tV 4 true) o0 o0 o0)) ∧
    decodeList [0x030A2983, 0x02008104, 0x00000000] = .ok (.pack (tLong .e4m3x4 40 0 2 (tV 4 true) (tV 8) o0 o0)) := by
  and_intros <;> rfl

theorem test_decode_long_6 :
    decodeList [0x020A2985, 0x0C000104, 0x00000000] = .ok (.unpack (tLong .f32 40 0 12 (tV 4 true) o0 o0 o0)) ∧
    decodeList [0x020A2987, 0x0C000104, 0x00000000] = .ok (.scaleFit (tLong .f32 40 0 12 (tV 4 true) o0 o0 o0)) ∧
    decodeList [0x420A2987, 0x02008104, 0x00000000] = .ok (.scaleApply (tLong .f32 40 1 2 (tV 4 true) (tV 8) o0 o0)) ∧
    decodeList [0x020A29A1, 0x00000104, 0x00000000] = .ok (.rcp (tLong .f32 40 0 0 (tV 4 true) o0 o0 o0)) ∧
    decodeList [0x020A29A3, 0x00000104, 0x00000000] = .ok (.rsq (tLong .f32 40 0 0 (tV 4 true) o0 o0 o0)) ∧
    decodeList [0x020A29A5, 0x00000104, 0x00000000] = .ok (.sqrt (tLong .f32 40 0 0 (tV 4 true) o0 o0 o0)) ∧
    decodeList [0x020A29A7, 0x00000104, 0x00000000] = .ok (.exp2 (tLong .f32 40 0 0 (tV 4 true) o0 o0 o0)) ∧
    decodeList [0x020A29A9, 0x00000104, 0x00000000] = .ok (.log2 (tLong .f32 40 0 0 (tV 4 true) o0 o0 o0)) ∧
    decodeList [0x020A29AB, 0x00000104, 0x00000000] = .ok (.sinpi (tLong .f32 40 0 0 (tV 4 true) o0 o0 o0)) ∧
    decodeList [0x020A29AD, 0x00000104, 0x00000000] = .ok (.cospi (tLong .f32 40 0 0 (tV 4 true) o0 o0 o0)) := by
  and_intros <;> rfl

theorem test_decode_long_7 :
    decodeList [0x028A29C1, 0x00008104, 0x0000000C] = .ok (.dot2 (tLong .bf16x2 40 0 0 (tV 4 true) (tV 8) (tV 12) o0)) ∧
    decodeList [0x030A29C3, 0x00008104, 0x0000000C] = .ok (.dot4 (tLong .e4m3x4 40 0 0 (tV 4 true) (tV 8) (tV 12) o0)) ∧
    decodeList [0x038A29C5, 0x00008104, 0x0000000C] = .ok (.dot8 (tLong .e2m1x8 40 0 0 (tV 4 true) (tV 8) (tV 12) o0)) ∧
    decodeList [0x000A2A01, 0x00000000, 0x00000000] = .ok (.laneid (tLong .b32 40 0 0 o0 o0 o0 o0)) ∧
    decodeList [0x000A2A03, 0x00000000, 0x00000000] = .ok (.plane (tLong .b32 40 0 0 o0 o0 o0 o0)) ∧
    decodeList [0x000A2A05, 0x02008104, 0x00000000] = .ok (.shfl (tLong .b32 40 0 2 (tV 4 true) (tV 8) o0 o0)) ∧
    decodeList [0x000A2A07, 0x0C000104, 0x00000000] = .ok (.shflx (tLong .b32 40 0 12 (tV 4 true) o0 o0 o0)) ∧
    decodeList [0x000A2A09, 0x0C000104, 0x00000000] = .ok (.bcast (tLong .b32 40 0 12 (tV 4 true) o0 o0 o0)) ∧
    decodeList [0x400A2A09, 0x00000104, 0x00000000] = .ok (.bcastFirst (tLong .b32 40 1 0 (tV 4 true) o0 o0 o0)) ∧
    decodeList [0x000A2A0B, 0x02000000, 0x00000000] = .ok (.vote (tLong .b32 40 0 2 o0 o0 o0 o0)) := by
  and_intros <;> rfl

theorem test_decode_long_8 :
    decodeList [0x020A2A0D, 0x02000104, 0x00000000] = .ok (.reduce (tLong .f32 40 0 2 (tV 4 true) o0 o0 o0)) ∧
    decodeList [0x020A2A0F, 0x02000104, 0x00000000] = .ok (.scan (tLong .f32 40 0 2 (tV 4 true) o0 o0 o0)) ∧
    decodeList [0x000A2A81, 0x02000104, 0x00000000] = .ok (.ld (tLong .b32 40 0 2 (tV 4 true) o0 o0 o0)) ∧
    decodeList [0x00002A83, 0x02008104, 0x00000000] = .ok (.st (tLong .b32 0 0 2 (tV 4 true) (tV 8) o0 o0)) ∧
    decodeList [0x020A2A85, 0x00008104, 0x00000000] = .ok (.atom (tLong .f32 40 0 0 (tV 4 true) (tV 8) o0 o0)) ∧
    decodeList [0x000A2A85, 0x07008104, 0x0000000C] = .ok (.atomCas (tLong .b32 40 0 7 (tV 4 true) (tV 8) (tV 12) o0)) ∧
    decodeList [0x000A2AC1, 0x02000104, 0x00000000] = .ok (.fld (tLong .b32 40 0 2 (tV 4 true) o0 o0 o0)) ∧
    decodeList [0x00002AC3, 0x02008104, 0x00000000] = .ok (.fst (tLong .b32 0 0 2 (tV 4 true) (tV 8) o0 o0)) ∧
    decodeList [0x020A2AC5, 0x00008104, 0x00000000] = .ok (.fatom (tLong .f32 40 0 0 (tV 4 true) (tV 8) o0 o0)) ∧
    decodeList [0x00002B01, 0x0C418414, 0x00000000] = .ok (.tld (tLong .b32 0 0 12 (tS 20) (tS 24) o0 o0)) := by
  and_intros <;> rfl

theorem test_decode_long_9 :
    decodeList [0x00002B03, 0x0C418414, 0x00000000] = .ok (.tst (tLong .b32 0 0 12 (tS 20) (tS 24) o0 o0)) ∧
    decodeList [0x00002B05, 0x0C418414, 0x00000000] = .ok (.ttrans (tLong .b32 0 0 12 (tS 20) (tS 24) o0 o0)) ∧
    decodeList [0x00002B07, 0x0C000414, 0x00000000] = .ok (.mma (tLong .b32 0 0 12 (tS 20) o0 o0 o0)) ∧
    decodeList [0x00002B09, 0x0C000414, 0x00000000] = .ok (.mmas (tLong .b32 0 0 12 (tS 20) o0 o0 o0)) ∧
    decodeList [0x00002B0B, 0x0C418414, 0x0000041C] = .ok (.mmag (tLong .b32 0 0 12 (tS 20) (tS 24) (tS 28) o0)) ∧
    decodeList [0x40002B0B, 0x10418000, 0x0000041C] = .ok (.mmagNolocal (tLong .b32 0 1 16 o0 (tS 24) (tS 28) o0)) ∧
    decodeList [0x00002B0D, 0x0C418414, 0x00000000] = .ok (.afill (tLong .b32 0 0 12 (tS 20) (tS 24) o0 o0)) := by
  and_intros <;> rfl

/-- FUSE: the worked example of R70 and R75, fields by R68. -/
theorem test_decode_fuse : decodeList [0x000201C7, 0x880E0401, 0x0003E600] = .ok (.fuse
    { pk := 0, pn := false, vd := 8, ft := .f32, a := ⟨false, 1⟩, b := ⟨true, 2⟩, c := ⟨false, 3⟩, d := ⟨false, 0⟩
      s0 := ⟨true, .add⟩, s1 := ⟨true, .mul⟩, s2 := ⟨false, .clamp01⟩, s3 := ⟨false, .fin⟩, s4 := ⟨false, .fin⟩
      s5 := ⟨false, .fin⟩, s6 := ⟨false, .fin⟩ }) := by rfl

/-! ## What the check of R72 refuses -/

def tLongOf (ty : Ty) (a b : Opnd) (ext8 : BitVec 8) : Long :=
  { pk := 0, pn := false, vd := 4, ty := ty, rm := 0, sat := false, xw := 0, a := a, b := b, ext8 := ext8, g2 := .cd o0 o0 0 }

/-- A reserved field fails check 2, a field value without a meaning check 3, an operand kind check 4, a register index check 5, a
FUSE program check 6: one ill-formed term for each, and the well-formed one beside them. -/
theorem test_checks_refuse :
    Instr.check (.iadd (tLongOf .i32 (tV 1) (tV 2) 0)) = none ∧
    Instr.check (.iadd (tLongOf .i32 (tV 1) (tV 2) 1)) = some 2 ∧
    Instr.check (.iadd (tLongOf .f32 (tV 1) (tV 2) 0)) = some 3 ∧
    Instr.check (.iadd { tLongOf .i32 (tV 1) (tV 2) 0 with pn := true }) = some 3 ∧
    Instr.check (.imad { tLongOf .i32 (tV 1) (tV 2) 0 with g2 := .cd ⟨.imm, false, false, 0⟩ o0 0 }) = some 4 ∧
    Instr.check (.iadd (tLongOf .i32 (tV 1) ⟨.s, false, false, 64⟩ 0)) = some 5 ∧
    Instr.check (.icmp { tLongOf .i32 (tV 1) (tV 2) 0 with vd := 8 }) = some 5 ∧
    Instr.check (.fuse
      { pk := 0, pn := false, vd := 8, ft := .f32, a := ⟨false, 1⟩, b := ⟨false, 0⟩, c := ⟨false, 0⟩, d := ⟨false, 0⟩
        s0 := ⟨true, .add⟩, s1 := ⟨false, .fin⟩, s2 := ⟨true, .fin⟩, s3 := ⟨false, .fin⟩, s4 := ⟨false, .fin⟩, s5 := ⟨false, .fin⟩
        s6 := ⟨false, .fin⟩ }) = some 6 := by
  and_intros <;> rfl

theorem test_ill_formed : ¬ (Instr.iadd (tLongOf .i32 (tV 1) (tV 2) 1)).WellFormed := by
  intro h; cases h.1

/-- The short instructions' own limits: selectors of R102, R16, R178, R310, R246, and the pairs, quads, masks and tiles that
must be named by an even, a fourfold or a small number. -/
theorem test_short_checks_refuse :
    Instr.check (.scmp 10 4 8 12) = some 3 ∧ Instr.check (.sget 4 0x1C) = some 3 ∧ Instr.check (.sset 0x0D 4) = some 3 ∧
    Instr.check (.fence 0 2) = some 3 ∧ Instr.check (.fence 1 7) = some 3 ∧ Instr.check (.pfence 4) = some 3 ∧
    Instr.check (.wdrop true 3 4 8) = some 3 ∧ Instr.check (.copyr 3 false 0 4 8 12) = some 3 ∧
    Instr.check (.rpost false false false 0 4 8) = some 3 ∧ Instr.check (.rpost false true false 1 4 8) = some 3 ∧
    Instr.check (.sadd64 5 8 12) = some 5 ∧ Instr.check (.kset 0 1) = some 5 ∧ Instr.check (.kand 1 8 1) = some 5 ∧
    Instr.check (.whold false 4 9) = some 5 ∧ Instr.check (.whold true 4 9) = none ∧ Instr.check (.rprobe 6 8) = some 5 ∧
    Instr.check (.send false 0 8 10) = some 5 ∧ Instr.check (.tset 16 8 12) = some 5 := by
  and_intros <;> rfl

/-- Check 7: a v register, or the second of a pair, that a team of few registers lacks (R10, R72). -/
theorem test_beyond : (Instr.iadd (tLongOf .i32 (tV 31) (tV 2) 0)).beyond 32 = false ∧
    (Instr.iadd (tLongOf .i32 (tV 32) (tV 2) 0)).beyond 32 = true ∧ (Instr.iadd (tLongOf .i64 (tV 31) (tV 2) 0)).beyond 32 = true := by
  decide

/-! ## Hypotheses that something meets -/

theorem witness_DecodeOfEncode : (Instr.sadd 4 8 63).isEncoded = true ∧ (Instr.sadd 4 8 63).WellFormed ∧
    (Instr.iadd (tLongOf .i64 (tV 254) (tV 2) 0)).isEncoded = true ∧ (Instr.iadd (tLongOf .i64 (tV 254) (tV 2) 0)).WellFormed :=
  ⟨by decide, ⟨rfl, trivial⟩, by decide, ⟨rfl, rfl⟩⟩

theorem witness_EncodeOfDecode : decode 0x1820462A 0 0 = .ok (.scmp 6 6 1 2) ∧
    decode 0x00000001 0 0 = .error 1 ∧ (∃ i, decode 0x000201C7 0x880E0401 0x0003E600 = .ok i) :=
  ⟨rfl, rfl, _, rfl⟩

/-- Unassigned OP7 at both ends of the map; a reserved field at its ends. -/
theorem witness_ReservedWordsRejected : (0 : Word).getLsbD 0 = false ∧ ((0 : Word).extractLsb' 1 7).toNat = 0 ∧
    (0xFFFFFFFE : Word).getLsbD 0 = false ∧ ((0xFFFFFFFE : Word).extractLsb' 1 7).toNat = 127 ∧ (63 : BitVec 6) ≠ 0 ∧ (1 : BitVec 6) ≠ 0 := by
  decide

/-- The state of the fetch: SLIL s5 placed, and the turn of slice 0 at the head of the agenda. -/
def tPlaced : State := State.reset.place [0x159E0550, 0, 0]

theorem witness_StepRuns_instruction : tPlaced.agenda = [.issue 0] ∧
    (let u := { tPlaced with agenda := [], freeNo := tPlaced.freeNo + 1 }
    u.canIssue 0 = true ∧ (∃ x, u.fetch (u.codeFence (u.members 0)) (u.sl 0).team (u.sl 0).pc = .ok x ∧
      (decide (x.1 = (0x159E0550, 0, 0) ∧ (Instr.slil 5 0x5678).beyond (x.2.tm (u.sl 0).team).header.regs = false ∧
        x.2.stalls 0 (isPerSlice (.slil 5 0x5678)) (.slil 5 0x5678) = false)) = true) ∧
      ((u.members 0).filter (fun j => !(u.sl j).midway)).head? = some 0) ∧
    decode 0x159E0550 0 0 = .ok (.slil 5 0x5678) :=
  ⟨by decide +kernel, ⟨by decide +kernel, ok_of (by decide +kernel), by decide +kernel⟩, rfl⟩

theorem witness_StepRuns_event : ({ tBase with agenda := [.event .leaseSend] } : State).agenda = .event .leaseSend :: [] ∧
    Instr.isEncoded .leaseSend = false := by
  decide

theorem witness_SliceScalarResult : scalarTable (.sadd 4 8 12) = some (two 4 8 12 (fun x y => x + y)) ∧
    Instr.WellFormed (.sadd 4 8 12) ∧ tBase.onTurn ∧ (tBase.sl tBase.cur).readable [8, 12] ∧
    scalarTable (.kset 7 9) = some ([], .mask 7 (fun _ => 9)) ∧ Instr.WellFormed (.kset 7 9) :=
  ⟨rfl, ⟨rfl, trivial⟩, by decide, by unfold Slice.readable; decide, rfl, ⟨rfl, trivial⟩⟩

theorem fetched_none {s : State} {i : Instr} {ms : List Nat} (h : constsOf i = []) : fetched s i ms [] s := by
  unfold fetched; rw [if_pos (.inl h)]; exact ⟨rfl, rfl⟩

/-- s8 is dead; nothing recorded yet, and something recorded. -/
def tDead (info : Word) : State := tWith (fun x => { x with s := [(8, none)], trapen := 1, poison := info })

theorem witness_PoisonTrap_scalar : CanTrap (tDead 0) 0 ∧ ((tDead 0).sl 0).trapen.getLsbD 0 = true ∧
    [8, 12].filter (fun q => (((tDead 0).sl 0).sRd q).dead) = [8] ∧ ((tDead 0).sl 0).poison.getLsbD 10 = false ∧
    CanTrap (tDead 0x400) 0 ∧ ((tDead 0x400).sl 0).poison.getLsbD 10 = true :=
  ⟨canTrap_of (by decide), by decide, by decide, by decide, canTrap_of (by decide), by decide⟩

/-- With TRAPEN.POISON clear the scalar instruction runs. -/
theorem witness_PoisonTrap_recorded : let s := tWith (fun x => { x with s := [(8, none)] })
    s.onTurn ∧ (s.sl s.cur).trapen.getLsbD 0 = false ∧ (∀ q ∈ [8, 12], ((s.sl s.cur).sRd q).err = false) ∧
    [8, 12].filter (fun q => ((s.sl s.cur).sRd q).dead) = [8] := by
  decide

/-- A gang of two: every v register of slice 0 is dead, v1 and v2 of slice 1 are live, and TRAPEN of each is as given. IADD of v1 and s8 meets v1 of slice 0; a pair of v registers and one in error are met in order. -/
def tHalf (a b : Word) : State :=
  { tPair id with slices := [(0, { tSlice with trapen := a }),
    (1, { tSlice with idx := 1, trapen := b, v := [(4, 0), (5, 0), (6, 0), (7, 0), (8, 0), (9, 0), (10, 0), (11, 0)] })] }

theorem witness_PoisonTrap_lane : let i : Instr := .iadd (tLongOf .i32 (tV 1) (tV 2) 0)
    let s := tHalf 1 0
    let ms := s.members s.cur
    let u := (s.issuedFor ms (figures i).1).charge i ms
    isLane i = true ∧ i.WellFormed ∧ s.onTurn ∧ ms = [0, 1] ∧ fetched u i ms [] u ∧
    deadReads i (u.sl 0) = [⟨false, 1, 0xF, false⟩, ⟨false, 2, 0xF, false⟩] ∧ deadReads i (u.sl 1) = [] ∧
    (u.sl 0).trapen.getLsbD 0 = true ∧ (u.sl 0).frame = none ∧ CanTrap u 0 ∧ u.permitsUsed 0 + ms.length ≤ 8 ∧
    deadReads (.iadd (tLongOf .i64 (tS 8) (tV 2) 0)) { u.sl 1 with s := [(9, none)], bad := [(false, 2, 3)] } =
      [⟨true, 9, 0xF, false⟩, ⟨false, 2, 8, true⟩, ⟨false, 3, 0xF, false⟩] :=
  ⟨rfl, ⟨rfl, rfl⟩, by decide, by decide, fetched_none rfl, by decide, by decide, by decide, by decide, canTrap_of (by decide), by decide, by decide⟩

theorem witness_BranchAndCall : branchTable (.brz 4 0x3FFFF) = some ([4], fun _ x => if x.sVal 4 = 0 then target x.pc 0x3FFFF#18 else x.pc + 4) ∧
    (∀ k ∈ (tPair id).members (tPair id).cur, ((tPair id).sl k).readable [4]) ∧ (tPair id).members (tPair id).cur = [0, 1] :=
  ⟨rfl, by unfold Slice.readable; decide, by decide⟩

theorem witness_GangsPart : branchTable (.br 2) = some ([], fun _ x => target x.pc 2#22) ∧ ((tPair id).sl 0).gang < 2 ^ 20 ∧
    (∃ t, exec (.br 2) (tPair id) = .next t) ∧ 1 ∈ (tPair id).members (tPair id).cur :=
  ⟨rfl, by decide, next_of (by decide), by decide⟩

/-- A stack of seven entries has room; one of eight has none. -/
def tDeep (n : Nat) : State := tWith (fun x => { x with stack := List.replicate n (parked 0x3000 1), k := [(2, 1)] })

theorem witness_TokenStack : (∀ k ∈ (tDeep 7).members (tDeep 7).cur, ((tDeep 7).sl k).stack.length < 8) ∧
    (tDeep 8).members (tDeep 8).cur = [(tDeep 8).cur] ∧ CanTrap (tDeep 8) (tDeep 8).cur ∧ 8 ≤ ((tDeep 8).sl (tDeep 8).cur).stack.length ∧
    ((tDeep 8).sl 0).active &&& ((tDeep 8).sl 0).kGet 2 ≠ 0 ∧ ((tDeep 8).sl 0).active &&& ~~~(((tDeep 8).sl 0).kGet 2) ≠ 0 ∧
    ((tDeep 8).sl 0).stack.all (fun e => e.kind != 1) = true := by
  and_intros <;> first | decide | exact canTrap_of (by decide)

/-- MERGE with and without a token, BRC with a divided gang, YIELD with and without a switch target. -/
theorem witness_MergeDivergentYield :
    arriveAt 0x2000 0xF [token 0x2000 0] = some [token 0x2000 0xF] ∧ arriveAt 0x2000 0xF [] = none ∧
    (∀ j ∈ (tDeep 7).members (tDeep 7).cur, ((tDeep 7).sl j).stack.length < 8) ∧
    taking 0 (((tDeep 7).sl 0).kGet 2) false ((tDeep 7).sl 0) = 1 ∧ switchAt 0 [parked 0x3000 1] = some 0 ∧ switchAt 1 [parked 0x3000 1] = none := by
  decide

/-- EXIT in trap mode and outside it; a slice of the launch gang still to come at REGANG, and none. -/
theorem witness_ExitAndRegang : (tBase.sl 0).trapMode = false ∧ ((tWith (fun x => { x with frame := some [] })).sl 0).trapMode = true ∧
    (let s := (tPair id).modSl 1 (fun x => { x with gang := aloneKey 1 })
     1 ∈ s.launchGang 0 0 ∧ 1 ∉ s.members 0 ∧ (s.sl 1).wait ≠ some .regang) ∧
    (∀ j ∈ (tPair id).members 0, ((tPair id).sl j).trapMode = false ∧ ((tPair id).sl j).pc = ((tPair id).sl 0).pc) ∧
    (tPair id).launchGang 0 (((tPair id).sl 0).idx / 8) = (tPair id).members 0 := by
  decide

/-- A slice in a trap, whose frame asks for nothing more. -/
def tTrapped : State := tWith (fun x => { x with frame := some [(1, 0x2010), (4, 0xF)] })

/-- Eight slices of core 0 in traps: no permit is free. -/
def tFull : State :=
  { tBase with slices := (0, tSlice) :: (List.range 8).map (fun i => (i + 8, { tSlice with frame := some [], idx := i + 1 })) }

theorem witness_TrapEntry : CanTrap tBase tBase.cur := canTrap_of (by decide)

theorem witness_TrapReturn_stands : tFull.onTurn ∧ (tFull.sl tFull.cur).frame = none ∧ 8 ≤ tFull.permitsUsed (coreOfSlice tFull.cur) ∧
    tTrapped.onTurn ∧ (tTrapped.sl tTrapped.cur).frame ≠ none := by
  decide

theorem witness_TrapReturn : tTrapped.onTurn ∧ (tTrapped.sl tTrapped.cur).frame = some [(1, 0x2010), (4, 0xF)] ∧
    (Frame.word [(1, 0x2010), (4, 0xF)] 7).getLsbD 8 = false ∧ (Frame.word [(1, 0x2010), (4, 0xF)] 0).extractLsb' 20 4 = 0 ∧
    CanTrap tBase tBase.cur :=
  ⟨by decide, by decide, by decide, by decide, canTrap_of (by decide)⟩

/-- The first and the last special register. -/
theorem witness_SpecialRead : tBase.onTurn ∧
    (∃ w, specialValue (tBase.issued [0]) 0 ((tBase.issued [0]).sl 0) 0x00 = some w) ∧
    (∃ w, specialValue (tBase.issued [0]) 0 ((tBase.issued [0]).sl 0) 0x1B = some w) :=
  ⟨by decide, ⟨_, rfl⟩, ⟨_, rfl⟩⟩

theorem witness_SpecialWrite : tBase.onTurn ∧ (tBase.sl tBase.cur).readable [8] ∧ (afind tBase.teams (tBase.sl tBase.cur).team).isSome ∧
    (∃ op, ssetForm (.sset 0x0E 8) = some (0x0E, 8, op)) ∧ (∃ op, ssetForm (.ssetSet 0x13 8) = some (0x13, 8, op)) ∧
    (∃ op, ssetForm (.ssetClr 0x1B 8) = some (0x1B, 8, op)) ∧ (specialField 0 0x14 0 (tBase.sl 0)).isSome = true :=
  ⟨by decide, by unfold Slice.readable; decide, by decide, ⟨_, rfl⟩, ⟨_, rfl⟩, ⟨_, rfl⟩, by decide⟩

theorem witness_YieldAndTokenWaits : tBase.onTurn ∧ (tBase.sl tBase.cur).readable [8] ∧
    (tBase.pt (tBase.tm (tBase.sl tBase.cur).team).part).preq = false ∧
    ((tBase.modPt 0 (fun x => { x with preq := true })).pt 0).preq = true ∧
    withinLimits (tBase.sl 0) 0 0 0 0 ∧ ¬ withinLimits ((tWith (fun x => { x with fl := 1 })).sl 0) 0 0 0 0 ∧
    tokensDone tBase 0 0xFF ∧ ¬ tokensDone (tTeamWith (fun x => { x with tokens := [(7, ⟨1, 0, false⟩)] })) 0 0x80 :=
  ⟨by decide, by unfold Slice.readable; decide, by decide, by decide, by unfold withinLimits; decide, by unfold withinLimits; decide,
    by unfold tokensDone; decide, fun h => absurd (h 7 (by decide) (by decide)) (by decide)⟩

/-- A partition that clamps SYS scopes and traps on them by policy (R179). -/
def tClamp : State := tBase.modPt 0 (fun x => { x with partcfg := 0x6000000000000000 })

theorem witness_FenceResult : tBase.onTurn ∧ clampTrap tBase tBase.cur 6 = false ∧ (∀ d ∈ tBase.denials, d.team ≠ (tBase.sl tBase.cur).team) ∧
    ((tWith (fun x => { x with fs := 1 })).sl 0).fs ≠ 0 ∧
    CanTrap tClamp tClamp.cur ∧ clampTrap tClamp tClamp.cur 6 = true :=
  ⟨by decide, by decide, by decide, by decide, canTrap_of (by decide), by decide⟩

theorem released_of {s : State} {k : Nat} (h : (s.sl k).fl = 0 ∧ (s.sl k).fs = 0 ∧ s.denials = []) : Released s k :=
  ⟨h.1, h.2.1, by rw [h.2.2]; exact fun _ hd => absurd hd (by simp)⟩

/-- s8 names the last 16 bytes of the scratchpad, s9 is zero, s12 is as given. -/
def tBar (b : Word) : State := tWith (fun x => { x with s := [(8, some 4080), (12, some b)] })

theorem barReady (b : Word) (hb : b = 0 ∨ b = 1) (rel : Bool) : BarReady (tBar b) [8, 12] (((tBar b).sl (tBar b).cur).sVal 8) rel 5 := by
  rcases hb with rfl | rfl <;>
  exact ⟨by decide, by unfold Slice.readable; decide, by unfold inScratch; decide, clean_of rfl _ _,
    by decide, by decide, fun _ => released_of (by decide)⟩

theorem witness_BarrierUpdate : BarReady (tBar 1) [8, 12] (((tBar 1).sl (tBar 1).cur).sVal 8) true 5 ∧
    BarReady (tBar 1) [(8 : BitVec 6).toNat, (12 : BitVec 6).toNat] (((tBar 1).sl (tBar 1).cur).sVal (8 : BitVec 6).toNat) false 0 ∧
    (∃ f, barForm (.bararrN 5 8 12) = some f ∧ f.srcs = [8, 12] ∧ f.addr = 8 ∧ f.rel = true ∧ f.scope = 5) :=
  ⟨barReady 1 (.inr rfl) true, ⟨by decide, by unfold Slice.readable; decide, by unfold inScratch; decide, clean_of rfl _ _,
    by decide, by decide, fun h => nomatch h⟩, ⟨_, rfl, by decide, by decide, by decide, by decide⟩⟩

theorem roomToWait_of {s : State} {k : Nat} {obj : DWord} (h : s.wft = []) : RoomToWait s k obj :=
  ⟨by unfold onDies; rw [h]; exact List.forall_mem_nil _, by rw [h]; exact List.forall_mem_nil _,
    fun _ _ => by rw [h]; exact Nat.zero_lt_succ 4095⟩

/-- The phase is 0: parity 1 differs from it, parity 0 does not. -/
theorem witness_BarrierTests : BarReady (tBar 1) [8, 12] (((tBar 1).sl (tBar 1).cur).sVal 8) false 5 ∧
    (barrierAt (tBar 1) (spKey (tBar 1).cur 4080)).phase ≠ (((tBar 1).sl (tBar 1).cur).sVal 12).getLsbD 0 ∧
    BarReady (tBar 0) [8, 12] (((tBar 0).sl (tBar 0).cur).sVal 8) false 5 ∧
    ¬ (barrierAt (tBar 0) (spKey (tBar 0).cur 4080)).phase ≠ (((tBar 0).sl (tBar 0).cur).sVal 12).getLsbD 0 ∧
    RoomToWait (tBar 0) (tBar 0).cur (localKey (coreOfSlice (tBar 0).cur) 4080) :=
  ⟨barReady 1 (.inr rfl) false, by decide +kernel, barReady 0 (.inl rfl) false, by decide +kernel, roomToWait_of rfl⟩

theorem witness_TeamBarrier : tBase.onTurn ∧ clampTrap tBase tBase.cur 6 = false ∧ Released tBase tBase.cur ∧ (afind tBase.teams 0).isSome ∧
    (tBase.tm 0).slices.Nodup ∧ tBase.cur ∈ (tBase.tm 0).slices ∧ (tBase.sl 0).wait = none ∧ (tBase.sl 0).done = false ∧
    (∀ j ∈ (tBase.tm 0).slices, (tBase.sl j).done = false → j = tBase.cur ∨ j ∈ (tBase.tm 0).arrived) ∧
    (tPair id).onTurn ∧ Released (tPair id) (tPair id).cur ∧ ((tPair id).tm 0).slices.Nodup ∧ ((tPair id).sl 0).wait = none ∧
    ¬ (∀ j ∈ ((tPair id).tm 0).slices, ((tPair id).sl j).done = false → j = (tPair id).cur ∨ j ∈ ((tPair id).tm 0).arrived) ∧
    ((tPair id).sl 0).trapen.getLsbD 4 = false ∧ RoomToWait (tPair id) 0 (tsyncKey 0) := by
  and_intros <;> first | decide | exact released_of (by decide) | exact roomToWait_of rfl

theorem key_of {t : Target} (h : (match t with | .key _ => true | _ => false) = true) : ∃ key, t = .key key := by
  cases t with
  | key k => exact ⟨k, rfl⟩
  | _ => cases h

theorem witness_ConstantBank : (∃ x, tPlaced.fetchConsts 0 0 [255] = .ok x ∧ true = true) ∧
    (∃ key, tPlaced.codeTarget 0 ((tPlaced.tm 0).header.entry - 1024 + 4 * BitVec.ofNat 32 255) = .key key) ∧
    tPlaced.overwritten = [] :=
  ⟨ok_of (by decide +kernel), key_of (by decide +kernel), by decide +kernel⟩

/-- s8 holds an address, s12 data; the slice stands in a trap or not. -/
def tAt (a : Word) (frame : Option Frame) : State := tWith (fun x => { x with s := [(8, some a), (12, some 0x55)], frame := frame })

theorem witness_ScalarMemory : (tAt 4096 none).onTurn ∧ ((tAt 4096 none).sl 0).readable [8] ∧ (∀ f ∈ (tAt 4096 none).fars, f.slice ≠ (tAt 4096 none).cur) ∧
    ((tAt 4096 none).sl 0).frame = none ∧ inScratch (tAt 4096 none) 0 (4096 + (0xFFF : BitVec 12).signExtend 32 * 4) 4 4 ∧
    clean (tAt 4096 none) (spKey 0 4092) 4 ∧ ((tAt 4096 none).sl 0).readable [12] ∧
    ((tAt 0xFFFFFC00 (some [])).sl 0).frame = some [] ∧ 0xFFFFFC00 ≤ (0xFFFFFC00 : Word).toNat ∧ (0xFFFFFC00 : Word).toNat % 4 = 0 :=
  ⟨by decide, by unfold Slice.readable; decide, by decide, by decide, by unfold inScratch; decide, clean_of rfl _ _,
    by unfold Slice.readable; decide, by decide, by decide, by decide⟩

/-- LD, ST, ATOM and ATOM.cas of words whose operands are s registers, so that every lane acts at one address. -/
def tMemLong (ext8 : BitVec 8) (ty : Ty) (vd : BitVec 8) (b c : Opnd) : Long :=
  { pk := 0, pn := false, vd := vd, ty := ty, rm := 0, sat := false, xw := 0, a := tS 8, b := b, ext8 := ext8, g2 := .cd c o0 0 }

theorem localReady_of {s : State} {i : Instr} {f : Long} {scope : BitVec 3} {w : Nat} (h0 : s.onTurn)
    (h1 : ∀ k ∈ s.members s.cur, (s.sl k).wait = none) (h2 : constsOf i = []) (h3 : ∀ k ∈ s.members s.cur, longReadable i (s.sl k))
    (h4 : ∀ k ∈ s.members s.cur, clampTrap s k scope = false) (h5 : ∀ e ∈ accesses s (s.members s.cur) i f [] w, inScratch s e.k e.a w w)
    (h6 : s.poisoned = []) (h7 : s.fars = []) (h8 : f.xw.getLsbD 1 = false) : LocalReady s s i f scope w [] :=
  ⟨h0, h1, fetched_none h2, h3, h4, h5, fun _ _ => clean_of h6 _ _, by rw [h7]; exact fun _ hg => absurd hg (by simp),
    fun h => absurd h (by rw [h8]; decide)⟩

theorem witness_LocalLoad : let f := tMemLong 4 .b32 4 o0 o0
    (Instr.ld f).WellFormed ∧ LocalReady (tAt 4092 none) (tAt 4092 none) (.ld f) f (f.ext8.extractLsb' 3 3)
      (accessBytes (f.ext8.extractLsb' 0 3)) [] :=
  ⟨⟨rfl, rfl⟩, localReady_of (by decide) (by decide) rfl (by unfold longReadable; decide) (by decide) (by unfold inScratch; decide)
    rfl rfl rfl⟩

theorem witness_LocalStore : let f := tMemLong 4 .b32 0 (tS 12) o0
    (Instr.st f).WellFormed ∧ LocalReady (tAt 4092 none) (tAt 4092 none) (.st f) f (f.ext8.extractLsb' 3 3)
      (accessBytes (f.ext8.extractLsb' 0 3)) [] :=
  ⟨⟨rfl, rfl⟩, localReady_of (by decide) (by decide) rfl (by unfold longReadable; decide) (by decide) (by unfold inScratch; decide)
    rfl rfl rfl⟩

theorem witness_LocalAtomic : let f := tMemLong 0 .i32 4 (tS 12) o0
    let g := tMemLong 7 .b32 4 (tS 12) (tS 16)
    (Instr.atom f).WellFormed ∧ LocalReady (tAt 4092 none) (tAt 4092 none) (.atom f) f (f.ext8.extractLsb' 4 3) 4 [] ∧
    (Instr.atomCas g).WellFormed ∧ LocalReady (tAt 4092 none) (tAt 4092 none) (.atomCas g) g (g.ext8.extractLsb' 4 3) 4 [] :=
  ⟨⟨rfl, rfl⟩, localReady_of (by decide) (by decide) rfl (by unfold longReadable; decide) (by decide) (by unfold inScratch; decide)
    rfl rfl rfl, ⟨rfl, rfl⟩, localReady_of (by decide) (by decide) rfl (by unfold longReadable; decide) (by decide)
    (by unfold inScratch; decide) rfl rfl rfl⟩

/-- Address 4093 is not aligned; 4096 is the first outside; all four lanes fail alike. -/
theorem witness_AddressTraps_long : let f := tMemLong 4 .b32 4 o0 o0
    localForm (.ld f) = some (f, f.ext8.extractLsb' 3 3, 4) ∧
    (tAt 4093 none).members (tAt 4093 none).cur = [(tAt 4093 none).cur] ∧ fetched (tAt 4093 none) (.ld f) [0] [] (tAt 4093 none) ∧
    CanTrap (tAt 4093 none) (tAt 4093 none).cur ∧ longReadable (.ld f) ((tAt 4093 none).sl 0) ∧
    lanes.filter (fun l => activeIn (.ld f) ((tAt 4093 none).sl 0) l &&
      decide ((localAddr (.ld f) f ((tAt 4093 none).sl 0) [] 4 l).toNat % 4 ≠ 0)) = [0, 1, 2, 3] ∧
    CanTrap (tAt 4096 none) (tAt 4096 none).cur ∧ longReadable (.ld f) ((tAt 4096 none).sl 0) ∧
    lanes.filter (fun l => activeIn (.ld f) ((tAt 4096 none).sl 0) l &&
      decide ((localAddr (.ld f) f ((tAt 4096 none).sl 0) [] 4 l).toNat % 4 ≠ 0)) = [] ∧
    lanes.filter (fun l => activeIn (.ld f) ((tAt 4096 none).sl 0) l &&
      decide ((localAddr (.ld f) f ((tAt 4096 none).sl 0) [] 4 l).toNat < 0 ∨
        4096 < (localAddr (.ld f) f ((tAt 4096 none).sl 0) [] 4 l).toNat + 4)) = [0, 1, 2, 3] :=
  ⟨rfl, by decide, fetched_none rfl, canTrap_of (by decide), by unfold longReadable; decide, by decide, canTrap_of (by decide),
    by unfold longReadable; decide, by decide, by decide⟩

theorem witness_AddressTraps_short : (∃ a, shortAccess (.barinit 8 12) = some ([8, 12], a, 16, false, 0) ∧
      (a ((tAt 4081 none).sl 0)).toNat % 16 ≠ 0 ∧ (a ((tAt 4096 none).sl 0)).toNat % 16 = 0) ∧
    CanTrap (tAt 4081 none) 0 ∧ ((tAt 4081 none).sl 0).readable [8, 12] ∧ clampTrap (tAt 4081 none) 0 0 = false ∧
    CanTrap (tAt 4096 none) 0 ∧ ((tAt 4096 none).tm 0).splimit < (4096 : Word).toNat + 16 :=
  ⟨⟨_, rfl, by decide, by decide⟩, canTrap_of (by decide), by unfold Slice.readable; decide, by decide, canTrap_of (by decide), by decide⟩

/-- IADD of two s registers, and MOV of a constant of a placed team. -/
def tAdd : Instr := .iadd (tLongOf .i32 (tS 8) (tS 12) 0)
def tMovC : Instr := .mov (tLongOf .b32 ⟨.cb, false, false, 255⟩ o0 0)

theorem fail_of {t : Target} (h : (match t with | .fail _ _ => true | _ => false) = true) : ∃ e tag, t = .fail e tag := by
  cases t with
  | fail e x => exact ⟨e, x, rfl⟩
  | _ => cases h

theorem allCanTrap_one {s : State} {k : Nat} (h : CanTrap s k) : allCanTrap s [k] := by
  intro j hj
  rw [List.mem_singleton] at hj
  subst hj
  exact ⟨h, h.permit⟩

/-- An unassigned word is placed; a MOV to v40 for a team of 32 v registers; a page without permission to fetch; each at its step. -/
def tFetch (gs : List Word) (shape : Word) (leaf : Byte) : State :=
  let s := ((State.reset.place gs).modTm 0 (fun t => { t with header := { t.header with shape := shape } })).putMem (hbmKey 0 0x9000) [leaf]
  { s with agenda := [], overwritten := [], freeNo := s.freeNo + 1 }

/-- What slice 0 fetches is refused with this code. -/
def refusedWith (code : Nat) (u : State) : Bool :=
  match u.fetchAt 0 with
  | .error _ => false
  | .ok ((g0, g1, g2), s1) => match decode g0 g1 g2 with
    | .error c => decide (c = code)
    | .ok i => decide (code = 7) && i.beyond (s1.tm (u.sl 0).team).header.regs

theorem witness_AddressTraps_illegal (gs : List Word) (shape : Word) (code : Nat)
    (h : gs = [0, 0, 0] ∧ shape = 0x0C0010E0 ∧ code = 1 ∨ gs = [0x000A2881, 0x00000104, 0] ∧ shape = 0x0C001000 ∧ code = 7) :
    let u := tFetch gs shape 0x1F
    u.canIssue 0 = true ∧ (u.members 0).filter (fun j => !(u.sl j).midway) = [0] ∧ CanTrap u 0 ∧ refusedWith code u = true := by
  rcases h with ⟨rfl, rfl, rfl⟩ | ⟨rfl, rfl, rfl⟩ <;>
  exact ⟨by decide +kernel, by decide +kernel, canTrap_of (by decide +kernel), by decide +kernel⟩

/-- A page that maps nothing: the fetch fails, and so does the read of a constant by MOV. -/
theorem witness_AddressTraps_fetch : let u := tFetch [0, 0, 0] 0x0C0010E0 0
    u.canIssue 0 = true ∧ CanTrap u 0 ∧ (u.sl 0).granule = none ∧ (∃ e tag, u.codeTarget (u.sl 0).team (u.sl 0).pc = .fail e tag) ∧
    isLane tMovC = true ∧ tMovC.WellFormed ∧ u.onTurn ∧ u.members u.cur = [0] ∧ constsOf tMovC ≠ [] ∧
    (let v := (u.issuedFor [0] (figures tMovC).1).charge tMovC [0]
     CanTrap v 0 ∧ [0].filter (fun k => decide ((v.sl k).lanesOn (predOf tMovC).1 (predOf tMovC).2 ≠ 0)) = [0] ∧
     ∃ e, v.fetchConsts (v.constFence [0]) (v.sl 0).team (constsOf tMovC) = .error e) :=
  ⟨by decide +kernel, canTrap_of (by decide +kernel), by decide +kernel, fail_of (by decide +kernel), rfl, ⟨rfl, rfl⟩, by decide +kernel,
    by decide +kernel, by decide, canTrap_of (by decide +kernel), by decide +kernel, error_of (by decide +kernel)⟩

theorem witness_LaneResult : isLane tAdd = true ∧ tAdd.WellFormed ∧ tBase.onTurn ∧
    (let u := (tBase.issuedFor (tBase.members tBase.cur) (figures tAdd).1).charge tAdd (tBase.members tBase.cur)
     fetched u tAdd (tBase.members tBase.cur) [] u ∧ ∀ k ∈ tBase.members tBase.cur, laneReadable tAdd (u.sl k)) :=
  ⟨rfl, ⟨rfl, rfl⟩, by decide, fetched_none rfl, by unfold laneReadable; decide⟩

theorem witness_LaneResult_constant : isLane tMovC = true ∧ tMovC.WellFormed ∧ tPlaced.onTurn ∧
    (let ms := tPlaced.members tPlaced.cur
     let u := (tPlaced.issuedFor ms (figures tMovC).1).charge tMovC ms
     ∃ x, u.fetchConsts (u.constFence ms) 0 (constsOf tMovC) = .ok x ∧
      (ms.all fun k => decide ((x.2.sl k).active = 0xF)) = true) :=
  ⟨rfl, ⟨rfl, rfl⟩, by decide +kernel, ok_of (by decide +kernel)⟩

theorem witness_LaneFrame : ∃ t, exec tAdd tBase = .next t := next_of (by decide +kernel)

theorem witness_ElementValues : (∃ op, integerTable (.imad (tLongOf .i8x4 (tS 8) (tS 12) 0)) = some (tLongOf .i8x4 (tS 8) (tS 12) 0, op)) ∧
    (Instr.imad (tLongOf .i8x4 (tS 8) (tS 12) 0)).WellFormed ∧
    (∃ op, bitTable (.ishl (tLongOf .i64 (tS 8) (tS 12) 0)) = some (tLongOf .i64 (tS 8) (tS 12) 0, op)) ∧
    (Instr.ishl (tLongOf .i64 (tS 8) (tS 12) 0)).WellFormed ∧ wordCount (.ishl (tLongOf .i64 (tS 8) (tS 12) 0)) = true ∧
    3 < Ty.count .i8x4 ∧ 0 < Ty.count .i64 :=
  ⟨⟨_, rfl⟩, ⟨rfl, rfl⟩, ⟨_, rfl⟩, ⟨rfl, rfl⟩, rfl, by decide, by decide⟩

/-- A sum, a conversion and a comparison. -/
theorem witness_ElementValues_float (i : Instr) (h : i = .fadd (tLongOf .f16x2 (tS 8) (tS 12) 0) ∨ i = .rcp (tLongOf .f32 (tS 8) o0 0)) :
    (∃ v, floatTable i = some v ∧ decide (0 < v.count) = true) ∧ i.WellFormed ∧
    (Instr.fcmp { tLongOf .f32 (tS 8) (tS 12) 0 with vd := 1 }).WellFormed := by
  rcases h with rfl | rfl <;> exact ⟨some_of rfl, ⟨rfl, rfl⟩, ⟨rfl, rfl⟩⟩

/-- A subnormal and a normal encoding; the values of a sum. -/
theorem witness_ElementValues_rational : 0x8001 < 2 ^ Fmt.f16.width ∧ 0x8001 / 2 ^ Fmt.f16.mbits % 2 ^ Fmt.f16.ebits = 0 ∧
    0 < 0x3C00 / 2 ^ Fmt.f16.mbits % 2 ^ Fmt.f16.ebits ∧ 0x3C00 / 2 ^ Fmt.f16.mbits % 2 ^ Fmt.f16.ebits < 2 ^ Fmt.f16.ebits - 1 ∧
    [FVal.fin false 3 0 false, FVal.fin true 1 0 false].map ratOf = [(3 : ℚ), -1].map some := by
  refine ⟨by decide, by decide, by decide, by decide, ?_⟩
  simp [ratOf]

/-- BCAST of lane 3, and of a lane that the gang lacks, which is absent. -/
def tBcast (n : BitVec 8) : Instr := .bcast (tLongOf .b32 (tS 8) o0 n)

theorem witness_CrossLaneMoves (n : BitVec 8) (hn : n = 3 ∨ n = 31) : (∃ f, moverForm (tBcast n) = some (f, 0)) ∧ (tBcast n).WellFormed ∧
    tBase.onTurn ∧ (let ms := tBase.members tBase.cur
     let u := (tBase.issuedFor ms (crossCycles (tBcast n))).charge (tBcast n) ms
     fetched u (tBcast n) ms [] u ∧ (∀ p ∈ participants u (tBcast n) ms, restLive u (tBcast n) p ∧
      ∀ e, sourceLane u (tBcast n) [] ms (participants u (tBcast n) ms) p = some e → aLive u (tBcast n) e) ∧
      ((⟨0, 0, 0⟩ : VLane) ∈ participants u (tBcast n) ms)) := by
  rcases hn with rfl | rfl <;>
  exact ⟨⟨_, rfl⟩, ⟨rfl, rfl⟩, by decide, fetched_none rfl, by unfold restLive aLive; simp only [← Option.mem_def]; decide, by decide⟩

theorem witness_CrossLaneNumbers : (Instr.laneid (tLongOf .b32 o0 o0 0)).WellFormed ∧ (Instr.plane (tLongOf .b32 o0 o0 0)).WellFormed ∧
    (Instr.vote { tLongOf .b32 o0 o0 2 with xw := 3 }).WellFormed ∧ tBase.onTurn ∧
    ((⟨0, 3, 3⟩ : VLane) ∈ participants tBase (.laneid (tLongOf .b32 o0 o0 0)) [0]) :=
  ⟨⟨rfl, rfl⟩, ⟨rfl, rfl⟩, ⟨rfl, rfl⟩, by decide, by decide⟩

theorem witness_CrossLaneReductions (i : Instr) (hi : i = .reduce (tLongOf .i32 (tS 8) o0 0) ∨ i = .scan (tLongOf .i32 (tS 8) o0 2)) :
    i.WellFormed ∧ tBase.onTurn ∧ (let ms := tBase.members tBase.cur
     let u := (tBase.issuedFor ms (crossCycles i)).charge i ms
     fetched u i ms [] u ∧ ∀ p ∈ participants u i ms, aLive u i p) := by
  rcases hi with rfl | rfl <;> exact ⟨⟨rfl, rfl⟩, by decide, fetched_none rfl, by unfold aLive; decide⟩

/-- A far load, a far store and an atomic of a pair that names a scratchpad address, with the class counters one below full. -/
def tFarAt : State := tWith (fun x => { x with s := [(8, some 0x100), (9, some 0x40000000)], fl := 62, fs := 62 })
def tFarLong (ty : Ty) (vd ext8 : BitVec 8) (b : Opnd) : Long := { tLongOf ty (tS 8) b ext8 with vd := vd }

theorem farReady_of {s : State} {i : Instr} {f : Long} {scope : BitVec 3} {kind : FarKind} (h0 : s.onTurn) (h1 : constsOf i = [])
    (h2 : ∀ k ∈ s.members s.cur, longReadable i (s.sl k)) (h3 : ∀ k ∈ s.members s.cur, clampTrap s k scope = false)
    (h4 : ∀ k ∈ s.members s.cur, ∀ l ∈ lanesOf i (s.sl k), (farAddr i f (s.sl k) [] (farBytes kind) l).toNat % farBytes kind = 0)
    (h5 : ∀ k ∈ s.members s.cur, lanesOf i (s.sl k) ≠ [] → (if countsStore kind then (s.sl k).fs else (s.sl k).fl) < 63)
    (h6 : f.xw.getLsbD 1 = false) (h7 : s.farUsed (coreOfSlice s.cur) + ((s.members s.cur).map (fun k =>
      (linesOf ((lanesOf i (s.sl k)).map (farAddr i f (s.sl k) [] (farBytes kind)))).length)).sum ≤ 64) : FarReady s s i f scope kind [] :=
  ⟨h0, fetched_none h1, h2, h3, h4, h5, h7, fun h => absurd h (by rw [h6]; decide)⟩

theorem witness_FarIssue : let f := tFarLong .b32 40 4 o0
    let g := tFarLong .b32 0 4 (tS 12)
    let h := tFarLong .i32 40 0 (tS 12)
    (farForm (.fld f) = some (f, f.ext8.extractLsb' 3 3, .load 4 40) ∧ (Instr.fld f).WellFormed ∧
      FarReady tFarAt tFarAt (.fld f) f (f.ext8.extractLsb' 3 3) (.load 4 40) []) ∧
    (farForm (.fst g) = some (g, g.ext8.extractLsb' 3 3, .store 4) ∧ (Instr.fst g).WellFormed ∧
      FarReady tFarAt tFarAt (.fst g) g (g.ext8.extractLsb' 3 3) (.store 4) []) ∧
    (farForm (.fatom h) = some (h, h.ext8.extractLsb' 4 3, .atomic 0 .i32 40) ∧ (Instr.fatom h).WellFormed ∧
      FarReady tFarAt tFarAt (.fatom h) h (h.ext8.extractLsb' 4 3) (.atomic 0 .i32 40) []) :=
  ⟨⟨rfl, ⟨rfl, rfl⟩, farReady_of (by decide) rfl (by unfold longReadable; decide) (by decide) (by decide) (by decide) rfl
      (by decide)⟩,
    ⟨rfl, ⟨rfl, rfl⟩, farReady_of (by decide) rfl (by unfold longReadable; decide) (by decide) (by decide) (by decide) rfl
      (by decide)⟩,
    ⟨rfl, ⟨rfl, rfl⟩, farReady_of (by decide) rfl (by unfold longReadable; decide) (by decide) (by decide) (by decide) rfl
      (by decide)⟩⟩

/-- A line request of one lane to the job's own core, and one to an address with bits that no scratchpad has. -/
def tFar (kind : FarKind) (addr : DWord) (formed : Bool) : Far :=
  { id := 5, slice := 0, kind := kind, ops := [⟨1, addr, 0x55, 0, 0, false⟩], formed := formed, seq := 1, parent := 5, gangNo := 1, due := 50000
    sent := false, txid := 0, answer := none, known := [] }
def tFarState (f : Far) : State := { tJobState with fars := [f] }

theorem farDue_of {s : State} {f : Far} (h : s.farOf f.id = some f) (h1 : f.formed = true ∧ s.farBlocked f = false ∧ f.sent = false ∧
    f.answer = none ∧ (afind s.slices f.slice).isSome = true ∧ s.farGoes f = true) : FarDue s f :=
  ⟨h, h1.1, h1.2.1, h1.2.2.1, h1.2.2.2.1, h1.2.2.2.2.1, h1.2.2.2.2.2⟩

theorem witness_FarEvents_coalesce : let f := tFar (.load 4 40) 0x4000000000000100 false
    (tFarState f).farOf f.id = some f ∧ f.formed = false ∧
    (tFarState f).engineOn ((tFarState f).tm ((tFarState f).sl f.slice).team).part = true ∧
    (tFarState f).farGoes f = true ∧
    (let mine := (tFarState f).fars.filter (fun g => decide (coreOfSlice g.slice = coreOfSlice f.slice))
     let gang := mine.filter (fun g => !g.formed && decide (g.gangNo = f.gangNo))
     (∀ g ∈ mine, g.formed = false → f.seq ≤ g.seq) ∧ f ∈ gang ∧
      (mine.filter Far.formed).length + (gang.map (fun g => (linesOf (g.ops.map LaneOp.addr)).length)).sum ≤ 64) := by
  decide

theorem witness_FarEvents_load : let f := tFar (.load 4 40) 0x4000000000000100 true
    let u := (tFarState f).checkedTag ((tFarState f).sl f.slice).team 0 0x4000000000000100
    FarDue (tFarState f) f ∧ FarAlone (tFarState f) f ∧ lastRequest (tFarState f) f ∧ f.ops ≠ [] ∧ (f.ops.map LaneOp.lane).Nodup ∧ (∃ key, (tFarState f).farTarget f 0x4000000000000100 = .key key) ∧
    (∃ key, u.farTarget f 0x4000000000000100 = .key key) ∧ u.poisoned = [] :=
  ⟨farDue_of (by decide) (by decide), ⟨by decide, by decide⟩, by unfold lastRequest; decide, by decide, by decide, key_of (by decide +kernel),
    key_of (by decide +kernel), by decide +kernel⟩

theorem witness_FarEvents_store (kind : FarKind) (h : kind = .store 4 ∨ kind = .atomic 0 .i32 40) : let f := tFar kind 0x4000000000000100 true
    let u := (tFarState f).checkedTag ((tFarState f).sl f.slice).team f.kind.agent 0x4000000000000100
    FarDue (tFarState f) f ∧ FarAlone (tFarState f) f ∧ (∃ key, (tFarState f).farTarget f 0x4000000000000100 = .key key) ∧
    (∃ key, u.farTarget f 0x4000000000000100 = .key key) ∧ u.poisoned = [] ∧ u.cores = [] ∧ Ty.i32 ∈ atomTys 0 := by
  rcases h with rfl | rfl <;>
  exact ⟨farDue_of (by decide) (by decide), ⟨by decide, by decide⟩, key_of (by decide +kernel), key_of (by decide +kernel), by decide +kernel, by decide +kernel, by decide⟩

theorem witness_FarEvents_fail : let f := tFar (.load 4 40) 0x4000010000000000 true
    FarDue (tFarState f) f ∧ ∃ e tag, (tFarState f).farTarget f 0x4000010000000000 = .fail e tag :=
  ⟨farDue_of (by decide) (by decide), fail_of (by decide +kernel)⟩

/-- A request of this package that has stood past its timeout. -/
theorem witness_FarEvents_late : let f := tFar (.load 4 40) 0x1000 true
    let s := { tFarState f with time := 65536 * 50001 }
    s.farOf f.id = some f ∧ f.formed = true ∧ f.sent = false ∧ f.answer = none ∧ s.present f.slice ∧ s.farGoes f = true ∧
    f.due < s.ns ∧ s.destBlocked f = false := by
  unfold State.present; decide

theorem witness_FarEvents_rest :
    (let f := tFar (.load 4 40) 0x8000000000000000 true
     let r : PeerReq := ⟨9, 5, 0, 0, ⟨0, 0, 0, 0, 2⟩, 0, 0, false⟩
     let s := { tFarState f with peerReqs := [r] }
     s.peerReqs.find? (fun q => decide (q.txid.toNat = r.txid.toNat)) = some r ∧ r.lost = false ∧ s.farOf r.src = some f ∧
      linePassed (s.ns - 2000) r.dline = true ∧ s.route r.stream.dstPeer ≠ .none ∧ (s.txOf r.stream).nacked = none) ∧
    (let d : Denial := ⟨3, 0, 0, 0, 0, 0, 0, 255, 0⟩
     ({ tBase with denials := [d] } : State).denials.find? (fun q => decide (q.id = d.id)) = some d ∧ 255 ≤ d.count) := by
  decide

/-- The placed team's job, with a die whose registers are not all at reset. -/
def tWalk : State := { tPlaced with dies := [(0, { Die.reset with poolcfg := 1 })] }

theorem witness_FarEvents_walk : (tWalk.pt 0).job = some placeJob ∧ tWalk.cachedLeaf 0 placeJob.job 0x5000 = none ∧
    (∃ m, tWalk.walk placeJob.rootw 0x5000 = .ok m ∧ true = true) ∧ (afind tWalk.dies (ownerDie 0x5000)).isSome ∧ tWalk.poisoned = [] :=
  ⟨by decide +kernel, by decide +kernel, ok_of (by decide +kernel), by decide +kernel, by decide +kernel⟩

/-- s8 names a local word and lock at offset 0; the tables of die 0 full or not. -/
def tKey (mem : List Byte) : State := (tWith (fun x => { x with s := [(12, some 1)] })).putMem (coreKey 0 0) mem
def tFullTable : State :=
  { tKey [] with wft := List.replicate 4096 ⟨1, 1, 0, localKey 0 0, 99, 1, 0, 0, 1, 0, 0, none, 0, false⟩ }

theorem keyReady_of {s : State} {a n : Nat} {more : List Nat} (h : s.cur ∈ s.members s.cur) (h1 : (s.sl (leadOf s)).readable (a :: more))
    (h2 : inScratch s (leadOf s) ((s.sl (leadOf s)).sVal a) n n) : KeyReady s true a n more := ⟨h, h1, h2⟩

theorem witness_Registrations : KeyReady (tKey []) true 8 4 [] ∧ (tKey []).homeOf 0 (keyOf (tKey []) true 8) = .here 0 (localKey 0 0) ∧
    homeHere (localKey 0 0) = .here 0 (localKey 0 0) ∧ (tKey []).wftUsed 0 < 4096 ∧
    (∀ q ∈ namedKinds 2, (tKey []).regOf 0 (localKey 0 0) q = none) ∧
    onDies (tKey []) ∧
    KeyReady tFullTable true 8 4 [] ∧ tFullTable.regOf 0 (localKey 0 0) 1 = none ∧ tFullTable.makeRoom 0 0 = none :=
  ⟨keyReady_of (by decide) (by unfold Slice.readable; decide) (by unfold inScratch; decide), by decide +kernel, by decide +kernel,
    by decide +kernel, by decide +kernel, by unfold onDies; decide +kernel,
    keyReady_of (by decide +kernel) (by unfold Slice.readable; decide +kernel)
    (by unfold inScratch; decide +kernel), by decide +kernel, by decide +kernel⟩

/-- A hold of the team to drop. -/
theorem witness_Registrations_drop : let e : WftEntry := ⟨1, 0, 0, localKey 0 0, 0, 1, 0, 0, 1, 0, 0, none, 0, false⟩
    let s := { tKey [] with wft := [e] }
    KeyReady s true 8 4 [] ∧ s.regOf 0 (localKey 0 0) 1 = some e ∧ namedKinds 0 = [1] ∧ e.count ≤ 1 :=
  ⟨keyReady_of (by decide) (by unfold Slice.readable; decide) (by unfold inScratch; decide), by decide +kernel, by decide, by decide⟩

/-- The word is 0: it is equal to s9, and not to s12. -/
theorem witness_ValueWait : KeyReady (tKey []) true 8 4 [12] ∧ clampTrap (tKey []) (leadOf (tKey [])) 5 = false ∧
    (∃ x, placeOf ((tKey []).issued ((tKey []).members (tKey []).cur)) true (keyOf (tKey []) true 8) false = some x ∧
      decide (x.1 = coreKey 0 0 ∧ x.2.poisoned = []) = true) ∧
    valueMet 0 0 (((tKey []).sl 0).sVal 9) = true ∧ valueMet 0 0 (((tKey []).sl 0).sVal 12) = false ∧
    ((tKey []).sl (leadOf (tKey []))).trapen.getLsbD 4 = false ∧ (tKey []).fars = [] ∧
    (tKey []).homeOf 0 (keyOf (tKey []) true 8) = .here 0 (localKey 0 0) :=
  ⟨keyReady_of (by decide) (by unfold Slice.readable; decide) (by unfold inScratch; decide), by decide, some_of (by decide +kernel),
    by decide, by decide, by decide, by decide, by decide +kernel⟩

/-- The trap of a wait that must register, enabled: the table full and no spill area, and room. -/
theorem witness_WftOverflow : let s := tFullTable.modSl 0 (fun x => { x with trapen := 0x10 })
    let r := (tKey []).modSl 0 (fun x => { x with trapen := 0x10 })
    Overflows s 0 (localKey 0 0) ∧ RoomToWait r (leadOf r) (localKey 0 0) ∧ (r.sl (leadOf r)).trapen.getLsbD 4 = true ∧
    KeyReady s true 8 4 [12] ∧ KeyReady s true 8 8 [] ∧ s.homeOf 0 (keyOf s true 8) = .here 0 (localKey 0 0) ∧
    valueMet 0 0 ((s.sl 0).sVal 12) = false ∧ (s.word (coreKey 0 0) = 0) := by
  have lead : leadOf (tFullTable.modSl 0 (fun x => { x with trapen := 0x10 })) = 0 := by decide +kernel
  refine ⟨⟨by decide +kernel, by decide +kernel, by decide +kernel, ?_⟩,
    ⟨by unfold onDies; decide +kernel, by decide +kernel, fun d _ => (by decide : 0 < 4096)⟩, by decide +kernel,
    keyReady_of (by decide +kernel) (by unfold Slice.readable; decide +kernel) (by unfold inScratch; decide +kernel),
    keyReady_of (by decide +kernel) (by unfold Slice.readable; decide +kernel) (by unfold inScratch; decide +kernel),
    by decide +kernel, by decide +kernel, by decide +kernel⟩
  have e : (tFullTable.modSl 0 (fun x => { x with trapen := 0x10 })).members
    (tFullTable.modSl 0 (fun x => { x with trapen := 0x10 })).cur = [0] := by decide +kernel
  rw [e]
  refine allCanTrap_one ⟨by unfold State.present; decide +kernel, by decide +kernel, by decide +kernel, ?_, by decide +kernel, by decide +kernel, by decide +kernel⟩
  intro e he
  obtain rfl := List.eq_of_mem_replicate (show e ∈ List.replicate 4096 _ from he)
  exact fun h => absurd h.1 (by decide)

theorem fails_of {t : Target} {e : FarErr} (h : (match t with | .fail f _ => decide (f = e) | _ => false) = true) :
    ∃ tag, t = .fail e tag := by
  cases t with
  | fail f x => exact ⟨x, by rw [of_decide_eq_true h]⟩
  | _ => cases h

/-- A read of a word beyond the scratchpad, and of a page that the job does not map, fails. -/
theorem witness_ValueWait_fails : let s := (tWith (fun x => { x with s := [(9, some 0x40000100)] }))
    KeyReady s false 8 4 [12] ∧ clampTrap s (leadOf s) 5 = false ∧ s.fars = [] ∧
    ∃ e tag, s.resolve (s.teamAsker (s.sl (leadOf s)).team) (keyOf s false 8) true false false = .fail e tag :=
  ⟨⟨by decide, by unfold Slice.readable; decide, show _ % 4 = 0 by decide⟩, by decide, by decide, fail_of (by decide +kernel)⟩

theorem released_members {s : State} {ks : List Nat} (h : ks = [0]) (h1 : Released s 0) : ∀ k ∈ ks, Released s k := by
  rw [h]
  intro k hk
  rw [List.mem_singleton] at hk
  exact hk ▸ h1

/-- A lock that is free, and one that is held. -/
theorem witness_Locks (b : Byte) (h : b = 0 ∨ b = 0x80) : let s := tKey [0, 0, 0, 0, 0, 0, 0, b]
    KeyReady s true 8 8 [] ∧ clampTrap s (leadOf s) 5 = false ∧ (∀ k ∈ s.members s.cur, Released s k) ∧
    (∃ x, placeOf (s.issued (s.members s.cur)) true (keyOf s true 8) true = some x ∧
      decide (x.1 = coreKey 0 0 ∧ x.2.poisoned = [] ∧ (leNat (x.2.bytes (coreKey 0 0) 8) = 0 ↔ b = 0)) = true) ∧
    s.homeOf 0 (keyOf s true 8) = .here 0 (localKey 0 0) ∧ s.fars = [] := by
  rcases h with rfl | rfl <;>
  exact ⟨keyReady_of (by decide +kernel) (by unfold Slice.readable; decide +kernel) (by unfold inScratch; decide +kernel),
    by decide +kernel, released_members (by decide +kernel) (released_of (by decide +kernel)),
    some_of (by decide +kernel), by decide +kernel, by decide +kernel⟩

/-! ## Launches, messages, copies -/

/-- s8 = 64, s12 = 0, s13 = 0, s14 as given. -/
def tSend (len dest : Word) : State :=
  { tWith (fun x => { x with s := [(8, some 64), (12, some len), (14, some dest)] }) with podcfg := 0x0001000100000000 }

theorem onceReady_of {s : State} {rs : List Nat} (h : s.cur ∈ s.members s.cur) (h1 : (s.sl (leadOf s)).readable rs) : OnceReady s rs :=
  ⟨h, h1⟩

theorem witness_LaunchHandsOver (param : Bool) : let s := tSend 0 0
    OnceReady s ((8 : BitVec 6).toNat :: if param then [(12 : BitVec 6).toNat, (12 : BitVec 6).toNat + 1] else []) ∧
    inScratch s (leadOf s) ((s.sl (leadOf s)).sVal 8) 128 64 ∧ clean s (spKey (leadOf s) 64) 128 ∧ s.gridsOf 0 < 1024 ∧
    s.tokenFull (Header.ofBytes (s.bytes (spKey (leadOf s) 64) 128)).token = false := by
  cases param <;>
  exact ⟨onceReady_of (by decide) (by unfold Slice.readable; decide), by unfold inScratch; decide, clean_of rfl _ _, by decide,
    by decide +kernel⟩

/-- Too long, of the greatest length, to a peer that no link reaches, to this package itself; a rendezvous has a handle. -/
theorem witness_SendResult (len dest : Word) (h : (len = 0x80000000 ∨ len = 0x7FFFFFFF ∨ len = 65536) ∧ (dest = 0 ∨ dest = 16)) :
    let s := tSend len dest
    OnceReady s [8, 9, 12, 13, 14] ∧ s.tokenFull 7 = false ∧ s.sends = [] ∧ (s.nextHandle (dieOfCore (coreOfSlice (leadOf s)))).isSome ∧
    s.peerReachable 0 = true ∧ s.peerReachable 16 = false ∧ (s.sl (leadOf s)).sVal 12 = len ∧ (s.sl (leadOf s)).sVal 14 = dest := by
  rcases h with ⟨rfl | rfl | rfl, rfl | rfl⟩ <;>
  and_intros <;> first | decide | exact onceReady_of (by decide) (by unfold Slice.readable; decide)

/-- A tensor descriptor of one element at local address 0, and a receive block of zeros at 64 that names it and matches any message. -/
def tDesc : List Byte := natLe 8 0 ++ natLe 16 0x00000001000000010000000100000001 ++ natLe 24 0 ++ natLe 8 0x0001000100010001 ++ natLe 8 0
def tRecv : State := (tSend 0 0).putMem (coreKey 0 0) tDesc
def tMsg (matched : Bool) : Recv :=
  { id := 9, part := 0, job := 0, die := 0, handle := 0, team := 0, teamIndex := 0, tok := some 2, cq := false, bar := false
    block := List.replicate 64 0, desc := [], posted := !matched, code := 0, len := 64, mtag := 0, msrc := 0, rdv := false
    sender := 0, senderDie := 0, rdvHandle := 0, landed := 32, early := [], pulls := [], nextPull := 0, endSeen := false, writes := 0
    held := [], heldEnd := none, unfound := false, spill := none, wft := none }
def tUnexpected : Unexpected :=
  { id := 3, part := 0, job := 0, die := 0, srcKey := 5, tag := 6, len := 0, rdv := false, rdvHandle := 0, slot := 0, pool := 0
    room := 0, landed := 0, gone := false }

theorem witness_RPOST : OnceReady tRecv [8] ∧ tRecv.tokenFull 7 = false ∧
    (∀ e ∈ postSpans (tRecv.bytes (spKey 0 64) 64) 64 true true, inScratch tRecv 0 e.1 e.2 e.2) ∧ tRecv.poisoned = [] ∧
    (blockClear (tRecv.bytes (spKey 0 64) 64) && tensorOk (tRecv.bytes (spKey 0 (fieldW (tRecv.bytes (spKey 0 64) 64) 0x18)) 64)) = true ∧
    postedOn tRecv 0 < 4096 ∧ oldestMatch tRecv 0 0 0 (tRecv.bytes (spKey 0 64) 64) = none ∧
    oldestMatch { tRecv with unexpected := [tUnexpected] } 0 0 0 (tRecv.bytes (spKey 0 64) 64) = some tUnexpected ∧
    tRecv.wftUsed 0 < 4096 := by
  and_intros <;> first | decide +kernel | (unfold inScratch; decide +kernel) | exact onceReady_of (by decide +kernel) (by unfold Slice.readable; decide +kernel)

/-- A block whose descriptor is not sound, and a die without room for one more. -/
theorem witness_RPOST_refused : (let s := tSend 0 0
     OnceReady s [8] ∧ (∀ e ∈ postSpans (s.bytes (spKey 0 64) 64) 64 true true, inScratch s 0 e.1 e.2 e.2) ∧
      (blockClear (s.bytes (spKey 0 64) 64) && tensorOk (s.bytes (spKey 0 0) 64)) = false) ∧
    (let s := { tRecv with recvs := List.replicate 4096 (tMsg false) }
     OnceReady s [8] ∧ s.postRoom 0 0 0 = none) :=
  ⟨⟨onceReady_of (by decide +kernel) (by unfold Slice.readable; decide +kernel), by unfold inScratch; decide +kernel, by decide +kernel⟩,
    onceReady_of (by decide +kernel) (by unfold Slice.readable; decide +kernel), by decide +kernel⟩

theorem witness_RCANCEL_RPROBE : let s := tSend 0 0
    OnceReady s [12] ∧ (∀ r ∈ s.recvs, ¬(r.team = 0 ∧ r.handle = 0)) ∧
    (({ s with recvs := [tMsg false] } : State).recvs.find? (fun q => decide (q.team = 0 ∧ q.handle = 0)) = some (tMsg false) ∧
      (tMsg false).posted = true) ∧
    (({ s with recvs := [tMsg true] } : State).recvs.find? (fun q => decide (q.team = 0 ∧ q.handle = 0)) = some (tMsg true) ∧
      (tMsg true).posted = false) ∧
    OnceReady s [8] ∧ (60 : BitVec 6).toNat % 4 = 0 ∧ inScratch s (leadOf s) ((s.sl (leadOf s)).sVal 8) 64 64 ∧ clean s (spKey (leadOf s) 64) 24 :=
  ⟨onceReady_of (by decide) (by unfold Slice.readable; decide), by decide, by decide, by decide,
    onceReady_of (by decide) (by unfold Slice.readable; decide), by decide, by unfold inScratch; decide, clean_of rfl _ _⟩

/-- A packet of the job that is current, for its die 0, first in its stream. -/
def tPkt (cls : BitVec 4) (addr : BitVec 42) (payload : List Byte) : Packet :=
  { dstPeer := 0, dstDie := 0, srcPeer := 1, srcDie := 0, cls := cls, det := false, so := false, gen := 3, job := 7, seq := 0
    txid := 4, tag := 0, stat := 0, op := 0, addr := addr, dline := 0, payload := payload }
def tIn (pkt : Packet) : State := { tJobState with inbox := [pkt] }

/-- A receive area on die 0, entry 0 of the partition's directory being the job's. -/
def tArea (pkt : Packet) : State :=
  ({ tIn pkt with dies := [(0, { Die.reset with rxcfg := [(0, BitVec.ofNat 64 (24 * 2 ^ 58))] })] }.modPt 0
    (fun x => { x with jobdirUsed := 0x1001 })).putMem (hbmKey 0 0x1000) [7, 0]

theorem witness_MessageEvents_arrival : let pkt := tPkt 1 0 (List.replicate 8 0)
    (tIn pkt).isFirst pkt = true ∧ (tIn pkt).fate pkt = .deliver 0 ∧ (pkt.addr.extractLsb' 0 26).toNat = 0 ∧
    (let s := { tArea pkt with recvs := [{ tMsg false with job := 7 }] }
     s.postedFor 0 0 7 0 (0#25 ++ (0#16 ++ (0#3 ++ 1#20))) = some { tMsg false with job := 7 } ∧ (s.rxArea 0 0 7).isSome ∧
      s.isFirst pkt = true ∧ s.fate pkt = .deliver 0) ∧
    (tArea pkt).isFirst pkt = true ∧ (tArea pkt).fate pkt = .deliver 0 ∧ (tArea pkt).postedFor 0 0 7 0 (0#25 ++ (0#16 ++ (0#3 ++ 1#20))) = none ∧
    (∃ area, (tArea pkt).rxArea 0 0 7 = some area ∧ ((tArea pkt).poolPlace 0 0 7 area.2 64).isSome = true) ∧
    (lowestSlot (((tArea pkt).unexpectedOf 0 0 7).map (fun u => u.slot)) 65536).isSome = true := by
  and_intros <;> decide +kernel

theorem witness_MessageEvents_rest :
    (let pkt := tPkt 1 32 [0]
     let r := { tMsg true with job := 7, msrc := 0#25 ++ (0#16 ++ (0#3 ++ 1#20)) }
     let s := { tIn pkt with recvs := [r] }
     s.isFirst pkt = true ∧ s.fate pkt = .deliver 0 ∧ (pkt.addr.extractLsb' 0 26).toNat = 32 ∧
      s.recvs.find? (fun r => !r.posted && !r.rdv && decide (r.die = 0 ∧ r.part = 0 ∧ r.job = 7 ∧
        r.msrc = 0#25 ++ (0#16 ++ (0#3 ++ 1#20)) ∧ r.landed = 32 ∧ 32 < r.len)) = some r) ∧
    (let pkt := tPkt 7 0 []
     let x : SendOp := ⟨6, 0, 0, 0, 7, 3, 0, 2, 0, 64, 0, 1, 0, true, 0, [], false, true, 0⟩
     let s := { tIn pkt with sends := [x] }
     s.isFirst pkt = true ∧ s.fate pkt = .deliver 0 ∧ s.sendFor pkt = some x ∧
      s.sends.find? (fun y => decide (y.id = 6)) = some x ∧ x.packets = [] ∧ x.waits = false ∧ x.endAnswered = true ∧ x.team < 2 ^ 24) ∧
    (let pkt := tPkt 8 0 []
     let r : PeerReq := ⟨4, 9, 2, 0, ⟨0, 0, 1, 0, 2⟩, 0, 0, false⟩
     let v := { tMsg true with landed := 0 }
     let s := { tIn pkt with recvs := [v], peerReqs := [r] }
     s.isFirst pkt = true ∧ pkt.cls = clsAns ∧ s.requestFor pkt = some r ∧ r.kind = 2 ∧ s.recvOf r.src = some v ∧
      s.teamGoes v.part v.team = true ∧ v.landed = 2048 * r.off) ∧
    (let r := { tMsg true with landed := 64 }
     let s := { tJobState with recvs := [r] }
     s.recvOf 9 = some r ∧ r.complete = true ∧ s.engineOn r.part = true ∧ r.team < 2 ^ 24) := by
  decide +kernel

/-- COPY of s4, s5 to s8, s9, of s12 bytes; the same to a multicast group that is held; COPYT.ld of the descriptor at 0. -/
def tCopyState (n : Word) : State :=
  (((tWith (fun x => { x with s := [(12, some n), (14, some 3)], cp := 62 })).modCl 0 (fun c => { c with groups := [(64, 3, [0], 1)] })).modTm 0 (fun t =>
    { t with header := { t.header with mcast := 64 } })).putMem (coreKey 0 0) tDesc

theorem witness_CopyIssue (n : Word) (hn : n = 0 ∨ n = 1) (mc : Bool) : ∃ f, copyForm (.copy mc false 6 4 8 12) = some f ∧
    f.idle ((tCopyState n).sl (leadOf (tCopyState n))) = decide (n = 0) ∧ CopyReady (tCopyState n) f := by
  refine ⟨_, rfl, ?_, ?_⟩
  · rcases hn with rfl | rfl <;> cases mc <;> decide +kernel
  · rcases hn with rfl | rfl <;> cases mc <;>
    exact ⟨⟨by decide +kernel, by unfold Slice.readable; decide +kernel⟩, by decide +kernel, by decide +kernel, by decide +kernel,
      by decide +kernel, fun e he => absurd he (by simp), trivial, fun e he => absurd he (by simp)⟩

theorem witness_CopyIssue_tensor : ∃ f, copyForm (.copytLd false false 6 4 8 16) = some f ∧ CopyReady (tCopyState 1) f :=
  ⟨_, rfl, ⟨by decide +kernel, by unfold Slice.readable; decide +kernel⟩, by decide +kernel, by decide +kernel, by decide +kernel,
    (fun h => nomatch h), by unfold inScratch; decide +kernel, trivial, fun _ _ => clean_of (by decide +kernel) _ _⟩

/-- Group 3, which s14 names, of the table at 64 is held by the cluster, and a team with no table. -/
theorem witness_CopyIssue_group : ((tCopyState 1).sl (leadOf (tCopyState 1))).sVal 14 = 3 ∧
    ((tCopyState 1).cl (clusterOfCore (coreOfSlice (tCopyState 1).cur))).groups.find? (fun e =>
      decide (e.1 = ((tCopyState 1).tm 0).header.mcast ∧ e.2.1 = 3)) = some (64, 3, [0], 1) ∧
    ((tCopyState 1).tm 0).header.mcast ≠ 0 ∧ (tBase.tm 0).header.mcast = 0 := by
  decide +kernel

/-- A copy of 3 bytes within the job's own core, at byte n. -/
def tCopy (n : Nat) (state : CopyState) (bar : Option Word) : Copy :=
  { id := 5, team := 0, lead := 0, members := [0], token := 6, granule := 0, opers := [], bar := bar
    kind := .copy false 0x4000000000000202 0x4000000000000100 3, group := none, mcKey := none, cursor := n, denied := false
    state := state, saved := [], piece := 0, part := 0, rows := [], asked := none, ans := none, got := [] }
def tCopies (c : Copy) : State := { tJobState with copies := [c] }

theorem witness_CopyEvents_life :
    (let c := tCopy 0 .queued none
     let s := tCopies c
     s.copyOf c.id = some c ∧ (∀ x ∈ s.copies, x.core = c.core → x.state = .queued → c.id ≤ x.id) ∧
      (s.copies.filter (fun x => decide (x.cluster = c.cluster ∧ x.state = .running))).length < 32 ∧ s.copyGoes c = true ∧
      (let steps (x : Copy) : Nat := (x.core % 256 + 256 - (s.cl c.cluster).turn) % 256
       ∀ x ∈ s.copies, x.cluster = c.cluster → x.state = .queued → steps c ≤ steps x)) ∧
    (let c := tCopy 3 .running none
     (tCopies c).copyOf c.id = some c ∧ c.kind.badDesc = false ∧ c.kind.total ≤ c.cursor) ∧
    (let c := tCopy 0 (.paused 2 5 0) none
     let s := tCopies c
     s.copyOf c.id = some c ∧ s.pausedCopy c.cluster 2 = some c ∧ ∀ x ∈ s.copies, x.id = c.id) := by
  decide +kernel

/-- An element that the job's pages do not map, and a descriptor that is not sound: the copy pauses. -/
theorem witness_CopyEvents_pause :
    (let c := { tCopy 0 .running none with kind := .copy false 0x4000010000000000 0x4000000000000100 3 }
     let s := tCopies c
     s.copyGoes c = true ∧ (∃ e, s.pauseNow c = some e ∧ true = true)) ∧
    (let c := { tCopy 0 .running none with kind := .tensor false false 0 [0, 0, 0, 0] [] }
     c.kind.badDesc = true ∧ (tCopies c).copyGoes c = true) :=
  ⟨⟨by decide +kernel, some_of (by decide +kernel)⟩, by decide +kernel, by decide +kernel⟩

theorem witness_CopyEvents_credit (bar : Option Word) (hb : bar = none ∨ bar = some 0x300) : let c := tCopy 1 .running bar
    let s := tCopies c
    s.copyOf c.id = some c ∧ s.copyGoes c = true ∧ c.cursor + 1 < 3 ∧ c.piece = 0 ∧ c.part = 0 ∧ c.got = [] ∧ c.pieceLen = 1 ∧ s.withheld 0 = false ∧ qosRate (aget 0 (s.di 0).copyqos 0) = 0 ∧
    (let u := s.checkedTag 0 3 0x4000000000000101
     let v := u.checkedTag 0 4 0x4000000000000203
     s.resolve (s.teamAsker 0) 0x4000000000000101 true false false = .key (coreKey 0 0x101) ∧
      u.resolve (u.teamAsker 0) 0x4000000000000203 false true false = .key (coreKey 0 0x203) ∧ u.poisoned = [] ∧ v.poisoned = [] ∧ v.cores = [] ∧
      (coreKey 0 0x203 < coreKey 0 0x300)) := by
  rcases hb with rfl | rfl <;> decide +kernel

theorem witness_CopyEvents_refill : (afind tWalk.dies 0).isSome ∧ ((tWalk.di 0).refillUs ≠ ({ tWalk with time := 65536000 } : State).ns / 1000) := by
  decide +kernel

/-! ## Tiles, matrix work, waits -/

/-- Tiles 0 and 1 hold 2 by 2 elements of F16, s8 = 128, s12 and s16 as given; class counters one below full. -/
def tMat (b c : Word) : State :=
  (tWith (fun x => { x with s := [(8, some 128), (12, some b), (16, some c)], tl := 62 })).modTm 0 (fun t =>
    { t with md := [(0, 0x80000829), (1, 0x80000829)] })

theorem witness_TileInstructions : OnceReady (tMat 0 0) [8, 12] ∧ (1 : BitVec 6).toNat < ((tMat 0 0).tm 0).tiles.length ∧
    (afind (tMat 0 0).teams ((tMat 0 0).sl (leadOf (tMat 0 0))).team).isSome ∧ OnceReady (tMat 0 0) [] :=
  ⟨onceReady_of (by decide) (by unfold Slice.readable; decide), by decide, by decide, onceReady_of (by decide) (by unfold Slice.readable; decide)⟩

theorem longOnce_of {s : State} {i : Instr} (h : s.cur ∈ s.members s.cur) (h1 : (s.sl (leadOf s)).readable (scalarSrcs i))
    (h2 : constsOf i = []) : LongOnce s ((s.charge i (s.members s.cur)).issued (s.members s.cur)) i [] := ⟨h, h1, fetched_none h2⟩

/-- Base s8, stride s12, tile 0. -/
def tTile : Long := { tLongOf .b32 (tS 8) (tS 12) 0 with vd := 0 }

theorem witness_TileInstructions_moves (i : Instr) (hi : i = .tld tTile ∨ i = .tst tTile ∨ i = .ttrans tTile) : let s := tMat 4 0
    (∃ kind, moveForm i = some (tTile, kind) ∧
      ∀ r, r < (rowsMoved kind 0x80000829).1 → inScratch s 0 (rowAt 128 4 r) (rowsMoved kind 0x80000829).2 1) ∧
    LongOnce s ((s.charge i (s.members s.cur)).issued (s.members s.cur)) i [] ∧ actingIn s i = [0] ∧ (s.sl 0).tl < 63 ∧
    (s.tm 0).desc 0 = 0x80000829 ∧ operandAt i s [] 0 = 128 ∧ operandAt i s [] 1 = 4 := by
  rcases hi with rfl | rfl | rfl <;>
  exact ⟨⟨_, rfl, by unfold inScratch; decide⟩, longOnce_of (by decide) (by unfold Slice.readable; decide) rfl, by decide, by decide,
    by decide, by decide, by decide⟩

/-- A product of tiles 0 and 1 into s8, a fill, a ganged product with the core whose number partner 1's byte names. -/
def tProd : Long := { tLongOf .b32 (tS 8) o0 0x10 with vd := 0 }
def tFill : Long := { tLongOf .b32 (tS 8) (tS 12) 0x1F with vd := 0 }
def tGanged : Long := { tLongOf .b32 (tS 8) (tS 12) 0x10 with vd := 0, g2 := .cd (tS 16) o0 0 }

theorem witness_MatrixPosting_idle : let s := (tMat 0 0).modSl 0 (fun x => { x with active := 0 })
    LongOnce s ((s.charge (.mma tProd) (s.members s.cur)).issued (s.members s.cur)) (.mma tProd) [] ∧ actingIn s (.mma tProd) = [] ∧
    (productForm (.mma tProd)).isSome :=
  ⟨longOnce_of (by decide) (by unfold Slice.readable; decide) rfl, by decide, rfl⟩

theorem witness_MatrixPosting_products : let s := tMat 0 0
    let tm := s.tm (s.sl (leadOf s)).team
    productForm (.mma tProd) = some (tProd, false) ∧
    LongOnce s ((s.charge (.mma tProd) (s.members s.cur)).issued (s.members s.cur)) (.mma tProd) [] ∧ actingIn s (.mma tProd) ≠ [] ∧
    s.fifoFull (coreOfSlice s.cur) = false ∧ tm.pairCheck (some 0) 1 false = none ∧
    (numbersOf s (fun x => x.lanesOn 0 false)).filter (fun r => decide (r < ((tm.desc 0).extractLsb' 4 6).toNat)) = [0, 1] ∧
    tm.accCheck (operandAt (.mma tProd) s [] 0) [0, 1] 2 = none ∧
    LongOnce s ((s.charge (.afill tFill) (s.members s.cur)).issued (s.members s.cur)) (.afill tFill) [] ∧
    tm.accCheck (operandAt (.afill tFill) s [] 0) (numbersOf s (fun x => x.lanesOn 0 false)) 32 = none := by
  and_intros <;> first | rfl | decide | exact longOnce_of (by decide) (by unfold Slice.readable; decide) rfl

theorem witness_MatrixPosting_ganged (i : Instr) (hi : i = .mmag tGanged ∨
      i = .mmagNolocal { tGanged with xw := 1, a := o0, ext8 := 0x10 }) : let s := tMat 0x01000005 4080
    let tm := s.tm (s.sl (leadOf s)).team
    LongOnce s ((s.charge i (s.members s.cur)).issued (s.members s.cur)) i [] ∧ actingIn s i ≠ [] ∧ s.fifoFull (coreOfSlice s.cur) = false ∧
    s.tokenFull 0 = false ∧ tm.pairCheck (some 0) 1 false = none ∧ tm.pairCheck none 1 false = none ∧
    tm.accCheck 128 [0, 1] 2 = none ∧ partnersIn (clusterOfCore (coreOfSlice s.cur)) (operandAt i s [] 1) = [(1, 5)] ∧
    inScratch s (leadOf s) (operandAt i s [] 2) 16 16 := by
  rcases hi with rfl | rfl <;>
  and_intros <;> first | decide | exact longOnce_of (by decide) (by unfold Slice.readable; decide) rfl

/-- An open set with an entry and an empty one; a core without a window, with the team's own, with another team's. -/
theorem witness_MatrixPosting_rest (w : Option MmagWindow) (hw : w = none ∨ w = some ⟨0, 0, 0, 0, []⟩ ∨ w = some ⟨1, 0, 0, 0, []⟩) :
    let s := { tMat 1 4080 with cores := [(0, { Core.reset with win := w, skip := 1 })] }
    OnceReady s [16, 12] ∧ s.tokenFull 7 = false ∧ inScratch s (leadOf s) ((s.sl (leadOf s)).sVal 16) 16 16 ∧
    ((s.modTm 0 (fun t => { t with openSet := [4] })).tm 0).openSet ≠ [] ∧ (s.tm 0).openSet = [] ∧ (s.co (coreOfSlice (leadOf s))).win = w ∧
    (s.ownWindow (coreOfSlice (leadOf s)) 0 = decide (w = some ⟨0, 0, 0, 0, []⟩)) ∧ s.partsOpen 0 = false ∧
    ({ s with entries := [⟨4, 0, .gangPart 9 1 false 0 0 0 [], 0, [], 1, false, [], [], none, 0⟩] } : State).partsOpen 0 = true := by
  rcases hw with rfl | rfl | rfl <;>
  and_intros <;> first | decide | exact onceReady_of (by decide) (by unfold Slice.readable; decide)

/-- One move of two rows of two F16 elements, and an entry in the matrix FIFO. -/
def tMove (kind : MoveKind) : TileMove := ⟨3, 0, kind, 128, 4, 0x80000829, 1, [0], 1⟩
def tEntry (op : MatOp) (started : Bool) (result : Assoc Word) : MatEntry := ⟨4, 0, op, 128, [0, 1], 1, started, result, [], none, 0⟩

theorem witness_MatrixEvents_moves (kind : MoveKind) : let m := tMove kind
    let s := { tJobState with moves := [m] }
    s.moves.find? (fun x => decide (x.id = m.id)) = some m ∧ s.moveWaits m = false ∧ tileValid m.desc = true ∧
    (∀ r, r < (rowsMoved m.kind m.desc).1 → (rowAt m.base m.stride r).toNat + (rowsMoved m.kind m.desc).2 ≤ 2 ^ 19) ∧
    (∀ r, r < (rowsMoved m.kind m.desc).1 → ∀ p, p < (rowsMoved m.kind m.desc).1 → r < p →
      (rowAt m.base m.stride r).toNat + (rowsMoved m.kind m.desc).2 ≤ (rowAt m.base m.stride p).toNat) ∧
    s.poisoned = [] ∧ coreOfTeam m.team < 4096 ∧ m.tile < 16 := by
  cases kind <;> refine ⟨by decide, by decide, by decide, by decide, ?_, by decide, by decide, by decide⟩ <;> decide

theorem witness_MatrixEvents_entries (op : MatOp) (h : op = .fill 7 32 ∨ op = .mma false 0x80000829 0x80000829 0 1 [] []) :
    let e := tEntry op false []
    let s := { tJobState with entries := [e] }
    s.entries.find? (fun x => decide (x.id = e.id)) = some e ∧ s.entryReady e = true ∧ s.withheld (s.tm e.team).part = false ∧
    s.engineOn (s.tm e.team).part = true ∧ e.rows.Nodup ∧
    (let x := tEntry op true [(0, 1), (33, 2)]
     let u := { tJobState with entries := [x] }
     x.started = true ∧ (∀ y ∈ u.entries, coreOfTeam y.team = coreOfTeam x.team → x.seq ≤ y.seq) ∧
      (∀ b ∈ u.batches, x.id ∉ b.members ∧ b.members ≠ []) ∧ (x.result.map Prod.fst).Nodup ∧ x.dead = [] ∧ x.acc.toNat % 4 = 0 ∧
      u.poisoned = []) := by
  rcases h with rfl | rfl <;> decide

theorem witness_MatrixEvents_batch : let e := tEntry (.fill 7 32) true []
    let b : Batch := ⟨8, 0, 2, [4], none⟩
    let s := { tJobState with entries := [e], batches := [b] }
    s.entries.find? (fun x => decide (x.id = e.id)) = some e ∧ s.batches = [b] ∧ b.members = [e.id] := by
  decide

/-- A ganged operation of team 0 with core 1 as partner 1, whose team 16 has a window or none. -/
def tGang (status : Assoc (BitVec 2)) : GangOp :=
  ⟨9, 0, 2, 0x300, false, [(1, 1)], 0x80000829, [], [], [], true, status, [], false, 1, [], 4, 0⟩
def tMate (w : Option MmagWindow) (md : Assoc DWord) : State :=
  { tJobState with teams := [(0, tTeam), (16, { tTeam with slices := [], job := 0, md := md })]
                   cores := [(1, { Core.reset with win := w, skip := 1 })], gangOps := [tGang []] }

theorem witness_MatrixEvents_parts (w : Option MmagWindow) (hw : w = none ∨ w = some ⟨16, 0, 128, 0, [0]⟩ ∨ w = some ⟨16, 9, 128, 0, [0]⟩) :
    let s := tMate w [(0, 0x80000829)]
    s.gangOps.find? (fun x => decide (x.id = 9)) = some (tGang []) ∧ (tGang []).partners.find? (fun p => decide (p.1 = 1)) = some (1, 1) ∧
    (tGang []).sent = true ∧ afind (tGang []).status 1 = none ∧ (s.co 1).win = w ∧ s.entries = [] ∧ s.fifoFull 1 = false ∧
    (s.tm 16).part = (s.tm 0).part := by
  rcases hw with rfl | rfl | rfl <;> decide

/-- The checks of a part: rows to add to, no rows, and a tile without a descriptor. -/
theorem witness_MatrixEvents_checks : (tTeam.desc 0 = 0) ∧
    (∃ e, (tTeam.partCheck ⟨16, 0, 128, 0, [0]⟩ (tGang [])) = .error e) ∧
    ({ tTeam with md := [(0, 0x80000829)] } : Team).partCheck ⟨16, 0, 128, 0, [0]⟩ (tGang []) = .ok [0] ∧
    ({ tTeam with md := [(0, 0x80000829)] } : Team).partCheck ⟨16, 0, 128, 0, [5]⟩ (tGang []) = .ok [] :=
  ⟨by decide, ⟨_, rfl⟩, rfl, rfl⟩

theorem witness_MatrixEvents_rest :
    (let j : ShadowJob := ⟨0, 0, 0, 0, 0, 0, false, 0, 0, [], [], [], [], [], []⟩
     (({ tBase with cores := [(0, { Core.reset with shadow := some j })] } : State).co 0).shadow = some j) ∧
    (let s := { tJobState with gangOps := [tGang [(1, 1)]] }
     s.gangOps.find? (fun x => decide (x.id = 9)) = some (tGang [(1, 1)]) ∧ (∀ e ∈ s.entries, e.id ≠ (tGang [(1, 1)]).entry) ∧
      (∀ p ∈ (tGang [(1, 1)]).partners, (afind (tGang [(1, 1)]).status p.1).isSome) ∧ s.cores = []) ∧
    (let s := { tWith (fun x => { x with wait := some (.mmagokClose 4 0) }) with
        cores := [(0, { Core.reset with win := some ⟨0, 0, 0, 0, []⟩ })] }
     (s.sl 0).wait = some (.mmagokClose 4 0) ∧ s.partsOpen (s.sl 0).team = false ∧ s.lives 0 = true ∧
      coreOfSlice 0 = coreOfTeam (s.sl 0).team ∧ s.ownWindow (coreOfSlice 0) (s.sl 0).team = true) := by
  decide

/-- Waits whose condition holds, one after another. -/
def tWaits (w : Wait) : State := tWith (fun x => { x with wait := some w })

theorem witness_WaitEnds : (tWaits (.waitc 0 0 0 0)).lives 0 = true ∧ withinLimits ((tWaits (.waitc 0 0 0 0)).sl 0) 0 0 0 0 ∧
    (tWaits (.waitt 0xFF)).lives 0 = true ∧ tokensDone (tWaits (.waitt 0xFF)) 0 0xFF ∧ (tWaits (.yieldt 0xFF 0)).lives 0 = true ∧
    (tWaits (.fence 3)).lives 0 = true ∧ Released (tWaits (.fence 3)) 0 ∧
    (barrierAt (tWaits (.barwait 0 true 5 (some 1) 0 0)) (spKey 0 0)).phase ≠ true :=
  ⟨by decide, by unfold withinLimits; decide, by decide, by unfold tokensDone; decide, by decide, by decide, released_of (by decide),
    by decide +kernel⟩

theorem witness_WaitEnds_tsync : let s := (tWaits (.tsync 5 (some 1) 0 0)).modTm 0 (fun t => { t with arrived := [0] })
    s.teamRuns 0 = true ∧ (s.tm 0).slices.Nodup ∧ (∃ k ∈ (s.tm 0).slices, (s.sl k).done = false) ∧
    (∀ k ∈ (s.tm 0).slices, (s.sl k).done = false → k ∈ (s.tm 0).arrived) ∧ (s.sl 0).wait = some (.tsync 5 (some 1) 0 0) := by
  decide

theorem witness_BetweenInstructions_compaction : let s := (tPair id).modSl 1 (fun x => { x with gang := aloneKey 1 })
    s.candidates 0 0x2000 = [0, 1] ∧ (s.candidates 0 0x2000).Nodup ∧ (∀ k ∈ s.candidates 0 0x2000, s.present k) ∧
    2 ≤ (((s.candidates 0 0x2000).map (fun k => (s.sl k).gang)).dedup).length ∧ s.teamRuns 0 = true := by
  decide

theorem witness_BetweenInstructions_regang : let s := (tWaits .regang).modTm 0 (fun t => { t with rgDue := [(0, 0)] })
    afind (s.tm 0).rgDue 0 = some 0 ∧ 0 ≤ s.cycle ∧ s.teamRuns 0 = true ∧ (∃ k ∈ s.launchGang 0 0, (s.sl k).wait = some .regang) := by
  decide

theorem witness_BetweenInstructions_fairness (st : List StackEntry) (h : st = [] ∨ st = [parked 0x3000 1]) :
    let s := (tWith (fun x => { x with stack := st })).modTm 0 (fun t => { t with header := { t.header with ctl := 0x1000 } })
    s.present 0 ∧ s.fairDue 0 = true ∧ (s.sl 0).done = false ∧ (s.sl 0).wait = none ∧ s.teamRuns (s.sl 0).team = true ∧
    (∀ j ∈ s.members 0, (s.sl j).midway = false) := by
  rcases h with rfl | rfl <;> decide

theorem witness_BetweenInstructions_traps :
    (let s := tWith (fun x => { x with boundary := [⟨0x0E, 0, 0xF, 0, 0, 0⟩] })
     CanTrap s 0 ∧ (s.sl 0).boundary = [⟨0x0E, 0, 0xF, 0, 0, 0⟩] ∧
      s.permitsUsed 0 + ((s.members 0).filter (fun j => (s.sl j).atBoundary)).length ≤ 8 ∧ s.teamRuns 0 = true) ∧
    (let s := tWaits (.backoff 0 (some ⟨0x0E, 0, 0xF, 0, 0, 0⟩) none)
     s.present 0 ∧ (s.sl 0).wait = some (.backoff 0 (some ⟨0x0E, 0, 0xF, 0, 0, 0⟩) none) ∧ 0 ≤ s.cycle ∧ s.teamRuns 0 = true ∧
      (s.sl 0).frame = none ∧ s.permitsUsed (coreOfSlice 0) < 8 ∧ (s.tm (s.sl 0).team).trapvec ≠ 0) ∧
    (let s := tFull.modSl 0 (fun x => { x with wait := some (.backoff 0 (some ⟨0x0E, 0, 0xF, 0, 0, 0⟩) none) })
     s.present 0 ∧ (s.sl 0).frame = none ∧ 8 ≤ s.permitsUsed (coreOfSlice 0) ∧ s.teamRuns 0 = true) :=
  ⟨⟨canTrap_of (by decide), by decide, by decide⟩, by decide, by decide⟩

/-- A wait on the word, or the lock, at local offset 0: looked at again by its own timer, or registered. -/
def tKeyWait (lock : Bool) (entry : Option Nat) (comparand : Word) : KeyWait :=
  ⟨true, localKey 0 0, 0, comparand, 5, 20, lock, entry, 0, 16, 0, 0⟩
def tKeyState (w : KeyWait) : State := (tWaits (.key w 0)).putMem (coreKey 0 0) []

theorem witness_KeyEvents_again (lock : Bool) (entry : Option Nat) (h : entry = none ∨ entry = some 1) (c : Word)
    (hc : c = 0 ∨ c = 1) : let w := tKeyWait lock entry c
    let s := tKeyState w
    s.present 0 ∧ s.lives 0 = true ∧ (s.sl 0).wait = some (.key w 0) ∧ (s.tm (s.sl 0).team).slices.Nodup ∧
    (∃ x, waitPlace s 0 w = some x ∧ decide (x.1 = coreKey 0 0 ∧ x.2.poisoned = []) = true) ∧
    (if w.entry = none then (if w.next ≤ s.cycle then some (Instr.unregisteredWaitRecheck 0) else none)
      else some (if w.lock then .lockacqRetry 0 else .waitvReevaluate 0)) ≠ none ∧ inWait s 0 0 := by
  rcases h with rfl | rfl <;> rcases hc with rfl | rfl <;> cases lock <;>
  and_intros <;> first | decide +kernel | exact some_of (by decide +kernel) | exact ⟨_, rfl⟩

theorem witness_KeyEvents_timeout : let w := tKeyWait false none 1
    let s := tKeyState w
    s.lives 0 = true ∧ (s.sl 0).wait = some (.key w 0) ∧ w.till ≤ s.ns ∧ w.entry = none ∧
    (let w := tKeyWait true (some 1) 1
     let s := { tKeyState w with wft := [⟨2, 0, 0, localKey 0 0, 2 ^ 52, 1, 0, 0, 1, 0, 0, none, 0, false⟩] }
     (s.sl 0).wait = some (.key w 0) ∧ w.till ≤ s.ns ∧ s.homeOf 0 w.key = .here 0 (localKey 0 0) ∧
      2 ^ 52 ∈ s.holders 0 0 (localKey 0 0)) := by
  decide +kernel

/-- A walk that was cut, one that found nothing, and one that found a cycle for a slice that waits on a posted receive. -/
def tWalked (w : Walk) : State :=
  { tWaits (.waitt 4) with walks := [w], wft := [⟨1, 0, 0, localKey 0 0, 0, 3, 0, 0, 1, 0, 0, none, 0, false⟩], recvs := [{ tMsg false with wft := some 1 }] }

theorem witness_KeyEvents_walks (w : Walk) (h : w = ⟨0, 0, 0, [], [], 0, [], [], [], true⟩ ∨
      w = ⟨0, 0, 0, [], [], 0, [], [], [], false⟩ ∨ w = ⟨0, 0, 0, [], [], 0, [], [], [(localKey 0 0, 5)], false⟩) :
    let s := tWalked w
    s.walks.find? (fun x => decide (x.slice = 0)) = some w ∧ w.path = [] ∧ s.teamRuns (s.sl 0).team = true ∧ (s.sl 0).wait = some (.waitt 4) ∧
    s.sliceObjs (s.sl 0).team (s.sl 0) ≠ [] ∧ s.present 0 ∧ (s.sl 0).frame = none ∧ s.permitsUsed (coreOfSlice 0) < 8 ∧
    (s.tm (s.sl 0).team).trapvec ≠ 0 := by
  rcases h with rfl | rfl | rfl <;> decide +kernel

theorem witness_KeyEvents_rest : (tJobState.pt 0).job ≠ none ∧ (tBase.pt 0).job = none ∧
    (let s := (tTeamWith (fun t => { t with wdCount := 2 ^ 32 })).modPt 0 (fun x => { x with partcfg := 0x2000000000 })
     (s.pt (s.tm 0).part).wdThreshold = some (2 ^ 32) ∧ (afind s.teams 0).isSome ∧ 2 ^ 32 ≤ (s.tm 0).wdCount ∧ s.teamRuns 0 = true ∧
      ((s.tm 0).slices.filter (fun k => !(s.sl k).done)).find? (fun k => !(s.sl k).trapMode) = some 0 ∧ s.present 0) := by
  decide

/-! ## The distributor, time -/

/-- A launch of a slot: without a header, ill formed, cyclic, sound. -/
def tLaunch (h : Option Header) : State := { tJobState with launches := [⟨3, 0, 5, .slot, h⟩] }

/-- One dependence vector of entries d; field 1 has width 2, as has field 0. -/
def tDepHeader (d : DWord) : Header := { placeHeader with widths := 0x102, depw := [d, 0, 0, 0], ctl := 1 }

theorem witness_DistributorEvents_launches :
    (tLaunch none).launches.find? (fun x => decide (x.id = 3)) = some ⟨3, 0, 5, .slot, none⟩ ∧
    (tLaunch none).illFormed 0 { placeHeader with ctl := 0x38 } = true ∧
    ((tLaunch none).illFormed 0 (tDepHeader 0xFF) = false ∧ (tDepHeader 0xFF).cyclic = true) ∧
    ((tLaunch none).illFormed 0 (tDepHeader 1) = false ∧ (tDepHeader 1).cyclic = false ∧ (tDepHeader 1).urgent = false) := by
  decide +kernel

theorem witness_DistributorEvents_slot : ((tBase.modPt 0 (fun x => { x with lsstat := 1 })).pt 0).lsstat.getLsbD 0 = true ∧
    (tBase.pt 0).lsstat.getLsbD 0 = false ∧ (tBase.pt 0).job = none ∧ (tJobState.pt 0).lsstat.getLsbD 0 = false ∧
    (tJobState.pt 0).job = some tJob := by
  decide

def tGrid : Grid := ⟨1, 0, 5, .root, placeHeader, 0, [], [], none⟩

theorem witness_DistributorEvents_place :
    let s := { tJobState.modPt 0 (fun x => { x with job := some tJob, grant := 1 }) with grids := [tGrid], foehn := 0 }
    s.partRuns 0 = true ∧ (s.pt 0).job.isSome = true ∧ s.waiting 0 = [] ++ .fresh tGrid 0 :: [] ∧ (s.cl (clusterOfCore 1)).reconnect = none ∧
      chosen s (eligibleFrom s 0 placeHeader) 0 1 := by
  refine ⟨by decide, by decide, by decide +kernel, by decide, by decide +kernel, by decide, ?_⟩
  intro j c hc hj
  have z : j = 0 := by
    have : j ≤ 0 := hj
    omega
  subst z
  have e : (eligibleFrom { tJobState.modPt 0 (fun x => { x with job := some tJob, grant := 1 }) with grids := [tGrid], foehn := 0 } 0
      placeHeader)[0]? = some 1 := by decide +kernel
  have hc0 : c = 1 := Option.some.inj (hc.symm.trans e)
  subst hc0
  exact ⟨Nat.le_refl _, fun h => absurd h (by decide)⟩

/-- The last team of a grid, or one of two; the grid launched by a token, or the root. -/
def tEnded : State := (tWith (fun x => { x with done := true })).modTm 0 (fun t => { t with grid := 5 })
def tDone (owner : GridOwner) (h : Header) : State := { tEnded with grids := [⟨1, 0, 5, owner, h, 0, [0], [], none⟩] }

theorem ended_finished : Finished tEnded 0 := by
  constructor <;> decide

theorem witness_DistributorEvents_retire (owner : GridOwner) (h : Header) :
    Finished (tDone owner h) 0 ∧
    (tDone owner h).grids.find? (fun x => decide (x.part = ((tDone owner h).tm 0).part ∧ x.number = ((tDone owner h).tm 0).grid)) =
      some ⟨1, 0, 5, owner, h, 0, [0], [], none⟩ :=
  ⟨⟨ended_finished.resident, ended_finished.runs, ended_finished.stays, ended_finished.slices, ended_finished.copies,
    ended_finished.moves, ended_finished.entries, ended_finished.ganged, ended_finished.batches, ended_finished.sends,
    ended_finished.receives, ended_finished.tokens⟩, rfl⟩

theorem witness_DistributorEvents_quantum :
    let u := tJobState.modPt 0 (fun x => { x with nextQuantum := BitVec.ofNat 64 (x.nextQuantum.toNat + 1000 * 2000) })
    tJobState.partRuns 0 = true ∧ (tJobState.pt 0).job.isSome = true ∧ (tJobState.pt 0).nextQuantum.toNat ≤ tJobState.ns ∧
    (∀ e ∈ u.teams, (u.tm e.1).part = 0 → (u.tm e.1).halting = false ∧ u.canRetire e.1 = false) ∧ u.waiting 0 = [] := by
  decide +kernel

theorem witness_DistributorEvents_gating :
    (tBase.teamsOn 0 ≠ [] ∧ (tBase.cl (clusterOfCore 0)).reconnect = none) ∧
    (let s := { tJobState with time := 65536 * 200000 }
     s.idleTimer (clusterOfCore 1) = some 100000 ∧ (s.co 1).gated = false ∧ s.teamsOn 1 = [] ∧ (s.co 1).idleSince.toNat + 100000 ≤ s.ns) := by
  decide +kernel

/-- All cores of cluster 1 are gated. -/
def tAllGated : State :=
  { tJobState.modPt 0 (fun x => { x with partcfg := 0x8000000000010010 }) with
    cores := (List.range 256).map (fun i => (256 + i, { Core.reset with gated := true })) }

theorem witness_DistributorEvents_cluster : tAllGated.idleTimer 1 = some 100000 ∧ (tAllGated.cl 1).gated = false ∧
    (∀ i, i < 256 → (tAllGated.co (256 * 1 + i)).gated = true) ∧
    (∀ e ∈ tAllGated.teams, clusterOfCore (coreOfTeam e.1) ≠ 1) ∧ tAllGated.copies = [] ∧ tAllGated.gangOps = [] ∧ tAllGated.fars = [] := by
  refine ⟨by decide +kernel, by decide +kernel, ?_, by decide +kernel, rfl, rfl, rfl⟩
  decide +kernel

/-! ## A crowded cluster -/

/-- A team that takes all registers of its core; the one of core 0 may be swapped out. -/
def tBig (c : Nat) : Team :=
  { Team.absent with header := { placeHeader with shape := 0xFF, ctl := if c = 0 then 0x1000 else 0 }, tokens := [(0, ⟨1, 0, false⟩)] }

/-- Every core of cluster 0 is taken, and a team of a grid waits; 4 ms have passed. -/
def tCrowded : State := { State.reset with
  teams := (List.range 256).map (fun c => (16 * c, tBig c)), foehn := 0, grids := [tGrid], time := 65536 * 4000000,
  parts := [(0, { Part.reset with partcfg := 0x8000000000010000, job := some tJob, grant := 1 })] }

theorem crowded_find (L : List Nat) (c : Nat) (h : c ∈ L) : afind (L.map (fun c => (16 * c, tBig c))) (16 * c) = some (tBig c) := by
  induction L with
  | nil => cases h
  | cons x r ih =>
    simp only [List.map_cons, afind]
    by_cases hx : x = c
    · simp [hx]
    · rw [if_neg (by omega)]
      exact ih (by simpa [Ne.symm hx] using h)

theorem crowded_on (c : Nat) (h : c < 256) : tCrowded.teamsOn c = [16 * c] := by
  have e : ((fun t => decide (coreOfTeam t = c)) ∘ (Prod.fst ∘ fun c => (16 * c, tBig c))) = fun x => x == c := by
    funext x
    simp [coreOfTeam, beq_eq_decide]
  rw [State.teamsOn, tCrowded, List.map_map, List.filter_map, e, List.filter_beq, List.count_eq_one_of_mem List.nodup_range (by simpa using h)]
  rfl

theorem crowded_tm (c : Nat) (h : c < 256) : tCrowded.tm (16 * c) = tBig c := by
  rw [State.tm, aget, tCrowded, crowded_find _ c (by simpa using h)]
  rfl

/-- The same at the boundary, the next one set. -/
def tAtBoundary : State := tCrowded.modPt 0 (fun x => { x with nextQuantum := BitVec.ofNat 64 (x.nextQuantum.toNat + 1000 * 2000) })

theorem ring_zero : ringOf (tAtBoundary.clustersFor 0 placeHeader) = 0 :: (List.range 255).map Nat.succ := by decide +kernel

theorem ring_below (c : Nat) (h : c ∈ 0 :: (List.range 255).map Nat.succ) : c < 256 := by
  rcases List.mem_cons.mp h with rfl | h
  · decide
  · obtain ⟨i, hi, rfl⟩ := List.mem_map.mp h
    have := List.mem_range.mp hi
    omega

theorem crowded_admits (c : Nat) (h : c < 256) : tAtBoundary.admits c placeHeader 0 = false := by
  have b : tAtBoundary.blocksUsed c = 256 := by
    rw [State.blocksUsed, show tAtBoundary.teamsOn c = tCrowded.teamsOn c from rfl, crowded_on c h, List.map_singleton,
      show tAtBoundary.tm (16 * c) = tCrowded.tm (16 * c) from rfl, crowded_tm c h]
    show 0 + (bits (0xFF : Word) 0 5 + 1) * (32 * (bits (0xFF : Word) 5 3 + 1) / 32) = 256
    decide
  have n : ¬ (256 + placeHeader.nslices * (placeHeader.regs / 32) ≤ 256) := by decide
  simp [State.admits, b, n]

theorem crowded_victims (c : Nat) (h : c + 1 < 256) : tAtBoundary.victimsFor 0 (c + 1) (.fresh tGrid 0) = none := by
  have e : (tAtBoundary.teamsOn (c + 1)).filter (tAtBoundary.swappable 0) = [] := by
    rw [show tAtBoundary.teamsOn (c + 1) = tCrowded.teamsOn (c + 1) from rfl, crowded_on _ h]
    have p : tAtBoundary.swappable 0 (16 * (c + 1)) = false := by
      rw [State.swappable, show tAtBoundary.tm (16 * (c + 1)) = tCrowded.tm (16 * (c + 1)) from rfl, crowded_tm _ h]
      simp [tBig, Header.progress]
    simp [p]
  rw [State.victimsFor, e]
  rfl

theorem filterMap_nil {α β : Type} (f : α → Option β) (L : List α) (h : ∀ x ∈ L, f x = none) : L.filterMap f = [] := by
  induction L with
  | nil => rfl
  | cons x r ih => rw [List.filterMap_cons, h x List.mem_cons_self]; exact ih (fun y hy => h y (List.mem_cons_of_mem x hy))

theorem witness_DistributorEvents_boundary :
    tCrowded.partRuns 0 = true ∧ (tCrowded.pt 0).job.isSome = true ∧ (tCrowded.pt 0).nextQuantum.toNat ≤ tCrowded.ns ∧
    (∀ e ∈ tAtBoundary.teams, (tAtBoundary.tm e.1).part = 0 → (tAtBoundary.tm e.1).halting = false ∧ tAtBoundary.canRetire e.1 = false) ∧
    tAtBoundary.waiting 0 = [.fresh tGrid 0] ∧
    tAtBoundary.chooseCore 0 placeHeader 0 (tAtBoundary.clustersFor 0 placeHeader) = none ∧
    tAtBoundary.victimCore 0 (.fresh tGrid 0) = some (0, [0]) := by
  refine ⟨by decide, by decide, by decide, ?_, by decide +kernel, ?_, ?_⟩
  · intro e he _
    obtain ⟨c, hc, rfl⟩ : ∃ c, c < 256 ∧ (16 * c, tBig c) = e := by simpa [tAtBoundary, tCrowded, State.modPt] using he
    have t : tAtBoundary.tm (16 * c) = tBig c := crowded_tm c hc
    exact ⟨by rw [t]; rfl, by
      have n : (List.range 8).all (fun j => decide (((tBig c).token j).count = 0)) = false := rfl
      rw [State.canRetire, t, n, Bool.and_false]⟩
  · rw [State.chooseCore, ring_zero]
    have e : (0 :: (List.range 255).map Nat.succ).filter (fun c => tAtBoundary.admits c placeHeader 0) = [] :=
      List.filter_eq_nil_iff.mpr (fun c hc => by rw [crowded_admits c (ring_below c hc)]; decide)
    rw [e]
    rfl
  · have e : ((List.range 255).map Nat.succ).filterMap (fun c => (tAtBoundary.victimsFor 0 c (.fresh tGrid 0)).map (fun l => (c, l))) = [] :=
      filterMap_nil _ _ (fun c hc => by
        obtain ⟨i, hi, rfl⟩ := List.mem_map.mp hc
        rw [crowded_victims i (by have := List.mem_range.mp hi; omega)]; rfl)
    have v : tAtBoundary.victimsFor 0 0 (.fresh tGrid 0) = some [0] := by decide +kernel
    rw [State.victimCore, show Waiting.header (.fresh tGrid 0) = placeHeader from rfl, ring_zero, List.filterMap_cons, v, Option.map_some]
    simp only [e]
    rfl

theorem one_of {α : Type} {l : List α} {p : α → Bool} (h : (match l with | [x] => p x | _ => false) = true) : ∃ x, l = [x] ∧ p x = true := by
  match l, h with
  | [x], h => exact ⟨x, rfl, h⟩

/-- The victim put away, and the team that waits in its place. -/
theorem witness_DistributorEvents_swap : let x := tAtBoundary.swapOut 0 false
    ∃ r, (x.saved.filter (fun y => decide (tAtBoundary.nextId ≤ y.id))) = [r] ∧
      (match x.tryPlace 0 (.fresh tGrid 0) (x.clustersFor 0 placeHeader) with
        | some t => decide (∀ y ∈ t.waiting 0, y = .back r)
        | none => false) = true :=
  one_of (by decide +kernel)

/-! ## Time -/

theorem witness_TimeEvents : (∀ p, p < 16 → (tBase.pt p).job = none) ∧ (tJobState.pt 0).job ≠ none ∧ (50 : Int).natAbs ≤ 50 := by
  decide

/-- A data set with a better priority than this package's own. -/
def tSet : PtpSet := ⟨5, 6, 0x21, 0, 128, 9, 1, 9⟩

/-- Link 3 is the one up. A better clock has announced itself there; the delay is known; a Sync and a Pdelay_Resp wait for their
follow-ups. -/
def tClocked (e2e : Bool) (heard : Option (PtpSet × Nat)) : State :=
  { tBase with
    ports := [(3, { Port.reset with state := 2 })]
    ptpPorts := [(3, { PtpPort.reset with
      e2e := e2e, heard := heard, sync := some (1, 10, 0), asked := some (1, 3), answer := some (1, 5, 4, 0), delay := some 7 })] }

theorem tClocked_only (e2e : Bool) (heard : Option (PtpSet × Nat)) (j : Nat) (hj : j < 24)
    (h : (tClocked e2e heard).ptpPort (BitVec.ofNat 8 j) = true) : j = 3 :=
  (show ∀ j, j < 24 → ({ tBase with ports := [(3, { Port.reset with state := 2 })] } : State).ptpPort (BitVec.ofNat 8 j) = true → j = 3 by
    decide +kernel) j hj h

theorem witness_TimeEvents_parent : (tClocked false (some (tSet, 0))).ptpPort 3 = true ∧ parentAt (tClocked false (some (tSet, 0))) 3 ∧
    ¬ parentAt (tClocked false none) 3 ∧ (tClocked false none).rot.freeRun = false ∧
    ((tClocked false none).selfPeer.extractLsb' 4 16 ++ 3#4 : BitVec 20) ≠ (tClocked false none).selfPeer := by
  refine ⟨by decide +kernel, ⟨tSet, ⟨by decide, rfl, by decide +kernel, rfl, 0, rfl, by decide +kernel⟩, by decide +kernel, fun j y hy => ?_⟩,
    fun h => ?_, rfl, by decide +kernel⟩
  · obtain rfl := tClocked_only _ _ j hy.1 hy.2.2.1
    obtain ⟨at_, e, _⟩ := hy.2.2.2.2
    have : tSet = y := congrArg Prod.fst (Option.some.inj ((show ((tClocked false (some (tSet, 0))).ptp 3).heard = some (tSet, 0) from rfl).symm.trans e))
    exact Or.inr ⟨this ▸ rfl, Nat.le_refl 3⟩
  · obtain ⟨x, hx, _⟩ := h
    obtain ⟨_, e, _⟩ := hx.2.2.2.2
    exact nomatch (show ((tClocked false none).ptp 3).heard = none from rfl).symm.trans e

theorem witness_TimeEvents_delays (e2e : Bool) : let x := (tClocked e2e none).ptp 3
    x.e2e = e2e ∧ x.sync = some (1, 10, 0) ∧ x.asked = some (1, 3) ∧ x.answer = some (1, 5, 4, 0) ∧ x.delay = some 7 ∧ x.twoStep = false := by
  cases e2e <;> decide +kernel

def tLease (holder : Option (Word × Word)) (at_ : Option Nat) (heard : List Word) : State :=
  { tBase with time := 65536 * 100000000, lease := ⟨5, 2, holder, 0, at_, heard, [16]⟩ }

theorem witness_TimeEvents_lease : (∀ h a l, (tLease h a l).rot.recovery = false) ∧
    leaseAccepted (tLease none none []) 4 3 100000000 = true ∧ leaseAccepted (tLease none none []) 4 1 100000000 = false ∧
    leaseAccepted (tLease none none []) 4 3 0 = false ∧
    ((tLease none none []).lease.announced = none ∧ (tLease none none []).lease.last + 100000000 ≤ (tLease none none []).ns) ∧
    ((tLease none (some 0) [7]).lease.announced = some 0 ∧ 10000000 ≤ (tLease none (some 0) [7]).ns) ∧
    (tLease none (some 0) [7]).lease = ⟨5, 2, none, 0, some 0, [7], [16]⟩ ∧ (tLease none (some 0) [3]).lease = ⟨5, 2, none, 0, some 0, [3], [16]⟩ ∧
    (({ tLease (some (5, 2)) none [] with time := 0 } : State).lease.holder = some (5, 2) ∧
      ({ tLease (some (5, 2)) none [] with time := 0 } : State).ns < 100000000) := by
  refine ⟨fun _ _ _ => rfl, ?_⟩
  decide +kernel

/-- The clock turn of a state with an entry, a job and a free-running clock about to enter a us. -/
theorem witness_TimeEvents_tick : let s := { tJobState with agenda := [.tick], time := 65536 * 999, increment := 81920 }
    s.agenda = [.tick] ∧ (s.teams.map Prod.fst).Pairwise (· < ·) ∧ s.ns / 1000 = 0 ∧ (s.time + s.increment) / 65536 / 1000 = 1 ∧
    (s.pt 0).preq = false ∧ (s.pt 0).switch = none ∧ (s.pt 0).job ≠ none ∧ s.partRuns 0 = true := by
  decide

/-! ## Switches -/

/-- An entry for job 8 of generation 4 (or the current job, or idle) in the timetable of partition 0. -/
def tEntryFor (job genp mode : BitVec 16) : TtEntry := ⟨0, job, genp, 1, mode, 0, 0, 0, 0⟩
def tTable (e : TtEntry) : State := { tJobState with timetable := [e] }

theorem witness_SwitchEvents_entries :
    (let s := tTable (tEntryFor 8 4 0)
     (s.pt 0).switch = none ∧ (s.pt 0).job = some tJob ∧
      (s.ttSorted 0).find? (fun x => x.mode.getLsbD 2 || x.job != tJob.job || x.genp.extractLsb' 0 12 != tJob.gen) = some (tEntryFor 8 4 0) ∧
      (tEntryFor 8 4 0).start.toNat ≤ s.ns + (tEntryFor 8 4 0).lead.toNat ∧ s.partRuns 0 = true ∧ s.ttSorted 0 = [tEntryFor 8 4 0] ∧
      (tEntryFor 8 4 0).mode.getLsbD 2 = false) ∧
    (let s := tTable (tEntryFor 7 3 0)
     s.ttSorted 0 = [tEntryFor 7 3 0] ∧ (tEntryFor 7 3 0).mode.getLsbD 2 = false ∧ (tEntryFor 7 3 0).job = tJob.job ∧
      (tEntryFor 7 3 0).genp.extractLsb' 0 12 = tJob.gen ∧ (s.pt 0).preq = false ∧
      ((s.modPt 0 (fun x => { x with preq := true })).pt 0).preq = true ∧ (s.pt 0).urgHalt = none) ∧
    (let s := { tBase.modPt 0 (fun x => { x with partcfg := 0x8000000000010000 }) with timetable := [tEntryFor 0 0 4] }
     s.partRuns 0 = true ∧ s.ttSorted 0 = [tEntryFor 0 0 4] ∧ (s.pt 0).job = none ∧ (tEntryFor 0 0 4).mode.getLsbD 2 = true) := by
  decide +kernel

/-- A switch of partition 0 in a phase, to a target. -/
def tSwitch (phase : SwitchPhase) (target : Option (BitVec 16 × BitVec 12 × Bool)) : Switch :=
  ⟨phase, false, target, 0, 0, 0, [], [], some { tJob with save := 0x4000 }, false, false, if phase = .draining then [] else [(0, 0)], 0⟩

/-- The same; the directory at 0x1000 of die 0 has job 8 in its entry 0, its image header at 0x2000, and an image at 0x3000 whose
SVSTATE and generation are as given; one page maps the first GiB of die 0, where the root header of job 8 is at 0x6000. -/
def tSwitching (phase : SwitchPhase) (target : Option (BitVec 16 × BitVec 12 × Bool)) (image : List Byte) : State :=
  let s := { State.reset with parts := [(0, { Part.reset with
    partcfg := 0x8000000000000000, jobdir := 0x1001, jobdirUsed := 0x1001, job := some { tJob with save := 0x4000 }
    switch := some (tSwitch phase target) })] }
  let entry := natLe 8 8 ++ natLe 8 0x2000
  let header := natLe 8 0 ++ natLe 8 0x6000 ++ natLe 8 0x8001 ++ List.replicate 0x48 0 ++ natLe 8 0x3000
  (((((s.putMem (hbmKey 0 0x1000) entry).putMem (hbmKey 0 0x2000) header).putMem (hbmKey 0 0x3000) image).putMem (hbmKey 0 0x4018) [0, 0, 1]).putMem
    (hbmKey 0 0x8000) (natLe 8 0x9001)).putMem (hbmKey 0 0x9000) [0x1F]

theorem witness_SwitchEvents_drain : let s := tSwitching .draining none []
    let w := tSwitch .draining none
    (s.pt 0).switch = some w ∧ w.phase = .draining ∧ w.haltTime.toNat + 1000 * min 10 (w.swctl.extractLsb' 8 8).toNat ≤ s.ns := by
  decide +kernel

theorem witness_SwitchEvents_save : let s := tSwitching .saving none []
    let w := tSwitch .saving none
    (s.pt 0).switch = some w ∧ w.phase = .saving ∧ (s.pt 0).job = some { tJob with save := 0x4000 } ∧ s.teams = [] ∧ s.launches = [] ∧
    s.sends = [] ∧ s.recvs = [] ∧ s.copies = [] ∧ w.heavy = false ∧ (∃ e ∈ w.opened, s.ns ≤ e.2 + 1000 * max 10 (min 70 (w.swctl.extractLsb' 0 8).toNat)) ∧
    placeKey 0x4000 % 4 = 0 ∧ ∃ u, s.writeImage 0 (placeKey 0x4000) w.haltTime w.urgent false = some u ∧ true = true := by
  and_intros <;> decide +kernel

/-- The image of the incoming job holds what is to be restored, in the generation before. -/
def tImage : List Byte := [1, 0, 0, 0] ++ natLe 4 (8 + 65536 * 3)

theorem witness_SwitchEvents_quiesce (e : Option (BitVec 16 × BitVec 12 × Bool) × List Byte)
    (he : e ∈ [(none, []), (some (9, 4, false), []), (some (8, 4, false), []), (some (8, 4, true), []), (some (8, 4, true), tImage),
      (some (8, 5, true), tImage)]) : let s := tSwitching .quiesce e.1 e.2
    let w := tSwitch .quiesce e.1
    (s.pt 0).switch = some w ∧ w.phase = .quiesce ∧ w.out = some { tJob with save := 0x4000 } ∧ s.txStreams = [] ∧ w.target = e.1 ∧
    s.jobEntry 0 9 = none ∧ s.jobEntry 0 8 = some (0, 0x2000) ∧ (s.word (hbmKey 0 0x3000)).getLsbD 0 = decide (e.2 ≠ []) ∧
    placeKey (s.dword (placeKey 0x2000 + 0x60)) = hbmKey 0 0x3000 ∧
    (e.2 ≠ [] → (s.word (hbmKey 0 0x3000 + 4)).extractLsb' 16 12 = 3) ∧ w.returning = false := by
  simp only [List.mem_cons, List.not_mem_nil, or_false] at he
  rcases he with rfl | rfl | rfl | rfl | rfl | rfl <;> decide +kernel

/-- The root header of job 8 can be read. -/
theorem witness_SwitchEvents_start : let s := tSwitching .quiesce (some (8, 4, false)) []
    let u := s.setJob 0 (s.jobFrom (placeKey 0x2000) 8 4)
    u.poisoned = [] ∧ u.word (hbmKey 0 0x3088) = 0 ∧ ∃ bs, u.readVirt 0 (s.dword (placeKey 0x2000 + 8)) 128 = some bs ∧ true = true :=
  ⟨by decide +kernel, by decide +kernel, some_of (by decide +kernel)⟩

theorem witness_SwitchEvents_restore : let s := tSwitching .restoring (some (8, 4, true)) tImage
    let w := tSwitch .restoring (some (8, 4, true))
    (s.pt 0).switch = some w ∧ w.phase = .restoring ∧ (s.pt 0).job = some { tJob with save := 0x4000 } ∧ placeKey 0x4000 % 4 = 0 ∧
    (∀ i, i < 7 → s.word (placeKey 0x4000 + 0x70 + 4 * i) = 0) ∧ s.saved = [] ∧ s.recvs = [] := by
  decide +kernel

/-- An urgent request for job 8, whose root header at 0x6000 asks for it; and one in its window, over; and a job to return to. -/
theorem witness_SwitchEvents_urgent :
    (let s := (tSwitching .quiesce none []).putMem (hbmKey 0 0x6059) [0x40]
     let u := s.modPt 0 (fun x => { x with switch := none })
     (u.pt 0).swstat.getLsbD 0 = false ∧ (u.pt 0).swstat.getLsbD 2 = false ∧ u.urgentRoot 0 8 = true ∧ u.urgentRoot 0 9 = false) ∧
    (let s := tJobState.modPt 0 (fun x => { x with urgHalt := some 0, urgJob := some (8, 4) })
     (s.pt 0).urgHalt = some 0 ∧ (s.pt 0).urgJob = some (8, 4) ∧ (s.pt 0).job = some tJob ∧ s.partRuns 0 = true ∧ (0 : DWord).toNat ≤ s.ns) ∧
    (let s := tJobState.modPt 0 (fun x => { x with job := some { tJob with urgent := true }, preempted := some (5, 2) })
     (s.pt 0).preempted = some (5, 2) ∧ s.partRuns 0 = true ∧ (s.jobOf 0).urgent = true ∧ s.grids = [] ∧ s.launches = []) := by
  decide +kernel

/-! ## The fabric -/

/-- Peer 1 is reached over link 1; its stream to this package has sent two packets. -/
def tPeer : State := { tJobState with ports := [(1, { Port.reset with state := 2 })] }

/-- A datagram from the address of peer 1 to this package's port, and one from another port. -/
def tDatagram (pkt : Packet) (n : BitVec 16) : Datagram :=
  let port := BitVec.ofNat 16 (tPeer.socfgField 0xC 2) + n
  ⟨0, tPeer.peerAddress 1, 0, 0, port, [100], udpChecksum (tPeer.peerAddress 1) 0 0 port (pktBytes pkt)⟩

theorem comesIn_of {s : State} {pkt : Packet} (h : s.rot.recovery = false) : comesIn s pkt none := ⟨h, fun _ hd => nomatch hd⟩

theorem witness_PacketEvents_datagram (pkt : Packet) (h : pkt.srcPeer = 1) :
    comesIn tPeer pkt (some (tDatagram pkt 0)) ∧ ¬ comesIn tPeer pkt (some (tDatagram pkt 1)) :=
  ⟨⟨rfl, fun d hd => by
      rw [← Option.some.inj hd, h]
      exact ⟨rfl, show BitVec.ofNat 16 (tPeer.socfgField 0xC 2) + 0 = _ by decide +kernel, rfl⟩⟩,
    fun hc => absurd (hc.2 _ rfl).2.1 (show ¬ BitVec.ofNat 16 (tPeer.socfgField 0xC 2) + 1 = _ by decide +kernel)⟩

theorem witness_PacketEvents_arrival (cls : BitVec 4) (addr : BitVec 42) : let pkt := tPkt cls addr []
    pkt.dstPeer = tPeer.selfPeer ∧ (tPeer.rxOf (pktStream pkt)).nackFrom = none ∧ (tPeer.rxOf (pktStream pkt)).held = [] ∧
    InOrder tPeer pkt ∧ ForJob tPeer pkt 0 ∧ comesIn tPeer pkt none :=
  ⟨rfl, rfl, rfl, ⟨rfl, rfl, rfl, rfl⟩, ⟨show tPeer.currentPart 7 = some 0 by decide +kernel, show tPeer.engineOn 0 = true by decide +kernel, Or.inl rfl⟩, comesIn_of rfl⟩

/-- A packet ahead of its stream, one behind it, one of another generation, one of a job that nothing knows. -/
theorem witness_PacketEvents_others : seqLe 1 (tPeer.rxOf (pktStream (tPkt 3 0 []))).expect = false ∧
    (let i := pktStream (tPkt 3 0 [])
     let s := { tPeer with rxStreams := [⟨i, 2, [], none⟩] }
     (1 : Word) ≠ (s.rxOf i).expect ∧ seqLe 1 (s.rxOf i).expect = true ∧ seqLe 1 (s.lastSettled i) = true) ∧
    (tPeer.currentPart 7 = some 0 ∧ tPeer.engineOn 0 = true ∧ (5 : BitVec 12) ≠ (tPeer.jobOf 0).gen ∧
      (5 : BitVec 12) ≠ (tPeer.jobOf 0).gen - 1) ∧
    (tPeer.currentPart 12 = none ∧ tPeer.directoryPart 12 = none ∧ (1 : BitVec 20) ≠ tPeer.selfPeer) := by
  decide +kernel

/-- Job 8, in the directory and not current, with room in its parked-traffic area. -/
theorem witness_PacketEvents_park : let s := (tSwitching .quiesce none []).putMem (hbmKey 0 0x3000) (natLe 16 0 ++ natLe 8 0x8000 ++ natLe 8 0x2000)
    let pkt := { tPkt 4 0 [1, 2] with job := 8 }
    s.currentPart 8 = none ∧ s.directoryPart 8 = some (0, 0, 0x2000) ∧ s.imageKey 0x2000 = 0x3000 ∧ (s.dword 0x3018).toNat = 0x2000 ∧
    (s.dword 0x3020).toNat = 0 ∧ 0x2000 + 0 + (parkRecord pkt).length ≤ (s.dword 0x3010).toNat ∧ s.poisoned = [] ∧ pkt.dstPeer = s.selfPeer := by
  decide +kernel

/-- A stream to peer 1 with a packet kept, and one that was NACKed. -/
def tKept (nacked : Option (Word × Nat)) : State :=
  { tPeer with time := 65536 * 20000, txStreams := [⟨⟨0, 0, 1, 0, 1⟩, 1, [{ tPkt 4 0 [] with dstPeer := 1, srcPeer := 0 }], nacked, []⟩] }

theorem witness_PacketEvents_resend (nacked : Option (Word × Nat)) (h : nacked = none ∨ nacked = some (0, 0)) :
    ((tKept nacked).txOf ⟨0, 0, 1, 0, 1⟩).nacked = nacked ∧ ((tKept nacked).txOf ⟨0, 0, 1, 0, 1⟩).unacked ≠ [] ∧ hasPath (tKept nacked) ⟨0, 0, 1, 0, 1⟩ := by
  unfold hasPath; rcases h with rfl | rfl <;> decide +kernel

/-- A stream that leaves by an Ethernet port. -/
theorem witness_PacketEvents_scaleout : let i : StreamId := ⟨0, 0, 16, 0, 1⟩
    let s : State := { tPeer with time := 65536 * 20000, ethUp := 0xFF, socfg := [(0x10, 0xFF)]
                                  txStreams := [⟨i, 1, [{ tPkt 4 0 [] with dstPeer := 16, srcPeer := 0 }], none, []⟩] }
    (s.txOf i).unacked ≠ [] ∧ s.route 16 = .scaleOut ∧ hasPath s i ∧ aget 0 (s.txOf i).sent 0 + 20000 ≤ s.ns := by
  unfold hasPath
  decide +kernel

/-- A peer's request for the job, first in its stream: the job's table gives principal 7 an 8 KiB window at VA 0x6000 of die 0, cleared by
the bitmap at 0x3000; and the answer to a request. -/
def tServed (pkt : Packet) : State :=
  let s := { tPeer.modPt 0 (fun x => { x with job := some { tJob with win := some 0x3400000000006000, prins := [(7, 0x3000)] } }) with inbox := [pkt] }
  ((s.putMem (hbmKey 0 0x8000) (natLe 8 0x9001)).putMem (hbmKey 0 0x9000) [0x1F]).putMem (hbmKey 0 0x3000) [1]

theorem witness_PacketEvents_served (cls : BitVec 4) (hc : cls = 4 ∨ cls = 5) : let pkt := { tPkt cls 0 [1, 2] with dline := 1 }
    let s := tServed pkt
    PeerTurn s pkt 0 ∧ linePassed s.ns pkt.dline = false ∧
    (∀ n, n < 2 → s.resolveAsPeer 0 (s.jobOf 0) 7 (pkt.addr + BitVec.ofNat 42 n) false true false = .key (0x6000 + n)) ∧
    (∀ n, n < 64 → s.resolveAsPeer 0 (s.jobOf 0) 7 (pkt.addr + BitVec.ofNat 42 n) true false false = .key (0x6000 + n)) ∧ s.poisoned = [] ∧
    pkt.payload ≠ [] ∧ linesRead s 0 pkt := by
  rcases hc with rfl | rfl <;>
  refine ⟨⟨by decide +kernel, by decide, ⟨by decide +kernel, by decide +kernel, Or.inl rfl⟩⟩, by decide +kernel, by decide +kernel,
    by decide +kernel, by decide +kernel, by decide, fun e a he ha => ?_⟩ <;>
  obtain rfl := Option.some.inj (he.symm.trans (show _ = some (7, 0x3000) by decide +kernel)) <;>
  obtain rfl := Option.some.inj (ha.symm.trans (show _ = some 0x6000 by decide +kernel)) <;>
  decide +kernel

/-- A line that has passed; an offset outside the window; a principal without an entry. -/
theorem witness_PacketEvents_refused : linePassed 0 0 = true ∧
    (let s := tServed (tPkt 5 0x40000000 [])
     s.resolveAsPeer 0 (s.jobOf 0) 7 0x40000000 true false false = .fail .fault 0) ∧
    (let s := { tPeer with inbox := [tPkt 5 0 []] }
     s.resolveAsPeer 0 (s.jobOf 0) 7 0 true false false = .fail .denied 0) := by
  decide +kernel

/-- An answer that nothing waits for, one for a far request, one for a copy element. -/
theorem witness_PacketEvents_answers : let pkt := tPkt 8 0 []
    (tIn pkt).requestFor pkt = none ∧
    (let r : PeerReq := ⟨4, 5, 1, 0, ⟨0, 0, 1, 0, 2⟩, 0, 0, false⟩
     let c := { tCopy 0 .running none with asked := some ⟨false, false, 4, 0⟩ }
     let s := { tIn pkt with copies := [c], peerReqs := [r] }
     (s.inboxOf (pktStream pkt)).head? = some pkt ∧ s.requestFor pkt = some r ∧ s.copyOf r.src = some c ∧ c.asked.map CopyAsk.txid = some r.txid) := by
  decide +kernel

/-! ## Links -/

/-- A flit whose CRC is right. -/
def tFlit (ftype : BitVec 8) (fseq : BitVec 16) (first : Byte) : Flit := sealFlit ⟨first :: List.replicate 119 0, fseq, 0, ftype, 0⟩

theorem not_next (x : BitVec 24) : x ≠ x + 1 := by bv_omega

theorem witness_LinkEvents (f : Flit) : (tPeer.po 1).state = 2 ∧ (tPeer.po 1).recvSeq = 0xFFF ∧
    flitCrc { f with crc := flitCrc f + 1 } ≠ ({ f with crc := flitCrc f + 1 } : Flit).crc ∧ flitCrc (sealFlit f) = (sealFlit f).crc ∧
    ((tFlit 1 2 0).fseq.setWidth 12 ≠ (tPeer.po 1).recvSeq + 1 ∧ (tFlit 1 0 0).fseq.setWidth 12 = (tPeer.po 1).recvSeq + 1) ∧
    ((tFlit 0 0 1).payload.headD 0 = 1 ∧ (tFlit 0 0 2).payload.headD 0 = 2) ∧ tPeer.rot.recovery = false ∧
    (∀ n, n < 3 → ((tFlit (BitVec.ofNat 8 n) 0 0).ftype.extractLsb' 0 4).toNat = n) :=
  ⟨by decide, by decide, not_next _, rfl, ⟨by decide +kernel, by decide +kernel⟩, ⟨rfl, rfl⟩, rfl, by decide +kernel⟩

theorem witness_LinkEvents_states : ((({ tBase with ports := [(1, { Port.reset with state := 3, width := 1 })] } : State).po 1).state = 3) ∧
    (({ tBase with ports := [(1, { Port.reset with state := 2, width := 1, widenWait := 0 })] } : State).po 1).width ≠ 0 ∧
    (let s : State := { tBase with time := 65536 * 1000000000, ports := [(1, { Port.reset with state := 4 })] }
     (s.po 1).state = 4 ∧ (s.po 1).downSince + 1000000000 ≤ s.ns) ∧
    (let s : State := { tBase with time := 65536 * 1000000000, ports := [(1, { Port.reset with state := 2, width := 1 })] }
     (s.po 1).lastRetry + (s.po 1).widenWait ≤ s.ns) := by
  decide +kernel

/-! ## Partitions and power -/

theorem witness_PartitionEvents_xlcmd : ((({ tBase with dies := [(0, { Die.reset with xlcmd := 0x2000000000000000 })] } : State).di 0).xlcmd.getLsbD 61 = true) ∧
    (tBase.di 0).xlcmd.getLsbD 61 = false := by
  decide +kernel

/-- Partition 0 has clusters 0 and 1, and 3 has cluster 2, lent or not. -/
def tShares (lent : BitVec 2) : State :=
  { tJobState.modPt 3 (fun x => { x with partcfg := 0x8000000000020022 }) with clusters := [(2, { Cluster.reset with lent := lent })] }

theorem witness_PartitionEvents_lending :
    ((tShares 0).clusterTeams 2 = [] ∧ ((tShares 0).cl 2).lent = 0 ∧ ((tShares 0).pt 0).partcfg.getLsbD 63 = true ∧
      (List.range 16).find? (fun p => ((tShares 0).pt p).inRange 2) = some 3) ∧
    (((tShares 1).cl 2).lent = 1 ∧ (tShares 1).clusterTeams 2 = []) ∧
    (((tShares 2).cl 2).lent = 2 ∧ (tShares 2).clusterTeams 2 = [] ∧ ((tShares 2).cl 2).reclaimAt = none ∧ ((tShares 2).cl 2).lendAt = none) ∧
    (let s := { tShares 2 with teams := [(16 * 512, tTeam)], moves := [{ tMove .tld with team := 16 * 512 }] }
     s.clusterTeams 2 = [16 * 512] ∧ s.partRuns (s.cl 2).borrower.toNat = true ∧ (s.swapOut (16 * 512) true).clusterTeams 2 ≠ []) := by
  decide +kernel

/-- A LEND and a RECLAIM written in this cycle. -/
theorem witness_PartitionEvents_marks (took : Bool) :
    let s := (tShares 1).modCl 2 (fun c => { c with lendAt := some ⟨0, true, none⟩, reclaimAt := some ⟨0, took, none⟩ })
    (s.cl 2).lendAt = some ⟨s.cycle, true, none⟩ ∧ (s.cl 2).reclaimAt = some ⟨s.cycle, took, none⟩ := by
  cases took <;> decide +kernel

/-- An enabled partition that overlaps another, and one that does not. -/
theorem witness_PartitionEvents_config : configClash (tShares 0) 3 { Part.reset with partcfg := 0x8000000000020020 } ∧
    ¬ configClash (tShares 0) 3 ((tShares 0).pt 3) := by
  unfold configClash
  decide +kernel

theorem witness_PartitionEvents_power :
    (({ tBase with clusters := [(0, { Cluster.reset with reconnect := some 2 })] } : State).cl 0).reconnect = some 2 ∧
    (let s := (tJobState.modPt 0 (fun x => { x with group := some 1 })).modTm 0 id
     let u := { s with teams := [] }
     (u.cl 0).reconnect = none ∧ u.partOfCluster 0 = some 0 ∧ u.clusterTeams 0 = [] ∧
      (u.pt 0).group = some 1 ∧ (u.cl 0).group ≠ 1) ∧
    (({ tBase with rgGroups := [(1, { RgGroup.reset with ramping := true })] } : State).rg 1).ramping = true ∧
    (let s := { tJobState with time := 65536 * 1000 }
     (s.pt 0).partcfg.getLsbD 63 = true ∧ (s.pt 0).meterUs ≠ s.ns / 1000) := by
  decide +kernel

/-! ## Management -/

theorem witness_ManagementEvents_stopped : let s := tWith (fun x => { x with wait := some .stopped, frame := some [] })
    commanded s 0 0x40000000 1 0 ∧ commanded s 0 0x80000000 2 0 ∧ (s.sl 0).wait = some .stopped ∧ (s.sl 0).frame = some [] := by
  and_intros <;> decide

theorem witness_ManagementEvents_reset : (tBase.pt 0).preset ≠ 1 ∧ (tBase.pt 0).preset ≠ 2 ∧
    (∀ n : BitVec 2, ((tBase.modPt 0 (fun x => { x with preset := n })).pt 0).preset = n) ∧
    (({ tBase with clusters := [(2, { Cluster.reset with lent := 1 })] } : State).cl 2).lent ≠ 0 := by
  decide +kernel

/-- An image of one byte, signed by a key of the test. -/
def tImageSigned : SignedImage :=
  ⟨[1], 0x8727fec880641f871028e334186453ad747ccf711cdfd74a8d1dc3d875983627a17f51396a22874cae1cd0e9fd23d6bc,
    0x28d56e7b27e872f1f2ee9e0f6dbe4642d30d39663ae8fdd885184d7b83aa4c38633a89b363d2606cb93016d111fb7dd8,
    0x6460f955efdcbf3bf7393081ddf04a64747781bc8956c1e5ff47be522f7f758244ae054e91e8aa160c76dc7302bcf181,
    0xfac25b21d240e12d8096d5a72b6a772d3ec43e95b1b8c5b33df46c90e010f6de14747f9653b7e9178e5a2226ef23355, 0⟩

/-- The key's digest stands in slot 3, revoked or not. -/
def tFuses (revoked : BitVec 4) : Fuses :=
  { Fuses.reset with
    keySlots := [0, 0, 0, BitVec.ofNat 384 (sha384 (CurvePoint.bytes ⟨tImageSigned.keyX.toNat, tImageSigned.keyY.toNat, 1⟩))]
    revoked := revoked }

/-- A boot whose steps pass, of a state with these fuses. -/
def tBoot : BootWork :=
  ⟨List.replicate 9 ⟨true, 0⟩, [], [], tImageSigned, tImageSigned, tImageSigned, tImageSigned, []⟩

theorem witness_ManagementEvents_boot : State.reset.rot.record = [] ∧ (∀ n, n < 9 → ∃ o, tBoot.primary[n]? = some o ∧ o.passed = true) ∧
    imageOk (tFuses 7) tBoot.firmware = true ∧ imageOk (tFuses 15) tBoot.firmware = false := by
  refine ⟨rfl, fun n hn => ⟨⟨true, 0⟩, by simp only [tBoot, List.getElem?_replicate, hn, if_true], rfl⟩, by decide +kernel, by decide +kernel⟩

/-- A signature over another digest does not hold. -/
theorem test_imageOk_other : imageOk (tFuses 7) { tImageSigned with image := [2] } = false := by decide +kernel

theorem witness_ManagementEvents_recovery : let s := { State.reset with rot := { State.reset.rot with record := [(2, 0x202)] } }
    tBoot.primary[0]? = some ⟨true, 0⟩ ∧ (aget 0 s.rot.record 1).extractLsb' 8 2 ≠ 2 ∧ (aget 0 s.rot.record 2).extractLsb' 8 2 = 2 := by
  decide +kernel

theorem witness_ManagementEvents_ecc :
    (tBase.spareFree (.coreBank 0 1) = true ∧ (tBase.eccOf (.coreBank 0 1)).copying = false ∧ (corrections tBase (.coreBank 0 1)).length = 1) ∧
    (let s := { tBase with ecc := [⟨.coreBank 0 1, List.replicate 15 0, 0, false⟩] }
     (corrections s (.coreBank 0 1)).length = 16 ∧ s.spareFree (.coreBank 0 1) = true ∧ (s.eccOf (.coreBank 0 1)).copying = false) ∧
    (({ tBase with ecc := [⟨.coreBank 0 1, [], 1, true⟩] } : State).eccOf (.coreBank 0 1)).copying = true := by
  decide +kernel

theorem witness_ManagementEvents_upset : ({ tBase with agenda := [.upsetMem 5] } : State).agenda = [.upsetMem 5] ∧
    ({ tBase with agenda := [.upsetReg 0 false 3 2] } : State).agenda = [.upsetReg 0 false 3 2] ∧ (afind tBase.slices 0).isSome = true := by
  decide

theorem witness_ManagementEvents_rest : (List.replicate 48 (0 : Byte)).length = 48 ∧ clean tBase (hbmKey 0 0x100) 4 ∧ 0x100 + 4 ≤ 2 ^ 37 ∧
    (let s := { tBase with hostRes := [(1, (hbmKey 0 0x100, 4, 0))] }
     afind s.hostRes 1 = some (hbmKey 0 0x100, 4, 0) ∧ s.writtenSince (hbmKey 0 0x100) 4 0 = false ∧
      (s.putMem (hbmKey 0 0x100) [7]).writtenSince (hbmKey 0 0x100) 4 0 = true) :=
  ⟨by decide, clean_of rfl _ _, by decide, by decide +kernel⟩

/-! ## The whole machine -/

/-- The memory of reset is canonical, and a step with an event at the head of the agenda has a next state. -/
theorem witness_MemoryInvariant : let s := { State.reset with agenda := [.event .timestatWrite] }
    s.memOk ∧ ∃ t, step s = .next t :=
  ⟨reset_memOk, next_of rfl⟩

/-! ## Worked examples of the specification, one step each -/

/-- One slice with lane 0 active, and some of that lane's v registers. -/
def tLane (vs : Assoc Word) (l : Quad Word) : State := tWith (fun x => { x with active := 1, v := vs.map (fun e => (4 * e.1, e.2)), lfsr := l })

/-- Lane 0 of a v register, and an s register, after an instruction. -/
def laneAfter (i : Instr) (s : State) (r : Nat) : Word := match exec i s with | .next t => ((t.sl 0).vRd r 0).val | _ => 0
def lanesAfter (i : Instr) (s : State) (k r : Nat) : List Word :=
  match exec i s with | .next t => (List.range 4).map (fun l => ((t.sl k).vRd r l).val) | _ => []
def scalarAfter (i : Instr) (s : State) (r : Nat) : Rd := match exec i s with | .next t => (t.sl 0).sRd r | _ => ⟨0, true, true⟩

/-- R83: IABS.i32 of the least value wraps to itself, and saturates to the greatest. -/
theorem test_iabs : laneAfter (.iabs (tLongOf .i32 (tV 2) o0 0)) (tLane [(2, 0x80000000)] ⟨1, 1, 1, 1⟩) 4 = 0x80000000 ∧
    laneAfter (.iabs { tLongOf .i32 (tV 2) o0 0 with sat := true }) (tLane [(2, 0x80000000)] ⟨1, 1, 1, 1⟩) 4 = 0x7FFFFFFF := by
  decide +kernel

/-- R93: IADD64 with a sign-extended and with a zero-extended offset. -/
theorem test_iadd64 (n : Bool) : let i : Instr := .iadd64 (tLongOf (if n then .n32 else .i32) (tV 2) (tV 6) 0)
    let s := tLane [(2, 0x10), (3, 1), (6, 0xFFFFFFF0)] ⟨1, 1, 1, 1⟩
    laneAfter i s 4 = 0 ∧ laneAfter i s 5 = (if n then 2 else 1) := by
  cases n <;> decide +kernel

/-- R115: FFRAC of -2^-30 is the greatest value below 1. -/
theorem test_ffrac : laneAfter (.ffrac (tLongOf .f32 (tV 2) o0 0)) (tLane [(2, 0xB0800000)] ⟨1, 1, 1, 1⟩) 4 = 0x3F7FFFFF := by
  decide +kernel

/-- R120: UNPACK.n32.i8x4 of element 3, without and with saturation. -/
theorem test_unpack : laneAfter (.unpack (tLongOf .n32 (tV 2) o0 0x35)) (tLane [(2, 0xFB000000)] ⟨1, 1, 1, 1⟩) 4 = 0xFFFFFFFB ∧
    laneAfter (.unpack { tLongOf .n32 (tV 2) o0 0x35 with sat := true }) (tLane [(2, 0xFB000000)] ⟨1, 1, 1, 1⟩) 4 = 0 := by
  decide +kernel

/-- R153: with 0110 in k1 of both slices of a gang, VOTE.rank counts through both. -/
theorem test_vote : let i : Instr := .vote { tLongOf .b32 o0 o0 1 with xw := 2, vd := 3 }
    let s := tPair (fun x => { x with k := [(1, 6)] })
    lanesAfter i s 0 3 = [0, 0, 1, 2] ∧ lanesAfter i s 1 3 = [2, 2, 3, 4] := by
  decide +kernel

/-- R126: SINPI is exactly 1 at 0.5. -/
theorem test_sinpi : laneAfter (.sinpi (tLongOf .f32 (tV 2) o0 0)) (tLane [(2, 0x3F000000)] ⟨1, 1, 1, 1⟩) 4 = 0x3F800000 := by
  decide +kernel

/-- R50: 1 + 2^-8 rounds to BF16 under STOCH as the LFSR decides: up from the first two states of the example, down from the third. -/
theorem test_stoch (e : Word × Word) (he : e ∈ [(1, 0x3F813F81), (0x80200003, 0x3F803F81)]) :
    laneAfter (.pack { tLongOf .bf16x2 (tV 2) (tV 2) 8 with rm := 5 }) (tLane [(2, 0x3F808000)] ⟨e.1, 1, 1, 1⟩) 4 = e.2 := by
  simp only [List.mem_cons, List.not_mem_nil, or_false] at he
  rcases he with rfl | rfl <;> decide +kernel

/-- R105: SLIL and SLIH build 0x12345678. -/
theorem test_slil_slih : scalarAfter (.slil 5 0x5678) tBase 5 = ⟨0x5678, false, false⟩ ∧
    scalarAfter (.slih 5 0x48D) (tWith (fun x => { x with s := [(5, some 0x5678)] })) 5 = ⟨0x12345678, false, false⟩ := by
  decide +kernel

/-- R101: SADD wraps, and SCMP.ltn compares without a sign. -/
theorem test_sadd_scmp : let s := tWith (fun x => { x with s := [(8, some 0xFFFFFFFF), (12, some 2)] })
    scalarAfter (.sadd 4 8 12) s 4 = ⟨1, false, false⟩ ∧ scalarAfter (.scmp 6 4 12 8) s 4 = ⟨1, false, false⟩ := by
  decide +kernel

end Sys2Proof.Tests
end

section
/-! What leaves the records of slices alone: events, the spill areas of the wait-for tables, and walks (spec R308, R319 to
R321, R390). -/

namespace Sys2Proof.Machine

open Sys2Proof

@[simp] theorem ringPut_slices (s : State) (desc : Nat) (place : Nat → Option Nat) (r : List Byte) :
    (s.ringPut desc place r).slices = s.slices := by
  unfold State.ringPut
  dsimp only
  split
  · rfl
  split
  · rfl
  split <;> rfl

@[simp] theorem appendEvent_slices (s : State) (p : Nat) (r : BitVec 256) : (s.appendEvent p r).slices = s.slices := by
  unfold State.appendEvent
  split
  · rfl
  dsimp only
  split
  · rfl
  split
  · rfl
  · exact ringPut_slices ..

@[simp] theorem entryRead_slices (s : State) (die : Nat) (e : WftEntry) : (s.entryRead die e).slices = s.slices := by
  unfold State.entryRead
  split
  · exact appendEvent_slices ..
  · rfl

@[simp] theorem spillIn_slices (s : State) (die : Nat) (e : WftEntry) (n : Nat) : (s.spillIn die e n).slices = s.slices := rfl

@[simp] theorem spillOut_slices (s : State) (die : Nat) (e : WftEntry) (n : Nat) : (s.spillOut die e n).slices = s.slices :=
  entryRead_slices ..

/-- A fold of steps that leave the slices alone leaves them alone. -/
theorem foldl_slices {α : Type} (f : State → α → State) (h : ∀ u a, (f u a).slices = u.slices) (l : List α) (s : State) :
    (l.foldl f s).slices = s.slices :=
  List.foldlRecOn (motive := fun u => u.slices = s.slices) l f rfl (fun u e a _ => (h u a).trans e)

@[simp] theorem readEntries_slices (s : State) (die : Nat) : (s.readEntries die).slices = s.slices :=
  foldl_slices _ (fun u e => entryRead_slices u die e) _ _

@[simp] theorem bringBack_slices (s : State) (id : Nat) : (s.bringBack id).slices = s.slices := by
  unfold State.bringBack
  split
  · rfl
  split
  · split
    · rfl
    split
    · rfl
    · exact spillOut_slices ..
  · rfl

@[simp] theorem bringObj_slices (s : State) (p : Nat) (job : BitVec 16) (obj : DWord) : (s.bringObj p job obj).slices = s.slices :=
  foldl_slices (fun u (e : WftEntry) => u.bringBack e.id) (fun u e => bringBack_slices u e.id) _ _

/-- With no poison to be found in an entry, reading the entries of a die changes nothing (R292). -/
theorem readEntries_of_onDies {s : State} (h : Claims.onDies s) (die : Nat) : s.readEntries die = s := by
  unfold State.readEntries
  rw [List.filter_eq_nil_iff.2 (fun e he => by simp [(h e he).2])]
  rfl

/-- With no entry in a spill area there is none to bring back (R308). -/
theorem bringObj_of_onDies {s : State} (h : Claims.onDies s) (p : Nat) (job : BitVec 16) (obj : DWord) :
    s.bringObj p job obj = s := by
  unfold State.bringObj
  rw [List.filter_eq_nil_iff.2 (fun e he => by simp [WftEntry.onDie, (h e he).1])]
  rfl

/-- A walk changes the state only by bringing entries back (R320): what that keeps, the walk keeps. -/
theorem walkGo_keeps (P : State → Prop) (hP : ∀ u p job obj, P u → P (State.bringObj u p job obj)) (probe : Option (Nat × Nat))
    (fuel : Nat) (s : State) (w : Walk) (h : P s) : P (s.walkGo probe fuel w).1 := by
  induction fuel generalizing s w with
  | zero => exact h
  | succ fuel ih =>
    unfold State.walkGo
    split
    · exact h
    · split
      · -- the next holder of the object at hand
        dsimp only
        split
        · exact h
        split
        · exact ih _ _ h
        split
        · exact h
        · exact ih _ _ h
      · -- the next object of the team, or back to the team before
        split
        · exact ih _ _ h
        split
        · exact ih _ _ h
        split
        · exact ih _ _ (hP _ _ _ _ h)
        · exact h

theorem walkGo_slices (s : State) (probe : Option (Nat × Nat)) (fuel : Nat) (w : Walk) :
    (s.walkGo probe fuel w).1.slices = s.slices :=
  walkGo_keeps (fun u => u.slices = s.slices) (fun u p job obj h => (bringObj_slices u p job obj).trans h) probe fuel s w rfl

theorem walkGo_of_onDies {s : State} (h : Claims.onDies s) (probe : Option (Nat × Nat)) (fuel : Nat) (w : Walk) :
    (s.walkGo probe fuel w).1 = s :=
  walkGo_keeps (fun u => u = s) (fun _ p job obj e => by rw [e]; exact bringObj_of_onDies h p job obj) probe fuel s w rfl

@[simp] theorem startWalk_slices (s : State) (t k die : Nat) (first : Option Nat) : (s.startWalk t k die first).slices = s.slices := by
  unfold State.startWalk
  split
  · rfl
  · exact (walkGo_slices ..).trans (readEntries_slices s die)

/-- A walk that meets no spilled or poisoned entry only adds to the walks (R321). -/
theorem startWalk_of_onDies {s : State} (h : Claims.onDies s) (t k die : Nat) (first : Option Nat) :
    s.startWalk t k die first = { s with walks := (s.startWalk t k die first).walks } := by
  unfold State.startWalk
  split
  · rfl
  · rw [readEntries_of_onDies h]
    dsimp only [State.putWalk]
    rw [walkGo_of_onDies h]

end Sys2Proof.Machine
end

section
/-! What follows a slice exit (spec R142, R147, R320): other slices are re-formed into gangs, and a walk may start. -/

namespace Sys2Proof.Machine

open Sys2Proof

/-- Slice x in the gang and the wait of y. -/
def Slice.regangedAs (x y : Slice) : Slice := { x with gang := y.gang, ahead := y.ahead, wait := y.wait }

/-- What re-forming launch gangs and starting walks may change: of a slice its gang and a wait that it has, and apart from the
slices the teams and the walks, where no entry stands in a spill area. -/
structure RegangOnly (s t : State) : Prop where
  slice : ∀ j, t.sl j = (s.sl j).regangedAs (t.sl j)
  wait : ∀ j, (s.sl j).wait = none → (t.sl j).wait = none
  frame : Claims.onDies s → t = { s with slices := t.slices, teams := t.teams, walks := t.walks }

theorem RegangOnly.refl (s : State) : RegangOnly s s := ⟨fun _ => rfl, fun _ h => h, fun _ => rfl⟩

theorem RegangOnly.trans {s t u : State} (h : RegangOnly s t) (g : RegangOnly t u) : RegangOnly s u where
  slice j := by rw [g.slice j, h.slice j]; rfl
  wait j hj := g.wait j (h.wait j hj)
  frame hs := by
    have ht := h.frame hs
    have hu := g.frame (by rw [ht]; exact hs)
    rw [hu, ht]

theorem GangOnly.regangOnly {s t : State} (h : GangOnly s t) : RegangOnly s t where
  slice j := by rw [h.2.1 j]; rfl
  wait j hj := by rw [h.2.1 j]; exact hj
  frame _ := by rw [h.1]

theorem modTm_regangOnly (s : State) (k : Nat) (f : Team → Team) : RegangOnly s (s.modTm k f) :=
  ⟨fun _ => rfl, fun _ h => h, fun _ => rfl⟩

/-- Slices that go on wait no more. -/
theorem unwait_regangOnly (s : State) (ks : List Nat) : RegangOnly s (s.modSls ks (fun x => { x with wait := none })) where
  slice j := by rw [modSls_sl]; split <;> rfl
  wait j hj := by rw [modSls_sl]; split <;> trivial
  frame _ := rfl

theorem startWalk_regangOnly (s : State) (t k die : Nat) (first : Option Nat) : RegangOnly s (s.startWalk t k die first) := by
  have hsl : ∀ j, (s.startWalk t k die first).sl j = s.sl j := fun j => by unfold State.sl; rw [startWalk_slices]
  exact ⟨fun j => by rw [hsl]; rfl, fun j hj => by rw [hsl]; exact hj, fun h => by rw [startWalk_of_onDies h]⟩

theorem leftBehind_gangOnly (s : State) (t : Nat) (ks : List Nat) : GangOnly s (s.leftBehind t ks) :=
  modSls_gangOnly s _ _ (fun _ => rfl)

theorem endRegang_regangOnly (s : State) (t g : Nat) : RegangOnly s (s.endRegang t g) :=
  (leftBehind_gangOnly s t _).regangOnly.trans <| (unwait_regangOnly _ _).trans <| (modTm_regangOnly _ t _).trans <|
    (modSls_gangOnly _ _ _ (fun _ => rfl)).regangOnly

theorem tryRegang_regangOnly (s : State) (t g : Nat) : RegangOnly s (s.tryRegang t g) := by
  unfold State.tryRegang
  dsimp only
  split
  · exact (endRegang_regangOnly s t g).trans (modTm_regangOnly _ t _)
  · exact .refl s

theorem sliceExited_regangOnly (s : State) (k : Nat) : RegangOnly s (s.sliceExited k) := by
  unfold State.sliceExited
  dsimp only
  split
  · exact tryRegang_regangOnly s _ _
  · exact (tryRegang_regangOnly s _ _).trans (startWalk_regangOnly _ _ _ _ _)

theorem exits_regangOnly (s : State) (ms : List Nat) : RegangOnly s (s.exits ms) :=
  List.foldlRecOn (motive := RegangOnly s) _ State.sliceExited (.refl s) (fun u h k _ => h.trans (sliceExited_regangOnly u k))

/-- Keeping the fairness count in trap mode concerns that count alone (R224). -/
theorem keepCount_eq (x y : Slice) : x.keepCount y = { y with fairCount := if x.trapMode then x.fairCount else y.fairCount } := by
  unfold Slice.keepCount
  split <;> rfl

/-- A control instruction of a gang that reads no s register and takes no frame (R136, R142): its slices become what it says,
but for their gang and a wait they have; nothing else changes where no slice exits, and otherwise what follows an exit. -/
theorem control_exits (s : State) (go : Slice → Slice) (hf : ∀ x, (go x).frame = x.frame) :
    let t := s.control [] go
    ((∀ k ∈ s.members s.cur, (t.sl k).done = false) → s.changesOnly t (s.members s.cur)) ∧
    (Claims.onDies s → t = { s with slices := t.slices, teams := t.teams, walks := t.walks }) ∧
    ∀ k ∈ s.members s.cur,
      t.sl k = ((s.sl k).issuedIn s.cycle |>.keepCount (go ((s.sl k).issuedIn s.cycle))).regangedAs (t.sl k) ∧
      ((go ((s.sl k).issuedIn s.cycle)).wait = none → (t.sl k).wait = none) := by
  have hstep := control_step s [] go (fun _ _ r hr => nomatch hr) (fun _ => .inr rfl) hf
  unfold State.control
  dsimp only
  generalize hu : State.partFrom _ s (s.members s.cur) = u at hstep ⊢
  obtain ⟨hchanges, hslices⟩ := hstep
  have hexits := exits_regangOnly u (s.members s.cur)
  refine ⟨fun hdone => ?_, fun hs => ?_, fun k hk => ⟨?_, fun hw => ?_⟩⟩
  · rw [exits_none u _ (fun k hk => by have h := hdone k hk; rw [hexits.slice k] at h; exact h)]
    exact hchanges
  · have hframe := hexits.frame (by rw [hchanges.1]; exact hs)
    rw [hframe, hchanges.1]
  · rw [hexits.slice k, hslices k hk]; rfl
  · refine hexits.wait k ?_
    rw [hslices k hk]
    dsimp only
    rw [keepCount_eq]
    exact hw

end Sys2Proof.Machine
end

section
/-! MERGE (spec R135, R139): arriving at a token and next_path, each as its rule says it, and what MERGE does to a slice. -/

namespace Sys2Proof.Machine

open Sys2Proof Sys2Proof.Claims

theorem arrive_eq_arriveAt (l : Word) (m : BitVec 4) (top : List StackEntry) : arrive l m top = arriveAt l m top := by
  induction top with
  | nil => rfl
  | cons e below ih =>
    unfold arrive
    by_cases he : e.kind = 1 ∧ e.pc = l
    · have ht : tokenFor l e = true := by simpa [tokenFor, StackEntry.pc] using he
      simp [arriveAt, he, ht]
    · have ht : tokenFor l e = false := by simpa [tokenFor, StackEntry.pc] using he
      rw [if_neg he, ih]
      unfold arriveAt
      simp only [List.dropWhile_cons, List.takeWhile_cons, ht, Bool.not_false, if_true]
      cases below.dropWhile (fun e => !tokenFor l e) <;> rfl

/-- A slice after `next_path` has answered what is left of its stack, the lanes and the PC, or that it exits (R135). -/
def Slice.resumedAs (x : Slice) : Option (List StackEntry × BitVec 4 × Word) → Slice
  | none => { x with stack := [], active := 0, done := true }
  | some (below, m, pc) => { x with stack := below.reverse, active := m, pc := pc, fairCount := 0 }

theorem resumable_iff {exited : BitVec 4} {e : StackEntry} :
    resumable exited e = true ↔ (e.kind = 1 ∨ e.kind = 2) ∧ liveMask exited e ≠ 0 := by
  simp [resumable]

theorem resume_cons_of_resumable {exited : BitVec 4} {e : StackEntry} (h : resumable exited e = true) (below : List StackEntry) :
    resume exited (e :: below) = some (below, liveMask exited e, e.addr ++ 0#2 + (if e.kind = 2 then 0 else 4)) := by
  simp [resume, h]

theorem resume_cons_of_not_resumable {exited : BitVec 4} {e : StackEntry} (h : resumable exited e = false) (below : List StackEntry) :
    resume exited (e :: below) = resume exited below := by
  simp [resume, h]

theorem nextPathFrom_eq_resumedAs (x : Slice) (top : List StackEntry) : x.nextPathFrom top = x.resumedAs (resume x.exited top) := by
  induction top with
  | nil => rfl
  | cons e below ih =>
    unfold Slice.nextPathFrom
    split
    next hparked =>
      rw [resume_cons_of_resumable (resumable_iff.2 ⟨.inr hparked.1, hparked.2⟩), if_pos hparked.1, add_zero]
      rfl
    next hparked =>
      split
      next htoken =>
        rw [resume_cons_of_resumable (resumable_iff.2 ⟨.inl htoken.1, htoken.2⟩), if_neg (by rw [htoken.1]; decide)]
        rfl
      next htoken =>
        have hnot : resumable x.exited e = false := Bool.eq_false_iff.2 (fun h => by
          obtain ⟨hkind | hkind, hlive⟩ := resumable_iff.1 h
          · exact htoken ⟨hkind, hlive⟩
          · exact hparked ⟨hkind, hlive⟩)
        rw [ih, resume_cons_of_not_resumable hnot]

/-- A slice that `next_path` has resumed, in whatever gang, is what the rule says it is (R135, R143). -/
theorem resumed_of_resumedAs {x y z : Slice} {exited : BitVec 4} {top : List StackEntry} (hdone : z.done = false)
    (hy : y = (x.keepCount (z.resumedAs (resume exited top))).regangedAs y) : resumed x exited top y := by
  rw [keepCount_eq] at hy
  unfold resumed
  split
  next h =>
    rw [h] at hy
    rw [hy]
    exact ⟨rfl, rfl, rfl⟩
  next below m pc h =>
    rw [h] at hy
    rw [hy]
    exact ⟨rfl, rfl, rfl, hdone, fun ht => by simp [Slice.regangedAs, Slice.resumedAs, ht]⟩

/-- MERGE in one slice (R139). -/
def Slice.merged (x : Slice) : Slice :=
  match arriveAt x.pc x.active x.stack.reverse with
  | none => { x with pc := x.pc + 4 }
  | some top => x.resumedAs (Claims.resume x.exited top)

theorem merged_of_none {x : Slice} (h : arriveAt x.pc x.active x.stack.reverse = none) : x.merged = { x with pc := x.pc + 4 } := by
  unfold Slice.merged
  rw [h]

theorem merged_of_some {x : Slice} {top : List StackEntry} (h : arriveAt x.pc x.active x.stack.reverse = some top) :
    x.merged = x.resumedAs (resume x.exited top) := by
  unfold Slice.merged
  rw [h]

/-- MERGE changes of a slice its PC, its token stack, its active mask, whether it has exited, and the count of R143. -/
theorem merged_frame (x : Slice) : x.merged =
    { x with
      pc := x.merged.pc, stack := x.merged.stack, active := x.merged.active, done := x.merged.done
      fairCount := x.merged.fairCount } := by
  cases h : arriveAt x.pc x.active x.stack.reverse with
  | none => rw [merged_of_none h]
  | some top =>
    rw [merged_of_some h]
    cases resume x.exited top <;> rfl

theorem execMerge_eq (s : State) : execMerge s = .next (s.control [] Slice.merged) := by
  unfold execMerge
  congr 2
  funext x
  rw [arrive_eq_arriveAt]
  cases h : arriveAt x.pc x.active x.stack.reverse with
  | none => exact (merged_of_none h).symm
  | some top =>
    rw [merged_of_some h]
    dsimp only [Slice.nextPath]
    rw [List.reverse_reverse, nextPathFrom_eq_resumedAs]
    cases resume x.exited top <;> rfl

/-- What a slice that MERGE has changed, in whatever gang, keeps. -/
theorem moved_of_merged {x y : Slice} {cycle : Nat} (hx : x.wait = none) (hwait : y.wait = none)
    (hy : y = ((x.issuedIn cycle).keepCount (x.issuedIn cycle).merged).regangedAs y) :
    y = { x.moved y with stack := y.stack, active := y.active, done := y.done } := by
  rw [keepCount_eq, merged_frame] at hy
  rw [Slice.regangedAs, hwait, ← hx] at hy
  generalize y.gang = g, y.ahead = a at hy
  rw [hy]
  rfl

end Sys2Proof.Machine

open Sys2Proof Sys2Proof.Machine Sys2Proof.Claims

/-- Settles O11: by `control_exits`, with the two cases of `Slice.merged`. -/
theorem mergeResult : Obligations.MergeResult := by
  unfold Obligations.MergeResult
  intro s
  obtain ⟨hone, hframe, hmembers⟩ := control_exits s Slice.merged (fun x => by rw [merged_frame])
  refine ⟨_, execMerge_eq s, hone, hframe, fun k hk => ?_⟩
  obtain ⟨hslice, hwait⟩ := hmembers k hk
  have hdone := (members_present s hk).2
  refine ⟨?_, fun hw => moved_of_merged hw (hwait (by rw [merged_frame]; exact hw)) hslice⟩
  split
  next h =>
    rw [merged_of_none (x := (s.sl k).issuedIn s.cycle) h, keepCount_eq] at hslice
    rw [hslice]
    exact ⟨rfl, rfl, rfl, hdone⟩
  next top h =>
    rw [merged_of_some (x := (s.sl k).issuedIn s.cycle) h] at hslice
    exact resumed_of_resumedAs (x := (s.sl k).issuedIn s.cycle) (z := (s.sl k).issuedIn s.cycle) hdone hslice

end

section
/-! TRAP (spec R212, R217, R225): its word, the trap of a slice at the issue of a short instruction, and what is left of its gang. -/

namespace Sys2Proof.Machine

open Sys2Proof Sys2Proof.Claims

/-! ## The word of TRAP -/

/-- The granule of OP7 0x40 with the fields IMM18 and SD (R61, R225). -/
def trapWord (imm : BitVec 18) (sd : BitVec 6) : Word := imm ++ (sd ++ (0x40#7 ++ 0#1))

theorem trapWord_short (imm : BitVec 18) (sd : BitVec 6) : isLong (trapWord imm sd) = false :=
  Laws.low_append (Laws.low_append rfl)

theorem trapWord_op7 (imm : BitVec 18) (sd : BitVec 6) : fOp7 (trapWord imm sd) = 0x40 := by
  unfold fOp7 trapWord
  rw [BitVec.extractLsb'_append_eq_of_add_le (by decide), BitVec.extractLsb'_append_eq_of_add_le (by decide)]
  decide

theorem trapWord_imm (imm : BitVec 18) (sd : BitVec 6) : (trapWord imm sd).extractLsb' 14 18 = imm :=
  BitVec.extractLsb'_append_eq_left

/-- The reserved bits of TRAP are its field SD. -/
theorem trapWord_reserved (imm : BitVec 18) (sd : BitVec 6) : trapWord imm sd &&& 0x3F00#32 = 0 ↔ sd = 0 := by
  have hmask : 0x3F00#32 = 0#18 ++ (BitVec.allOnes 6 ++ 0#8) := rfl
  have hfield : trapWord imm sd &&& 0x3F00#32 = 0#18 ++ (sd ++ 0#8) := by
    rw [hmask, trapWord, BitVec.and_append, BitVec.and_append, BitVec.and_zero, BitVec.and_zero, BitVec.and_allOnes]
  have hzero : (0 : Word) = 0#18 ++ (0#6 ++ 0#8) := rfl
  rw [hfield, hzero, BitVec.append_right_inj, BitVec.append_left_inj]
  rfl

theorem shortForm_of_op7_trap {w : Word} (h : fOp7 w = 0x40) :
    shortForm w = some (0x3F00#32, some (.trap (w.extractLsb' 14 18))) := by
  unfold shortForm
  rw [h]
  rfl

theorem decode_trapWord (imm : BitVec 18) (sd : BitVec 6) :
    decode (trapWord imm sd) 0 0 = if sd = 0 then .ok (.trap imm) else .error 2 := by
  have hdecode : decode (trapWord imm sd) 0 0 = decodeShort (trapWord imm sd) := by
    rw [decode, trapWord_short]
    rfl
  rw [hdecode, decodeShort, shortForm_of_op7_trap (trapWord_op7 imm sd), trapWord_imm]
  by_cases hsd : sd = 0
  · rw [if_pos hsd]
    simp only [(trapWord_reserved imm sd).2 hsd, ne_eq, not_true_eq_false, if_false]
    rfl
  · simp only [ne_eq, trapWord_reserved, hsd, not_false_eq_true, if_true, if_false]

/-! ## A trap at the issue of a short instruction -/

/-- Changes that leave the frames alone leave the permits in use as they are (R217). -/
theorem modSls_permitsUsed (s : State) (ks : List Nat) {f : Slice → Slice} (hf : ∀ x, (f x).frame = x.frame) (core : Nat) :
    (s.modSls ks f).permitsUsed core = s.permitsUsed core := by
  unfold State.permitsUsed State.modSls amods
  rw [List.filter_map, List.length_map]
  congr 2
  funext e
  rw [Function.comp_apply]
  split
  · rw [hf]
  · rfl

theorem issued_permitsUsed (s : State) (ks : List Nat) (core : Nat) : (s.issued ks).permitsUsed core = s.permitsUsed core :=
  modSls_permitsUsed s ks (f := fun x => x.issuedIn s.cycle) (fun _ => rfl) core

theorem issued_sl_self {s : State} {k : Nat} (h : s.present k) : (s.issued [k]).sl k = (s.sl k).issuedIn s.cycle := by
  rw [issued_sl, if_pos ⟨List.mem_singleton_self k, h⟩]

/-- Issue takes nothing that a trap needs. -/
theorem canTrap_issued {s : State} {k : Nat} (h : CanTrap s k) : CanTrap (s.issued [k]) k := by
  have hsl := issued_sl_self h.present
  exact {
    present := (issued_present s [k] k).trans h.present
    noFrame := by rw [hsl]; exact h.noFrame
    noWait := by rw [hsl]; exact h.noWait
    noEntry := by rw [hsl]; exact h.noEntry
    noWalk := h.noWalk
    permit := (issued_permitsUsed s [k] _).trans_lt h.permit
    vector := by rw [hsl]; exact h.vector }

/-- The account of issue is no part of what the frame and the handler hold. -/
theorem trapTaken_of_issued {s t : State} {k : Nat} {cause detail : BitVec 8} {lns : BitVec 4} {info0 info1 pc : Word}
    (hk : s.present k) (h : trapTaken (s.issued [k]) t k cause detail lns info0 info1 pc) :
    trapTaken s t k cause detail lns info0 info1 pc := by
  unfold trapTaken trapFrame inHandler at h
  rw [issued_sl_self hk] at h
  exact h

/-- Of the state after a trap only the record of its slice is spoken of. -/
theorem trapTaken_congr {s t u : State} {k : Nat} {cause detail : BitVec 8} {lns : BitVec 4} {info0 info1 pc : Word}
    (hsl : u.sl k = t.sl k) (h : trapTaken s t k cause detail lns info0 info1 pc) :
    trapTaken s u k cause detail lns info0 info1 pc := by
  unfold trapTaken inHandler at h ⊢
  rw [hsl]
  exact h

theorem modSls_sl_of_notMem (s : State) {ks : List Nat} {k : Nat} (f : Slice → Slice) (h : k ∉ ks) :
    (s.modSls ks f).sl k = s.sl k := by
  rw [modSls_sl, if_neg (fun hk => h hk.1)]

theorem settleGang_sl_of_notMem (s : State) {ms : List Nat} {k : Nat} (h : k ∉ ms) : (s.settleGang ms).sl k = s.sl k := by
  have hrest (p : Nat → Bool) : k ∉ ms.filter p := fun hk => h (List.mem_of_mem_filter hk)
  unfold State.settleGang State.part
  dsimp only
  split
  · rw [modSls_sl_of_notMem _ _ (fun hk => hrest _ (List.mem_of_mem_filter hk)), modSls_sl_of_notMem _ _ (hrest _)]
  · rfl

/-- The others of a gang go on without a change of the slice that has acted (R212). -/
theorem perSlice_sl_cur (s : State) (f : State → Nat → State) :
    (s.perSlice f).sl s.cur = (f (s.issued [s.cur]) s.cur).sl s.cur := by
  unfold State.perSlice
  dsimp only
  split
  · exact settleGang_sl_of_notMem _ (fun h => by simpa using (List.mem_filter.1 h).2)
  · rfl

theorem changesOnly_trans {s t u : State} {ks : List Nat} (h : s.changesOnly t ks) (g : t.changesOnly u ks) :
    s.changesOnly u ks := by
  obtain ⟨hst, hslices⟩ := h
  obtain ⟨htu, gslices⟩ := g
  refine ⟨by rw [htu, hst], fun j hj => ?_⟩
  rw [gslices j hj, hslices j hj]
  rfl

theorem GangOnly.changesOnly {s t : State} (h : GangOnly s t) (ks : List Nat) : s.changesOnly t ks :=
  ⟨h.1, fun j _ => h.2.1 j⟩

theorem issued_changesOnly (s : State) (ks : List Nat) : s.changesOnly (s.issued ks) ks :=
  ⟨rfl, fun j hj => by rw [issued_sl, if_neg (fun h => hj h.1)]; rfl⟩

theorem perSlice_changesOnly {s : State} {f : State → Nat → State}
    (h : (s.issued [s.cur]).changesOnly (f (s.issued [s.cur]) s.cur) [s.cur]) : s.changesOnly (s.perSlice f) [s.cur] := by
  have hacted := changesOnly_trans (issued_changesOnly s [s.cur]) h
  unfold State.perSlice
  dsimp only
  split
  · exact changesOnly_trans hacted ((settleGang_gangOnly _ _).changesOnly _)
  · exact hacted

/-- A short instruction whose one act is a trap with no event: its slice takes the trap as the state before the issue says, and
nothing else changes but the gang of the slices left (R212, R217). -/
theorem perSlice_trap_taken {s : State} (h : CanTrap s s.cur) {f : State → Nat → State} (i : TrapInfo) (b : Bool) (extra : List Word)
    (he : causeHasEvent i = false) (hf : f (s.issued [s.cur]) s.cur = (s.issued [s.cur]).trap s.cur i b extra) :
    s.changesOnly (s.perSlice f) [s.cur] ∧
      trapTaken s (s.perSlice f) s.cur i.cause i.detail i.lanes i.info0 i.info1 i.pc := by
  obtain ⟨htaken, hframe, -, -⟩ := trap_taken _ s.cur i b extra (canTrap_issued h) he
  rw [← hf] at htaken hframe
  exact ⟨perSlice_changesOnly hframe, trapTaken_congr (perSlice_sl_cur s f) (trapTaken_of_issued h.present htaken)⟩

theorem exec_trap (imm : BitVec 18) (s : State) : exec (.trap imm) s = .next (s.perSlice (fun t k =>
    t.trap k ⟨causeSoftware, 0, 0xF, imm.setWidth 32, 0, (t.sl k).pc + 4⟩ false [])) := rfl

end Sys2Proof.Machine

open Sys2Proof Sys2Proof.Machine Sys2Proof.Claims

/-- Settles O15: by `decode_trapWord`, and by `perSlice_trap_taken` with the SOFTWARE trap of the next instruction's address. -/
theorem trapEntry : Obligations.TrapEntry := by
  unfold Obligations.TrapEntry
  refine ⟨decode_trapWord, fun imm s h => ⟨_, exec_trap imm s, ?_⟩⟩
  refine perSlice_trap_taken h ⟨causeSoftware, 0, 0xF, imm.setWidth 32, 0, (s.sl s.cur).pc + 4⟩ false [] rfl ?_
  rw [issued_sl_self h.present]
  rfl

end
